-- ==== Sys2Proof/Word.lean ====
section
/-! DEFINITION. The words and the numberings of the CL820.

Characters and bytes of the two links are bit vectors (spec/10 R177).
Bays, taps, nodes, channels and pool entries are numbers of a fixed range (spec/00 section 4.2).
Bays, taps and nodes are numbered from 1 in the manual and from 0 here: `bayNum`, `tapNum` and `nodeNum` give the manual's number. -/

namespace Sys2Proof

/-- One data byte (R177). -/
abbrev Byte := BitVec 8

/-- One Bay Link character: 8 data bits, and the marker as bit 8 (section 1.1, R177). -/
abbrev Char9 := BitVec 9

/-- A bay; `0` is bay 1 (section 4.2 of the introduction). -/
abbrev Bay := Fin 6

/-- A tap; `0` is tap 1. -/
abbrev Tap := Fin 2

/-- A node; `0` is node 1. -/
abbrev Node := Fin 9

/-- A conditioning channel, numbered as in the manual. -/
abbrev Chan := Fin 24

/-- A step pool entry, numbered as in the manual. -/
abbrev PoolIx := Fin 48

/-- The manual's number of a bay. -/
abbrev bayNum (b : Bay) : Nat := b.val + 1

/-- The manual's number of a tap. -/
abbrev tapNum (t : Tap) : Nat := t.val + 1

/-- The manual's number of a node. -/
abbrev nodeNum (n : Node) : Nat := n.val + 1

/-- All bays, in ascending order. -/
abbrev allBays : List Bay := [0, 1, 2, 3, 4, 5]

/-- Both taps, in ascending order. -/
abbrev allTaps : List Tap := [0, 1]

/-- All nodes, in ascending order. -/
abbrev allNodes : List Node := [0, 1, 2, 3, 4, 5, 6, 7, 8]

/-- All channels, in ascending order. -/
abbrev allChans : List Chan := List.finRange 24

/-- All pool entries, in ascending order. -/
abbrev allPool : List PoolIx := List.finRange 48

end Sys2Proof
end

