-- ==== Sys2Proof/Syntax.lean ====
section
/-! DEFINITION. The commands of the CL820: one constructor of `Instr` for each row of spec/opcode_table.json.

The table gives its rows no operands; the operands here are those the rules name.
A request's parameters reach the model decoded, because the manual gives no layout for them (spec/00 sections 4.4 and 5.2; log 7).
A field whose code may name nothing is an `Option`: `none` is a code outside the field's named values (log 8). -/

namespace Sys2Proof

/-- R49. How a keg's control temperature is formed. -/
inductive SenseMode
  | core
  | wall
  | mean
  deriving DecidableEq, Repr

/-- R19. The kind of a channel or of a destination. -/
inductive ChanKind
  | temp
  | press
  deriving DecidableEq, Repr

/-- R19. How a window is reduced: `plain` is the manual's NONE. -/
inductive FilterKind
  | plain
  | mean
  | weighted
  deriving DecidableEq, Repr

/-- R99. The chiller policy. -/
inductive Policy
  | hold
  | turn
  deriving DecidableEq, Repr

/-- Table 3-1. The 24 destinations. -/
inductive Dest
  | kegCore (b : Bay)
  | kegWall (b : Bay)
  | kegPress (b : Bay)
  | manifold
  | cylinder
  | line (t : Tap)
  | glycol
  | ambient
  deriving DecidableEq, Repr

/-- Table 1-3. The 35 node outputs. -/
inductive Output
  | heater (b : Bay)
  | cool (b : Bay)
  | gasIn (b : Bay)
  | vent (b : Bay)
  | pump
  | lineValve (t : Tap)
  | regulator
  | supply
  | purge (t : Tap)
  | tapValve (t : Tap)
  | cue (t : Tap)
  deriving DecidableEq, Repr

/-- Table 5-2. A schedule step with its parameters as given: temperatures in 0.01 °C, pressures in mbar, durations in minutes. -/
inductive Step
  | hold (target duration : Int) (vent : Option Int)
  | ramp (target rate : Int) (vent : Option Int)
  | quiet (target threshold maximum : Int) (vent : Option Int)
  | carb (target pressure settle : Int)
  | serve (temperature pressure : Int)
  | endStep
  deriving DecidableEq, Repr

/-! ## Parameters of the requests -/

/-- A request's parameters, or a payload whose length is not the one its code calls for (R171 item 2, log 7). -/
inductive Payload (α : Type)
  | params (p : α)
  | wrongLength
  deriving DecidableEq, Repr

/-- R32. The complete channel record CHANNEL_SET carries. -/
structure ChannelFields where
  enabled : Option Bool
  node : Nat
  input : Nat
  kind : Option ChanKind
  gain : Int
  offset : Int
  spike : Int
  filter : Option FilterKind
  window : Nat
  weights : Option (List Nat)
  decimation : Nat
  deriving DecidableEq, Repr

structure ChannelSetParams where
  channel : Nat
  fields : ChannelFields
  deriving DecidableEq, Repr

/-- R42. A destination as ROUTE_LOAD names it, with bay and tap numbers not yet checked. -/
inductive DestCode
  | nowhere
  | kegCore (bay : Nat)
  | kegWall (bay : Nat)
  | kegPress (bay : Nat)
  | manifold
  | cylinder
  | line (tap : Nat)
  | glycol
  | ambient
  | unknown
  deriving DecidableEq, Repr

/-- R41. One entry of ROUTE_LOAD; the divider's field holds 0 to 255 and no other value (R42). -/
structure RouteFields where
  dest : DestCode
  divider : Byte
  deriving DecidableEq, Repr

/-- R146. The settings TAP_LOAD carries for one tap; `binding = none` is the setting "none". -/
structure TapFields where
  binding : Option Nat
  locked : Option Bool
  pulsesPerLitre : Int
  smallVolume : Int
  largeVolume : Int
  lineLimit : Int
  purgeInterval : Int
  purgeGrace : Int
  purgeDuration : Int
  purgePressure : Int
  stallTime : Int
  deriving DecidableEq, Repr

structure TapLoadParams where
  tap1 : TapFields
  tap2 : TapFields
  deriving DecidableEq, Repr

/-- R140. The seven manifold settings. -/
structure GasSetParams where
  settleTolerance : Int
  pulseLength : Int
  checkPressure : Int
  checkWindow : Int
  leakLimit : Int
  lowThreshold : Int
  checkInterval : Int
  deriving DecidableEq, Repr

/-- R117. -/
structure ChillSetParams where
  limit : Int
  policy : Option Policy
  quantum : Int
  glycolLimit : Int
  deriving DecidableEq, Repr

structure ChannelSeedParams where
  channel : Nat
  value : Int
  deriving DecidableEq, Repr

/-- R35. The setting of CHANNEL_SUBST. -/
inductive SubstCode
  | off
  | const (v : Int)
  | alt (v1 v2 : Int)
  | unknown
  deriving DecidableEq, Repr

structure ChannelSubstParams where
  channel : Nat
  setting : SubstCode
  deriving DecidableEq, Repr

structure KegLoadParams where
  bay : Nat
  volume : Int
  mode : Option SenseMode
  deriving DecidableEq, Repr

/-- R58, R84. A step list; `none` is a step of an unknown kind, or with a parameter missing or extra (R83). -/
structure KegStepsParams where
  bay : Nat
  steps : List (Option Step)
  deriving DecidableEq, Repr

structure KegServeParams where
  bay : Nat
  temperature : Int
  pressure : Int
  deriving DecidableEq, Repr

structure BayParams where
  bay : Nat
  deriving DecidableEq, Repr

structure KegVolumeParams where
  bay : Nat
  volume : Int
  deriving DecidableEq, Repr

structure KegLimitsParams where
  bay : Nat
  band : Int
  mode : Option SenseMode
  maxPressure : Int
  deriving DecidableEq, Repr

/-- R147. `bay = none` is the setting "none". -/
structure TapBindParams where
  tap : Nat
  bay : Option Nat
  deriving DecidableEq, Repr

structure TapLockParams where
  tap : Nat
  locked : Option Bool
  deriving DecidableEq, Repr

structure PourParams where
  tap : Nat
  volume : Int
  deriving DecidableEq, Repr

structure TapParams where
  tap : Nat
  deriving DecidableEq, Repr

structure ChannelParams where
  channel : Nat
  deriving DecidableEq, Repr

structure NodeParams where
  node : Nat
  deriving DecidableEq, Repr

/-- R4. The output names a NODE_WRITE may carry, before they are held against the node. -/
inductive OutputCode
  | heater
  | cool
  | gasIn
  | vent
  | pump
  | lineValve (tap : Nat)
  | regulator
  | supply
  | purge (tap : Nat)
  | tapValve (tap : Nat)
  | cue (tap : Nat)
  | unknown
  deriving DecidableEq, Repr

/-- R4. Values are coded as in Table 10-4: OFF 0 and ON 1; cues 0 to 3; the regulator in mbar (log 21). -/
structure NodeWriteParams where
  node : Nat
  output : OutputCode
  value : Int
  deriving DecidableEq, Repr

/-! ## Request frames -/

/-- A REQUEST frame's request code and parameters (Table 10-1). -/
inductive Request
  | channelSet (p : Payload ChannelSetParams)
  | routeLoad (p : Payload (List RouteFields))
  | tapLoad (p : Payload TapLoadParams)
  | gasSet (p : Payload GasSetParams)
  | chillSet (p : Payload ChillSetParams)
  | channelSeed (p : Payload ChannelSeedParams)
  | channelSubst (p : Payload ChannelSubstParams)
  | run (p : Payload Unit)
  | hold (p : Payload Unit)
  | softReset (p : Payload Unit)
  | kegLoad (p : Payload KegLoadParams)
  | kegSchedule (p : Payload KegStepsParams)
  | kegAppend (p : Payload KegStepsParams)
  | kegServe (p : Payload KegServeParams)
  | kegAbort (p : Payload BayParams)
  | kegResume (p : Payload BayParams)
  | kegRemove (p : Payload BayParams)
  | kegVolume (p : Payload KegVolumeParams)
  | kegLimits (p : Payload KegLimitsParams)
  | tapBind (p : Payload TapBindParams)
  | tapLock (p : Payload TapLockParams)
  | pour (p : Payload PourParams)
  | pourCancel (p : Payload TapParams)
  | gasCheck (p : Payload Unit)
  | gasUnlock (p : Payload Unit)
  | attnMask (p : Payload (List (Option Bool)))
  | attnAck (p : Payload (List Nat))
  | qStatus (p : Payload Unit)
  | qKeg (p : Payload BayParams)
  | qChannel (p : Payload ChannelParams)
  | qQueues (p : Payload Unit)
  | qTap (p : Payload TapParams)
  | qIdent (p : Payload Unit)
  | nodeWrite (p : Payload NodeWriteParams)
  | nodeRead (p : Payload NodeParams)
  | unknown (code : Option Byte)
  deriving DecidableEq, Repr

/-- A good REQUEST frame as the receiver queue holds it: the host's tag, and what it asks (R169, R170). -/
structure RequestFrame where
  tag : Byte
  request : Request
  deriving DecidableEq, Repr

/-! ## The commands -/

/-- The commands of the part: one constructor per row of spec/opcode_table.json. -/
inductive Instr
  -- resets and the Bay Link
  | hardwareReset
  | hardwareResetEnd
  | roundTimerExpiry
  | exchangeFrameSent
  | readyReply (chars : List Char9)
  | busyReply (chars : List Char9)
  | badReply (chars : List Char9)
  | replyTimeout
  | retryTimerExpiry
  | discardIntervalEnd
  | strayBayCharacter (c : Char9)
  -- schedules and the chiller
  | activityTimerExpiry (b : Bay)
  | stepDurationExpiry (b : Bay)
  | rampTimerExpiry (b : Bay)
  | quietMaximumExpiry (b : Bay)
  | carbSettleExpiry (b : Bay)
  | turnTimerExpiry (b : Bay)
  -- the manifold
  | operationSettleTimeout
  | pulseEnd
  | purgeComplete
  | checkWindowClose
  | checkIntervalExpiry
  -- the taps
  | pourWaitExpiry (t : Tap)
  | stallTimerExpiry (t : Tap)
  | purgeTimerMinute (t : Tap)
  | purgeRetryExpiry (t : Tap)
  | blinkWindowEnd (t : Tap)
  -- the Appliance Link
  | applianceFrameReceived (bytes : List Byte) (r : Request)
  | badFrame (bytes : List Byte) (framingError : Bool)
  | frameGapTimeout
  | strayLinkByte (x : Byte)
  | upwardFrameTransmit
  -- requests
  | channelSet (tag : Byte) (p : Payload ChannelSetParams)
  | routeLoad (tag : Byte) (p : Payload (List RouteFields))
  | tapLoad (tag : Byte) (p : Payload TapLoadParams)
  | gasSet (tag : Byte) (p : Payload GasSetParams)
  | chillSet (tag : Byte) (p : Payload ChillSetParams)
  | channelSeed (tag : Byte) (p : Payload ChannelSeedParams)
  | channelSubst (tag : Byte) (p : Payload ChannelSubstParams)
  | run (tag : Byte) (p : Payload Unit)
  | hold (tag : Byte) (p : Payload Unit)
  | softReset (tag : Byte) (p : Payload Unit)
  | kegLoad (tag : Byte) (p : Payload KegLoadParams)
  | kegSchedule (tag : Byte) (p : Payload KegStepsParams)
  | kegAppend (tag : Byte) (p : Payload KegStepsParams)
  | kegServe (tag : Byte) (p : Payload KegServeParams)
  | kegAbort (tag : Byte) (p : Payload BayParams)
  | kegResume (tag : Byte) (p : Payload BayParams)
  | kegRemove (tag : Byte) (p : Payload BayParams)
  | kegVolume (tag : Byte) (p : Payload KegVolumeParams)
  | kegLimits (tag : Byte) (p : Payload KegLimitsParams)
  | tapBind (tag : Byte) (p : Payload TapBindParams)
  | tapLock (tag : Byte) (p : Payload TapLockParams)
  | pour (tag : Byte) (p : Payload PourParams)
  | pourCancel (tag : Byte) (p : Payload TapParams)
  | gasCheck (tag : Byte) (p : Payload Unit)
  | gasUnlock (tag : Byte) (p : Payload Unit)
  | attnMask (tag : Byte) (p : Payload (List (Option Bool)))
  | attnAck (tag : Byte) (p : Payload (List Nat))
  | qStatus (tag : Byte) (p : Payload Unit)
  | qKeg (tag : Byte) (p : Payload BayParams)
  | qChannel (tag : Byte) (p : Payload ChannelParams)
  | qQueues (tag : Byte) (p : Payload Unit)
  | qTap (tag : Byte) (p : Payload TapParams)
  | qIdent (tag : Byte) (p : Payload Unit)
  | nodeWrite (tag : Byte) (p : Payload NodeWriteParams)
  | nodeRead (tag : Byte) (p : Payload NodeParams)
  | unknownRequest (tag : Byte) (code : Option Byte)
  deriving DecidableEq, Repr

end Sys2Proof
end

