-- ==== Sys2Proof/Decode.lean ====
section
/-! DEFINITION. Reading a command from a table word.

No row of spec/opcode_table.json gives its command a bit pattern, so no word spells a command. -/

namespace Sys2Proof

/-- The command that a word spells by the table's bits: none, for every word. -/
def decodeTableWord (_nbits _w : Nat) : Option Instr := none

end Sys2Proof
end

