-- ==== Sys2Proof/Config.lean ====
section
/-! DEFINITION. What the part fixes, and the free values.

Fixed limits of the part are definitions here.
The free values are opaque: nothing in Lean gives them a value, and every statement holds for each of their values. -/

namespace Sys2Proof.Config

/-- FREE VALUE (log 6). The n-th open choice of a run: which of the orders that the manual leaves open is taken. -/
opaque freePick : Nat → Nat

/-- FREE VALUE (log 11). What the part takes from a pressed-choice character that is none of 1, 2, 3: modulo 3, SMALL, LARGE or STOP. -/
opaque pressChoiceOfCode : Nat → Nat

/-- FREE VALUE (log 20). The bytes that spell contents for which the manual has no layout: results, and the payloads of upward frames. -/
opaque payloadBytes {α : Type} (contents : α) : List Byte

/-- FREE VALUE (log 20). The number from which the code of a refusal is made; the manual names the refusals and gives none a code. -/
opaque refusalNumber {α : Type} (status : α) : Nat

/-- FREE VALUE (log 9). The code byte in the RESPONSE to a request that has no code. -/
opaque absentCode : Byte

/-- R175. The vendor code Q_IDENT answers. -/
def vendorCode : Nat := 0x41

/-- R175. The part code Q_IDENT answers. -/
def partCode : Nat := 820

/-- R175. The revision number Q_IDENT answers. -/
def revision : Nat := 1

/-- R129. Seconds after which a SETTLING operation fails to settle. -/
def settleLimit : Nat := 30

/-- R152. Seconds after which a PENDING pour gives up. -/
def pourWaitLimit : Nat := 60

/-- R159. Seconds of the purge retry timer. -/
def purgeRetryLimit : Nat := 60

/-- R160. Seconds of the blink window. -/
def blinkLimit : Nat := 5

/-- R75. Seconds (ten minutes) of the activity timer. -/
def activityLimit : Nat := 600

/-- R89. Seconds (six minutes) of the ramp timer. -/
def rampLimit : Nat := 360

/-- R91. Seconds (60 minutes) a QUIET step must have run before its activity test counts. -/
def quietMinimum : Nat := 3600

/-- R169. Frames the receiver queue holds at most. -/
def receiverLimit : Nat := 4

/-- R173. A REPORT joins while the upward queue holds fewer frames than this. -/
def reportLimit : Nat := 8

/-- R173. A POUR_RECORD joins while the upward queue holds fewer frames than this. -/
def pourRecordLimit : Nat := 14

/-- R125. Entries the gas request queue holds at most. -/
def gasQueueLimit : Nat := 8

/-- R169. The largest payload length of a frame. -/
def payloadLimit : Nat := 120

end Sys2Proof.Config
end

