-- ==== Sys2Proof/Machine/State.lean ====
section
/-! DEFINITION. The state of the CL820 as plain data, and its value after a hardware reset.

One structure for each block of Table 0-1, holding every piece of state its chapter names; INVENTORY.md lists them with their rules.
Counted timers hold whole seconds (R87 "in steps of one second"; log 2). -/

namespace Sys2Proof.Machine

/-! ## Bay Link Controller -/

/-- R1 Table 1-1. -/
inductive NodeState
  | unseen
  | online
  | lost
  deriving DecidableEq, Repr

/-- Section 2.3 of the introduction: a pressed choice. -/
inductive Press
  | small
  | large
  | stop
  deriving DecidableEq, Repr

/-- R15. What the tap panel reports for one tap. -/
structure PanelTap where
  flow : BitVec 16
  presses : BitVec 8
  choice : Press
  deriving DecidableEq, Repr

/-- R1. The contents of a READY reply; `panel` is present for node 9 alone. -/
structure Reply where
  inputs : Vector (BitVec 12) 4
  panel : Option (Vector PanelTap 2)
  deriving DecidableEq, Repr

/-- R1 Table 1-1. -/
structure NodeRecord where
  state : NodeState
  failures : Nat
  lastReply : Option Reply
  due : Bool
  deriving DecidableEq, Repr

/-- Table 1-4. -/
inductive ExchangePhase
  | sending
  | awaiting
  | retryWait
  deriving DecidableEq, Repr

/-- Table 1-4. `imageSent` holds the node's outputs in the order of `outputsOf`. -/
structure Exchange where
  node : Node
  imageSent : List Nat
  busyCount : Nat
  phase : ExchangePhase
  deriving DecidableEq, Repr

/-- R17. The discard interval: none, waiting for the abandoned frame to leave the line, or running. -/
inductive Discard
  | none
  | finishing
  | running
  deriving DecidableEq, Repr

/-- The state of the BLC (section 1.1). An output's value is ON 1 or OFF 0, a cue's code (Table 10-4), or mbar for the regulator;
its safe value is 0 in every case (Table 1-3). -/
structure Blc where
  nodes : Vector NodeRecord 9
  outs : Vector Nat 35
  urgent : List Node
  exchange : Option Exchange
  roundOpen : Bool
  roundTimer : Bool
  overrun : Bool
  discard : Discard
  driver : Bool
  txFrame : List Char9
  deriving DecidableEq, Repr

/-! ## Channel Conditioning Unit -/

/-- R19 Table 2-1. -/
structure ChannelRecord where
  enabled : Bool
  node : Node
  input : Fin 4
  kind : ChanKind
  gain : Nat
  offset : Int
  spike : Int
  filter : FilterKind
  window : Nat
  weights : Option (List Nat)
  decimation : Nat
  deriving DecidableEq, Repr

/-- R20 Table 2-3. -/
inductive ChannelState
  | off
  | priming
  | live
  | stale
  deriving DecidableEq, Repr

/-- R20. One window entry: an accepted value and its clamp mark. -/
structure WindowEntry where
  value : Int
  clamped : Bool
  deriving DecidableEq, Repr

/-- R20, R36. `alt v1 v2 second`: the next value is `v2` when `second` holds, otherwise `v1`. -/
inductive Subst
  | off
  | const (v : Int)
  | alt (v1 v2 : Int) (second : Bool)
  deriving DecidableEq, Repr

/-- R19, R20. A channel: its record and its running state. -/
structure Channel where
  record : ChannelRecord
  state : ChannelState
  window : List WindowEntry
  rejectRun : Nat
  decimationCount : Nat
  subst : Subst
  deriving DecidableEq, Repr

/-! ## Route Table -/

/-- R28. The marks of a publication: SUBST and CLAMP exclude each other. -/
inductive Marks
  | none
  | subst
  | clamp
  deriving DecidableEq, Repr

/-- R41. -/
structure Route where
  dest : Option Dest
  divider : Byte
  deriving DecidableEq, Repr

/-- R45. The contents of a slot that is not empty. -/
structure Slot where
  value : Int
  marks : Marks
  channel : Chan
  deriving DecidableEq, Repr

/-- R49. An available control temperature with its substituted property. -/
structure ControlTemp where
  value : Int
  substituted : Bool
  deriving DecidableEq, Repr

/-- The state of the RTE (section 3.1). -/
structure Rte where
  routes : Vector Route 24
  slots : Vector (Option Slot) 24
  counts : Vector Nat 24
  lastControl : Vector (Option ControlTemp) 6
  deriving DecidableEq, Repr

/-! ## Keg Controller and Schedule Unit -/

/-- Table 4-2. -/
inductive Phase
  | vacant
  | standby
  | scheduled
  | serving
  | spent
  | halted
  deriving DecidableEq, Repr

/-- Table 4-1, prior phase. -/
inductive ActivePhase
  | scheduled
  | serving
  deriving DecidableEq, Repr

/-- Table 4-1, halt reason. -/
inductive HaltReason
  | sensor
  | node
  | reset
  deriving DecidableEq, Repr

/-- R54 Table 4-1, with the keg's timers of R87 and the charge-pending mark of R92.
`activity` and `elapsed` count seconds; `ramp` and `settle` are absent while the current step has no such timer.
`underControl` is the notion of section 4.2.1.
`counted`: a second has been counted since the timers last began to count (R87). -/
structure Keg where
  phase : Phase
  prior : Option ActivePhase
  haltReason : Option HaltReason
  loaded : Nat
  remaining : Nat
  mode : SenseMode
  band : Int
  maxPressure : Int
  setpoint : Option Int
  serveTemp : Option Int
  servePressure : Option Int
  ventLimit : Option Int
  ventOpen : Bool
  relief : Bool
  buckets : Vector Nat 6
  activity : Nat
  pours : Nat
  chain : List PoolIx
  elapsed : Nat
  ramp : Option Nat
  settle : Option Nat
  chargePending : Bool
  counted : Bool
  sensedTemp : Option ControlTemp
  sensedPressure : Option Int
  underControl : Bool
  deriving DecidableEq, Repr

/-- R80 Table 5-1. -/
structure PoolEntry where
  bay : Bay
  step : Step
  deriving DecidableEq, Repr

/-- R80, R81. -/
structure Sch where
  pool : Vector (Option PoolEntry) 48
  freeList : List PoolIx
  deriving DecidableEq, Repr

/-! ## Thermal Control and Chiller Arbiter -/

/-- R100. A requester: a line (class A) or a keg (class B). -/
inductive Requester
  | line (t : Tap)
  | keg (b : Bay)
  deriving DecidableEq, Repr

/-- R99. A holder; `turn` is the turn timer in seconds of a keg under TURN. -/
structure Holder where
  who : Requester
  turn : Option Nat
  deriving DecidableEq, Repr

/-- R112. -/
inductive Guard
  | normal
  | hot
  deriving DecidableEq, Repr

/-- R104. -/
inductive ThermoState
  | rest
  | wantCool
  | cooling
  | heating
  deriving DecidableEq, Repr

/-- R104. A keg thermostat; it exists while its keg is under control. -/
structure Thermo where
  state : ThermoState
  setpoint : Int
  band : Int
  temp : Int
  phase : ActivePhase
  deriving DecidableEq, Repr

/-- R108. -/
inductive LineState
  | rest
  | wantCool
  | cooling
  deriving DecidableEq, Repr

/-- R108. -/
structure Line where
  bay : Option Bay
  limit : Int
  active : Bool
  state : LineState
  deriving DecidableEq, Repr

/-- R99 Table 6-1, with the thermostats of R104 and the line records of R108. -/
structure Chl where
  configured : Nat
  policy : Policy
  quantum : Nat
  glycolLimit : Int
  guardState : Guard
  limit : Nat
  nodeLost : Bool
  holders : List Holder
  queue : List Requester
  thermos : Vector (Option Thermo) 6
  lines : Vector Line 2
  deriving DecidableEq, Repr

/-! ## Manifold Controller -/

/-- R122. -/
inductive ManifoldState
  | idle
  | busy
  | lockout
  | down
  deriving DecidableEq, Repr

/-- R125. A gas need with its requester; a PURGE carries the duration its tap gives (R134). -/
inductive GasNeed
  | charge (b : Bay)
  | pour (t : Tap) (b : Bay)
  | purge (t : Tap) (duration : Nat)
  | check
  deriving DecidableEq, Repr

/-- R125. -/
structure GasEntry where
  need : GasNeed
  pressure : Int
  deriving DecidableEq, Repr

/-- R123. -/
inductive SubPhase
  | settling
  | active
  deriving DecidableEq, Repr

/-- R123. One pour of a pour set. -/
structure SetPour where
  tap : Tap
  bay : Bay
  deriving DecidableEq, Repr

/-- R123 Table 7-2. -/
structure Operation where
  need : GasNeed
  pressure : Int
  sub : SubPhase
  settle : Nat
  work : Option Nat
  pours : List SetPour
  p0 : Option Int
  deriving DecidableEq, Repr

/-- R135 step 4. -/
structure CheckResult where
  p0 : Int
  p1 : Int
  fall : Int
  cylinder : Int
  leakFound : Bool
  supplyLow : Bool
  deriving DecidableEq, Repr

/-- R122 Table 7-1. `intervalTimer` counts seconds. -/
structure Man where
  state : ManifoldState
  op : Option Operation
  queue : List GasEntry
  leak : Bool
  supplyLow : Bool
  result : Option CheckResult
  intervalTimer : Nat
  settleTolerance : Int
  pulseLength : Nat
  checkPressure : Int
  checkWindow : Nat
  leakLimit : Int
  lowThreshold : Int
  checkInterval : Nat
  nodeOnline : Bool
  deriving DecidableEq, Repr

/-! ## Tap Controller -/

/-- R145. -/
inductive TapState
  | idle
  | pending
  | pouring
  | purging
  deriving DecidableEq, Repr

/-- R158. -/
inductive PurgeStatus
  | clean
  | due
  | overdue
  deriving DecidableEq, Repr

/-- R145. -/
inductive PurgeRequest
  | none
  | queued
  | inService
  deriving DecidableEq, Repr

/-- Table 8-2. -/
inductive PourSource
  | panel
  | host
  deriving DecidableEq, Repr

/-- Table 8-3 and Table 8-4: why a pour was refused, and why a pour ended. -/
inductive PourReason
  | held
  | unbound
  | locked
  | busy
  | notServing
  | substituted
  | empty
  | purgeOverdue
  | lockout
  | manifoldDown
  | panelLost
  | gasBusy
  | done
  | stalled
  | spent
  | cancelled
  | halted
  | sensor
  | regulator
  | lineWarm
  | hold
  | reset
  deriving DecidableEq, Repr

/-- Table 8-2, for a pour in flight; `pouring` tells PENDING from POURING.
A pour's end makes its record absent (R155), so the final states stand in the POUR_RECORD alone. -/
structure Pour where
  number : BitVec 16
  bay : Bay
  source : PourSource
  target : Nat
  metered : Nat
  pouring : Bool
  granted : Bool
  wait : Nat
  stall : Nat
  baseline : BitVec 16
  carry : Nat
  deriving DecidableEq, Repr

/-- The settings of a tap record, the fields that TAP_LOAD writes (R145). -/
structure TapSettings where
  binding : Option Bay
  locked : Bool
  pulsesPerLitre : Nat
  smallVolume : Nat
  largeVolume : Nat
  lineLimit : Int
  purgeInterval : Nat
  purgeGrace : Nat
  purgeDuration : Nat
  purgePressure : Int
  stallTime : Nat
  deriving DecidableEq, Repr

/-- R145 Table 8-1. `purgeMinutes` and `purgeSeconds` together are the purge timer (R158). -/
structure TapRecord where
  set : TapSettings
  state : TapState
  purgeStatus : PurgeStatus
  purgeMinutes : Nat
  purgeSeconds : Nat
  purgeRequest : PurgeRequest
  purgeRetry : Option Nat
  lastFlow : Option (BitVec 16)
  lastPresses : Option (BitVec 8)
  pour : Option Pour
  blink : Option Nat
  deriving DecidableEq, Repr

/-- R145. -/
structure TapUnit where
  taps : Vector TapRecord 2
  pourNumber : BitVec 16
  deriving DecidableEq, Repr

/-! ## Attention Unit -/

/-- R178 Table 11-1, in rank order. -/
inductive Flag
  | leak
  | overpressure
  | nodeLost
  | kegHalted
  | glycolHot
  | supplyLow
  | regulator
  | kegSpent
  | scheduleDone
  | stepLimit
  | purgeOverdue
  | linkError
  deriving DecidableEq, Repr

/-- R178. `index` is the index set, in ascending order. -/
structure FlagRecord where
  pending : Bool
  index : List Nat
  masked : Bool
  deriving DecidableEq, Repr

/-! ## Upward frames -/

/-- R170, R171. The status of a RESPONSE. -/
inductive Status
  | ok
  | unknownRequest
  | badLength
  | badValue
  | notAvailable
  | noRoom
  | badRoute
  | badTap
  | gateClosed
  | owned
  | lockedOut
  | pour (r : PourReason)
  | busy
  deriving DecidableEq, Repr

/-- R164. -/
inductive PartState
  | held
  | running
  deriving DecidableEq, Repr

/-- R43. -/
inductive RouteOffence
  | duplicate
  | kind
  deriving DecidableEq, Repr

/-- R65. -/
inductive ResumeCondition
  | node
  | controlTemperature
  | pressure
  deriving DecidableEq, Repr

/-- One pending flag as ATTENTION frames and Q_STATUS show it (R179, R183): code, mask, index set. -/
structure FlagShown where
  code : Nat
  masked : Bool
  index : List Nat
  deriving DecidableEq, Repr

/-- R179. The contents of an ATTENTION frame. -/
structure AttentionContents where
  leading : Option Nat
  flags : List FlagShown
  deriving DecidableEq, Repr

/-- R125. The kind of a gas need. -/
inductive NeedKind
  | charge
  | pour
  | purge
  | check
  deriving DecidableEq, Repr

/-- R123, R125. Whom a gas need serves: a bay, a tap, a tap with the bay of its pour's keg, or the part. -/
inductive GasParty
  | bay (b : Bay)
  | tap (t : Tap)
  | tapAndBay (t : Tap) (b : Bay)
  | part
  deriving DecidableEq, Repr

/-- R141. An entry of the gas request queue as Q_QUEUES shows it. -/
structure GasEntryShown where
  kind : NeedKind
  requester : GasParty
  pressure : Int
  deriving DecidableEq, Repr

/-- R141, R183 item 3. The operation record as Q_STATUS shows it. -/
structure OperationShown where
  kind : NeedKind
  beneficiary : GasParty
  pressure : Int
  sub : SubPhase
  pours : List SetPour
  deriving DecidableEq, Repr

/-- R183, the results of Q_STATUS after the part state. -/
structure StatusResult where
  routeHalf : Bool
  tapHalf : Bool
  nodes : List (NodeState × Nat)
  manifold : ManifoldState
  operation : Option OperationShown
  leak : Bool
  supplyLow : Bool
  check : Option CheckResult
  limit : Nat
  guardState : Guard
  holders : List Requester
  taps : List (TapState × PurgeStatus)
  flags : List FlagShown
  masks : List Bool
  deriving DecidableEq, Repr

/-- The step kinds of Table 5-2, as Q_KEG shows them (R76). -/
inductive StepKind
  | hold
  | ramp
  | quiet
  | carb
  | serve
  | endStep
  deriving DecidableEq, Repr

/-- R76, the results of Q_KEG after the part state; times in seconds for the activity timer, whole minutes for the step. -/
structure KegResult where
  phase : Phase
  prior : Option ActivePhase
  haltReason : Option HaltReason
  loaded : Nat
  remaining : Nat
  pours : Nat
  mode : SenseMode
  band : Int
  maxPressure : Int
  effectiveSetpoint : Option Int
  thermostat : Option ThermoState
  serveTemp : Option Int
  servePressure : Option Int
  sensedTemp : Option ControlTemp
  sensedPressure : Option Int
  ventCommanded : Bool
  ventOpen : Bool
  relief : Bool
  ventLimit : Option Int
  buckets : List Nat
  bucketTotal : Nat
  activity : Nat
  chain : List (PoolIx × Option StepKind)
  elapsedMinutes : Nat
  deriving DecidableEq, Repr

/-- R38, the results of Q_CHANNEL after the part state. -/
structure ChannelResult where
  record : ChannelRecord
  state : ChannelState
  window : List WindowEntry
  filtered : Option Int
  rejectRun : Nat
  decimationCount : Nat
  subst : Subst
  nodeState : NodeState
  deriving DecidableEq, Repr

/-- R183, the results of Q_QUEUES after the part state. -/
structure QueuesResult where
  waitQueue : List Requester
  gasQueue : List GasEntryShown
  freeLength : Nat
  deriving DecidableEq, Repr

/-- Table 8-2. The state of a pour. -/
inductive PourState
  | pending
  | pouring
  | ended
  | refused
  deriving DecidableEq, Repr

/-- R163. A pour in flight as Q_TAP shows it, with every field of Table 8-2. -/
structure PourShown where
  number : BitVec 16
  tap : Tap
  bay : Bay
  source : PourSource
  target : Nat
  metered : Nat
  state : PourState
  reason : Option PourReason
  granted : Bool
  wait : Nat
  stall : Nat
  baseline : BitVec 16
  carry : Nat
  deriving DecidableEq, Repr

/-- R163, the results of Q_TAP after the part state. -/
structure TapResult where
  settings : TapSettings
  state : TapState
  locked : Bool
  purgeStatus : PurgeStatus
  purgeMinutes : Nat
  purgeRequest : PurgeRequest
  cue : Nat
  lastFlow : Option (BitVec 16)
  lastPresses : Option (BitVec 8)
  pour : Option PourShown
  deriving DecidableEq, Repr

/-- R4, what NODE_READ supplies. -/
structure NodeResult where
  state : NodeState
  failures : Nat
  image : List Nat
  lastReply : Option Reply
  deriving DecidableEq, Repr

/-- R170. The result items of a RESPONSE after the part state. -/
inductive Result
  | nothing
  | badRoute (channel : Chan) (offence : RouteOffence)
  | badTap (t : Tap)
  | gate (routeHalf tapHalf : Bool)
  | unmet (c : ResumeCondition)
  | indices (l : List PoolIx)
  | pourNumber (n : BitVec 16)
  | masks (l : List Bool)
  | pendingCodes (l : List Nat)
  | ident (vendor part revision : Nat)
  | status (r : StatusResult)
  | keg (r : KegResult)
  | channel (r : ChannelResult)
  | queues (r : QueuesResult)
  | tap (r : TapResult)
  | node (r : NodeResult)
  deriving DecidableEq, Repr

/-- R170. -/
structure Response where
  tag : Byte
  code : Option Byte
  status : Status
  part : PartState
  result : Result
  deriving DecidableEq, Repr

/-- R51. -/
structure Report where
  tag : Byte
  channel : Chan
  dest : Option Dest
  value : Int
  marks : Marks
  state : ChannelState
  deriving DecidableEq, Repr

/-- R157. `refused` is the final state REFUSED, otherwise ENDED. -/
structure PourReport where
  tag : Byte
  number : BitVec 16
  tap : Tap
  bay : Option Bay
  source : PourSource
  target : Nat
  metered : Nat
  refused : Bool
  reason : PourReason
  deriving DecidableEq, Repr

/-- R173. A frame of the upward queue; an ATTENTION frame's contents are formed when its transmission begins. -/
inductive UpFrame
  | response (r : Response)
  | report (r : Report)
  | attention (tag : Byte)
  | pourRecord (r : PourReport)
  deriving DecidableEq, Repr

/-- R173. A frame whose transmission has begun, with its contents. -/
inductive SentFrame
  | response (r : Response)
  | report (r : Report)
  | attention (tag : Byte) (c : AttentionContents)
  | pourRecord (r : PourReport)
  deriving DecidableEq, Repr

/-- Chapters 9 and 10. `sent` is the frame whose transmission last began, and `sentBytes` its bytes on the link (R177, log 20). -/
structure Mgp where
  part : PartState
  routeHalf : Bool
  tapHalf : Bool
  receiver : List RequestFrame
  partialFrame : List Byte
  up : List UpFrame
  seq : Byte
  sent : Option SentFrame
  sentBytes : List Byte
  deriving DecidableEq, Repr

/-! ## The whole state -/

/-- The model's own source of open choices (log 6): choices given in advance, and the number of choices drawn from `Config.freePick`. -/
structure Free where
  tape : List Nat
  count : Nat
  deriving DecidableEq, Repr

/-- The state of the part, with the queue of commands that wait. -/
structure State where
  pending : List Instr
  inReset : Bool
  blc : Blc
  ccu : Vector Channel 24
  rte : Rte
  kegs : Vector Keg 6
  sch : Sch
  chl : Chl
  man : Man
  tap : TapUnit
  mgp : Mgp
  atn : Vector FlagRecord 12
  free : Free
  deriving DecidableEq, Repr

/-- No command of this part stops with a fault: everything the manual says goes wrong is state (INVENTORY.md, Faults).
The type has no constructor. -/
inductive Fault
  deriving DecidableEq, Repr

/-- Why a command is turned away by the model. No meaning answers with it. -/
inductive Refusal
  /-- Raised by `exec` alone, for a command that has no meaning yet; safe, since the machine stops. -/
  | notModelled (mnemonic : String)
  deriving DecidableEq, Repr

/-! ## Reset values -/

/-- R1, R18. -/
def NodeRecord.reset : NodeRecord := { state := .unseen, failures := 0, lastReply := none, due := true }

/-- R2, R5, R18. The state the BLC holds when a hardware reset ends, before its first round begins. -/
def Blc.reset : Blc where
  nodes := .replicate 9 NodeRecord.reset
  outs := .replicate 35 0
  urgent := []
  exchange := none
  roundOpen := false
  roundTimer := false
  overrun := false
  discard := .none
  driver := false
  txFrame := []

/-- R40 Table 2-1. -/
def ChannelRecord.reset : ChannelRecord where
  enabled := false
  node := 0
  input := 0
  kind := .temp
  gain := 1000
  offset := 0
  spike := 0
  filter := .plain
  window := 1
  weights := none
  decimation := 1

/-- R40. -/
def Channel.reset : Channel where
  record := ChannelRecord.reset
  state := .off
  window := []
  rejectRun := 0
  decimationCount := 0
  subst := .off

/-- R53. -/
def Rte.reset : Rte where
  routes := .replicate 24 { dest := none, divider := 0 }
  slots := .replicate 24 none
  counts := .replicate 24 0
  lastControl := .replicate 6 none

/-- R79, Table 4-1 column "After hardware reset".
The charge-pending mark is clear: R98 and Table 4-1 do not name it, and this value is the model's (log 38). -/
def Keg.reset : Keg where
  phase := .vacant
  prior := none
  haltReason := none
  loaded := 0
  remaining := 0
  mode := .core
  band := 50
  maxPressure := 3000
  setpoint := none
  serveTemp := none
  servePressure := none
  ventLimit := none
  ventOpen := false
  relief := false
  buckets := .replicate 6 0
  activity := 0
  pours := 0
  chain := []
  elapsed := 0
  ramp := none
  settle := none
  chargePending := false
  counted := false
  sensedTemp := none
  sensedPressure := none
  underControl := false

/-- R98. -/
def Sch.reset : Sch where
  pool := .replicate 48 none
  freeList := allPool

/-- R121 Table 6-1; the line limit is the tap's own default (log 18). -/
def Chl.reset : Chl where
  configured := 3
  policy := .hold
  quantum := 15
  glycolLimit := 300
  guardState := .normal
  limit := 3
  nodeLost := false
  holders := []
  queue := []
  thermos := .replicate 6 none
  lines := .replicate 2 { bay := none, limit := 400, active := false, state := .rest }

/-- R144 Table 7-1. -/
def Man.reset : Man where
  state := .idle
  op := none
  queue := []
  leak := false
  supplyLow := false
  result := none
  intervalTimer := 0
  settleTolerance := 50
  pulseLength := 10
  checkPressure := 1500
  checkWindow := 60
  leakLimit := 100
  lowThreshold := 8000
  checkInterval := 24
  nodeOnline := false

/-- Table 8-1, the settings' reset values. -/
def TapSettings.reset : TapSettings where
  binding := none
  locked := false
  pulsesPerLitre := 4000
  smallVolume := 200
  largeVolume := 400
  lineLimit := 400
  purgeInterval := 240
  purgeGrace := 30
  purgeDuration := 10
  purgePressure := 800
  stallTime := 5

/-- R145 Table 8-1. -/
def TapRecord.reset : TapRecord where
  set := TapSettings.reset
  state := .idle
  purgeStatus := .clean
  purgeMinutes := 0
  purgeSeconds := 0
  purgeRequest := .none
  purgeRetry := none
  lastFlow := none
  lastPresses := none
  pour := none
  blink := none

/-- R145. -/
def TapUnit.reset : TapUnit where
  taps := .replicate 2 TapRecord.reset
  pourNumber := 0

/-- R164, R165, R169, R176. -/
def Mgp.reset : Mgp where
  part := .held
  routeHalf := false
  tapHalf := false
  receiver := []
  partialFrame := []
  up := []
  seq := 0
  sent := none
  sentBytes := []

/-- R182. -/
def FlagRecord.reset : FlagRecord where
  pending := false
  index := []
  masked := true

/-- The part right after a hardware reset has set it (R18 and each chapter's reset rule), while the reset still lasts;
HARDWARE_RESET_END ends it (log 10). -/
def State.reset : State where
  pending := []
  inReset := true
  blc := Blc.reset
  ccu := .replicate 24 Channel.reset
  rte := Rte.reset
  kegs := .replicate 6 Keg.reset
  sch := Sch.reset
  chl := Chl.reset
  man := Man.reset
  tap := TapUnit.reset
  mgp := Mgp.reset
  atn := .replicate 12 FlagRecord.reset
  free := { tape := [], count := 0 }

end Sys2Proof.Machine
end

