-- ==== Sys2Proof/Machine/Ops.lean ====
section
/-! DEFINITION. Shared operations: updates of one part of the state, free choices, output images and their ownership, writes.

Everything a command does is built from these; each takes the state last. -/

namespace Sys2Proof.Machine

/-! ## Updates of one part of the state -/

/-- Entry `i` of a vector replaced by its image under `f`. -/
def upd {α : Type} {n : Nat} (v : Vector α n) (i : Fin n) (f : α → α) : Vector α n := v.set i.val (f v[i]) i.isLt

def State.modBlc (f : Blc → Blc) (s : State) : State := { s with blc := f s.blc }
def State.modRte (f : Rte → Rte) (s : State) : State := { s with rte := f s.rte }
def State.modSch (f : Sch → Sch) (s : State) : State := { s with sch := f s.sch }
def State.modChl (f : Chl → Chl) (s : State) : State := { s with chl := f s.chl }
def State.modMan (f : Man → Man) (s : State) : State := { s with man := f s.man }
def State.modMgp (f : Mgp → Mgp) (s : State) : State := { s with mgp := f s.mgp }
def State.modChan (c : Chan) (f : Channel → Channel) (s : State) : State := { s with ccu := upd s.ccu c f }
def State.modKeg (b : Bay) (f : Keg → Keg) (s : State) : State := { s with kegs := upd s.kegs b f }
def State.modTap (t : Tap) (f : TapRecord → TapRecord) (s : State) : State :=
  { s with tap := { s.tap with taps := upd s.tap.taps t f } }
def State.modAtn (f : Vector FlagRecord 12 → Vector FlagRecord 12) (s : State) : State := { s with atn := f s.atn }
def State.setFree (f : Free) (s : State) : State := { s with free := f }
def State.setPending (l : List Instr) (s : State) : State := { s with pending := l }

def State.modNode (n : Node) (f : NodeRecord → NodeRecord) (s : State) : State :=
  s.modBlc fun x => { x with nodes := upd x.nodes n f }
def State.modThermo (b : Bay) (f : Thermo → Thermo) (s : State) : State :=
  s.modChl fun x => { x with thermos := upd x.thermos b (Option.map f) }
def State.modLine (t : Tap) (f : Line → Line) (s : State) : State :=
  s.modChl fun x => { x with lines := upd x.lines t f }

/-- The keg record of bay `b`. -/
abbrev State.keg (s : State) (b : Bay) : Keg := s.kegs[b]
/-- The tap record of tap `t`. -/
abbrev State.tapRec (s : State) (t : Tap) : TapRecord := s.tap.taps[t]
/-- Channel `c` of the CCU. -/
abbrev State.chan (s : State) (c : Chan) : Channel := s.ccu[c]
/-- The keg thermostat of bay `b`, if it exists. -/
abbrev State.thermo (s : State) (b : Bay) : Option Thermo := s.chl.thermos[b]
/-- The line record of tap `t`. -/
abbrev State.line (s : State) (t : Tap) : Line := s.chl.lines[t]
/-- The node record of node `n`. -/
abbrev State.node (s : State) (n : Node) : NodeRecord := s.blc.nodes[n]

/-- R164. The part is RUNNING. -/
abbrev State.running (s : State) : Prop := s.mgp.part = .running

/-! ## Free choices (log 6) -/

/-- One of `n` alternatives that the manual leaves open: from the tape while it lasts, then from the free value of Config. -/
def choose (n : Nat) (s : State) : Nat × State :=
  match s.free.tape with
  | c :: rest => (c % n, s.setFree { s.free with tape := rest })
  | [] => (Config.freePick s.free.count % n, s.setFree { s.free with count := s.free.count + 1 })

/-- The elements of `l` in an order that the manual leaves open; `fuel` bounds the length. -/
def anyOrderFrom {α : Type} : Nat → List α → State → List α × State
  | 0, l, s => (l, s)
  | _ + 1, [], s => ([], s)
  | _ + 1, [x], s => ([x], s)
  | fuel + 1, x :: y :: rest, s =>
    let (k, s) := choose (rest.length + 2) s
    let l := x :: y :: rest
    let (tail, s) := anyOrderFrom fuel (l.eraseIdx k) s
    (l.getD k x :: tail, s)

/-- The elements of `l` in an order that the manual leaves open. A list of one element leaves nothing open. -/
def anyOrder {α : Type} (l : List α) (s : State) : List α × State := anyOrderFrom l.length l s

/-- `f` on every element of `l`, in list order. -/
def forAll {α : Type} (l : List α) (f : α → State → State) (s : State) : State := l.foldl (fun s x => f x s) s

/-- `f` on every element of `l`, in an order that the manual leaves open. -/
def forAny {α : Type} (l : List α) (f : α → State → State) (s : State) : State :=
  let (l, s) := anyOrder l s
  forAll l f s

/-- `f` on every element of `l`, and `g` once, in an order that the manual leaves open:
`g` may come before them all, after them all, or between two of them. -/
def forAnyWith {α : Type} (g : State → State) (l : List α) (f : α → State → State) (s : State) : State :=
  let (l, s) := anyOrder l s
  let (k, s) := choose (l.length + 1) s
  forAll (l.drop k) f (g (forAll (l.take k) f s))

/-- Two pieces of work in an order that the manual leaves open. -/
def eitherOrder (f g : State → State) (s : State) : State :=
  let (k, s) := choose 2 s
  if k = 0 then g (f s) else f (g s)

/-! ## Outputs and images (R2) -/

/-- The place of an output among the 35. -/
def outIdx : Output → Fin 35
  | .heater b => ⟨b.val, by omega⟩
  | .cool b => ⟨6 + b.val, by omega⟩
  | .gasIn b => ⟨12 + b.val, by omega⟩
  | .vent b => ⟨18 + b.val, by omega⟩
  | .pump => 24
  | .lineValve t => ⟨25 + t.val, by omega⟩
  | .regulator => 27
  | .supply => 28
  | .purge t => ⟨29 + t.val, by omega⟩
  | .tapValve t => ⟨31 + t.val, by omega⟩
  | .cue t => ⟨33 + t.val, by omega⟩

/-- The bay node of bay `b` (Table 0-2). -/
def bayNode (b : Bay) : Node := ⟨b.val, by omega⟩
/-- Node 7. -/
def chillerNode : Node := 6
/-- Node 8. -/
def manifoldNode : Node := 7
/-- Node 9. -/
def panelNode : Node := 8

/-- The node that carries an output (Table 1-3). -/
def outNode : Output → Node
  | .heater b | .cool b | .gasIn b | .vent b => bayNode b
  | .pump | .lineValve _ => chillerNode
  | .regulator | .supply | .purge _ => manifoldNode
  | .tapValve _ | .cue _ => panelNode

/-- The bay of a bay node. -/
def bayOfNode (n : Node) : Option Bay := if h : n.val < 6 then some ⟨n.val, h⟩ else none

/-- The outputs of a node, in the order of Table 1-3. -/
def outputsOf (n : Node) : List Output :=
  match bayOfNode n with
  | some b => [.heater b, .cool b, .gasIn b, .vent b]
  | none =>
    if n = chillerNode then [.pump, .lineValve 0, .lineValve 1]
    else if n = manifoldNode then [.regulator, .supply, .purge 0, .purge 1]
    else [.tapValve 0, .tapValve 1, .cue 0, .cue 1]

/-- All outputs, node by node. -/
def allOutputs : List Output := allNodes.flatMap outputsOf

/-- The commanded value of an output in its node's image. -/
abbrev State.out (s : State) (o : Output) : Nat := s.blc.outs[(outIdx o)]

/-- R2. The output image of a node. -/
def imageOf (n : Node) (s : State) : List Nat := (outputsOf n).map s.out

/-- R5. A node joins the tail of the urgent list, or keeps its place on it. -/
def joinUrgent (n : Node) (s : State) : State :=
  if n ∈ s.blc.urgent then s else s.modBlc fun x => { x with urgent := x.urgent ++ [n] }

/-- R3. An applied write: a value that differs changes the image, and the node joins the urgent list. -/
def commandOut (o : Output) (v : Nat) (s : State) : State :=
  if s.out o = v then s
  else joinUrgent (outNode o) (s.modBlc fun x => { x with outs := upd x.outs (outIdx o) fun _ => v })

/-! ## Ownership (R3, R174) -/

/-- The blocks that own outputs. A thermostat's writes count as the KEG's, a line valve's as the TAP's (R174). -/
inductive Owner
  | keg
  | chl
  | man
  | tap
  deriving DecidableEq, Repr

/-- Table 10-2, heater and cool valve in RUNNING: the phases whose bay outputs the KEG owns. -/
def Phase.ownsBay : Phase → Bool
  | .scheduled | .serving | .spent | .halted => true
  | .vacant | .standby => false

/-- R3, R134. A PURGE for tap `t` is ACTIVE in the manifold. -/
def purgeActive (t : Tap) (s : State) : Bool :=
  match s.man.op with
  | some op => (match op.need with | .purge t' _ => decide (t' = t) | _ => false) && decide (op.sub = .active)
  | none => false

/-- R174 Table 10-2 with the exceptions of R3. -/
def owner (o : Output) (s : State) : Option Owner :=
  match o with
  | .heater b | .cool b => if s.running ∧ (s.keg b).phase.ownsBay then some .keg else none
  | .vent b =>
    if (s.running ∧ (s.keg b).phase.ownsBay) ∨ ((s.keg b).relief ∧ (s.keg b).phase ≠ .vacant) then some .keg else none
  | .gasIn _ | .regulator | .supply | .purge _ => if s.running then some .man else none
  | .pump => if s.running then some .chl else none
  | .lineValve _ => if s.running then some .tap else none
  | .tapValve t =>
    if s.running then (if purgeActive t s then some .man else if (s.tapRec t).set.binding.isSome then some .tap else none)
    else none
  | .cue t => if s.running ∧ (s.tapRec t).set.binding.isSome then some .tap else none

/-- R3. A write by a block: applied when the block owns the output as things stand, otherwise discarded. -/
def write (w : Owner) (o : Output) (v : Nat) (s : State) : State :=
  if owner o s = some w then commandOut o v s else s

/-- R3. A change of state `f` by which outputs may pass between a block and NONE: each of `outs` that passes is set to its safe value. -/
def passing (outs : List Output) (f : State → State) (s : State) : State :=
  forAll outs (fun o s' => if (owner o s).isNone = (owner o s').isNone then s' else commandOut o 0 s') (f s)

/-- The outputs of a bay that a keg's phase concerns. -/
def kegOutputs (b : Bay) : List Output := [.heater b, .cool b, .vent b]

/-! ## Timers -/

/-- A timer has reached its limit. Every expiry of a counted timer asks this (log 1, log 2). -/
def timerDue (count limit : Nat) : Bool := decide (limit ≤ count)

end Sys2Proof.Machine
end

