-- ==== Sys2Proof/WellFormed.lean ====
section
/-! DEFINITION. Which commands are well formed: operands that the links can spell.

`exec` is total and does not ask for well-formedness; the checks below say which operand values a host, a node or the pin can bring about. -/

namespace Sys2Proof

/-- R9. A reply is judged on at least one character; any number may follow those it is judged on. -/
def replyCharsWf (chars : List Char9) : Bool := decide (1 ≤ chars.length)

/-- R177 Table 10-3. One frame is at most start, length, kind, tag, 120 payload bytes and 2 CRC bytes. -/
def frameBytesWf (bytes : List Byte) : Bool := decide (1 ≤ bytes.length ∧ bytes.length ≤ 126)

/-- R172 Table 10-1. A code that names no request: no code at all (an empty payload, log 9) or one outside 1 to 35. -/
def unknownCodeWf (code : Option Byte) : Bool :=
  match code with
  | none => true
  | some c => decide (c.toNat = 0 ∨ 35 < c.toNat)

/-- R42. A route load of the right length holds exactly 24 entries. -/
def routesWf (p : Payload (List RouteFields)) : Bool :=
  match p with
  | .params l => decide (l.length = 24)
  | .wrongLength => true

/-- R180. A mask request of the right length holds exactly twelve settings. -/
def masksWf (p : Payload (List (Option Bool))) : Bool :=
  match p with
  | .params l => decide (l.length = 12)
  | .wrongLength => true

/-- The request of a frame is one that a frame's payload can spell. -/
def Request.wf : Request → Bool
  | .routeLoad p => routesWf p
  | .attnMask p => masksWf p
  | .unknown code => unknownCodeWf code
  | _ => true

/-- The operands of a command are ones that the links can spell. -/
def Instr.wf : Instr → Bool
  | .readyReply chars => replyCharsWf chars
  | .busyReply chars => replyCharsWf chars
  | .badReply chars => replyCharsWf chars
  | .applianceFrameReceived bytes r => frameBytesWf bytes && r.wf
  | .badFrame bytes _ => decide (bytes.length ≤ 126)
  | .routeLoad _ p => routesWf p
  | .attnMask _ p => masksWf p
  | .unknownRequest _ code => unknownCodeWf code
  | _ => true

end Sys2Proof
end

