-- ==== Sys2Proof/Machine/Layouts.lean ====
section
/-! DEFINITION. The layouts of the two links (R177): frames, CRC, EXCHANGE characters and replies. -/

namespace Sys2Proof.Machine

/-! ## The Appliance Link frame (Table 10-3) -/

/-- Table 10-3. The start byte. -/
def startByte : Byte := 0xC3
/-- Table 10-3. The kind byte of a REQUEST. -/
def requestKind : Byte := 0x01

/-- One bit of the CRC: polynomial x^16 + x^12 + x^5 + 1, most significant bit first. -/
def crcBit (c : BitVec 16) : BitVec 16 := if c.msb then (c <<< 1) ^^^ 0x1021#16 else c <<< 1

/-- One byte of the CRC. -/
def crcByte (c : BitVec 16) (b : Byte) : BitVec 16 :=
  (List.range 8).foldl (fun c _ => crcBit c) (c ^^^ (b.setWidth 16 <<< 8))

/-- Table 10-3. CRC-16 with initial value 0xFFFF and no final inversion. -/
def crc16 (l : List Byte) : BitVec 16 := l.foldl crcByte 0xFFFF#16

/-- What the receiver makes of the bytes taken since a start byte (R169). -/
inductive FrameVerdict
  /-- The bytes do not begin with a start byte, or go on past one frame: no one frame. -/
  | noFrame
  /-- More bytes of the frame are to come. -/
  | unfinished
  /-- A good frame, with its tag and its request code. -/
  | good (tag : Byte) (code : Option Byte)
  /-- A bad frame. -/
  | bad
  deriving DecidableEq, Repr

/-- R169. The judgement of a frame's bytes, `f` being all of them in order.
A length above 120 is judged at its own byte, whatever follows; a kind that is not REQUEST is judged with the CRC, once the frame is complete:
the manual gives no moment for it, this one is the model's (log 35). -/
def judgeFrame (f : List Byte) : FrameVerdict :=
  if f.head? ≠ some startByte then .noFrame
  else match f[1]? with
    | none => .unfinished
    | some len =>
      let n := len.toNat
      if Config.payloadLimit < n then .bad
      else if f.length < n + 6 then .unfinished
      else if n + 6 < f.length then .noFrame
      else if f[2]? = some requestKind ∧ crc16 ((f.drop 1).take (n + 3)) = (f.getD (n + 4) 0) ++ (f.getD (n + 5) 0) then
        .good (f.getD 3 0) (if n = 0 then none else f[4]?)
      else .bad

/-- Table 10-3. A frame: the start byte, the length, the kind, the tag, the payload, and the CRC high byte first. -/
def buildFrame (kind tag : Byte) (payload : List Byte) : List Byte :=
  let covered := BitVec.ofNat 8 payload.length :: kind :: tag :: payload
  let crc := crc16 covered
  startByte :: covered ++ [crc.extractLsb' 8 8, crc.extractLsb' 0 8]

/-! ## Upward frames (R177, Table 10-3) -/

/-- Table 10-3. The kind byte of an upward frame. -/
def SentFrame.kind : SentFrame → Byte
  | .response _ => 0x02
  | .report _ => 0x03
  | .attention _ _ => 0x04
  | .pourRecord _ => 0x05

/-- Table 10-3. The tag of an upward frame: echoed in a RESPONSE, and otherwise the upward sequence count it took. -/
def SentFrame.tag : SentFrame → Byte
  | .response r => r.tag
  | .report r => r.tag
  | .attention t _ => t
  | .pourRecord r => r.tag

/-- Table 10-3. The status byte: 0 for OK, and otherwise a refusal code, which the manual does not number (log 20). -/
def statusByte (st : Status) : Byte := if st = .ok then 0 else BitVec.ofNat 8 (Config.refusalNumber st % 255 + 1)

/-- Table 10-3. The part state byte. -/
def partByte : PartState → Byte
  | .held => 0
  | .running => 1

/-- Table 10-3. The bytes of contents for which the manual has no layout, at most `room` of them (log 20). -/
def contentBytes {α : Type} (room : Nat) (contents : α) : List Byte := (Config.payloadBytes contents).take room

/-- Table 10-3. The results of a RESPONSE after its part state. -/
def resultBytes (r : Result) : List Byte := if r = .nothing then [] else contentBytes (Config.payloadLimit - 3) r

/-- Table 10-3. The payload of an upward frame. -/
def SentFrame.payload : SentFrame → List Byte
  | .response r => r.code.getD Config.absentCode :: statusByte r.status :: partByte r.part :: resultBytes r.result
  | .report r => contentBytes Config.payloadLimit (r.channel, r.dest, r.value, r.marks, r.state)
  | .attention _ c => contentBytes Config.payloadLimit c
  | .pourRecord r => contentBytes Config.payloadLimit (r.number, r.tap, r.bay, r.source, r.target, r.metered, r.refused, r.reason)

/-- R177. The bytes of an upward frame. -/
def SentFrame.bytes (f : SentFrame) : List Byte := buildFrame f.kind f.tag f.payload

/-! ## Requests -/

/-- Table 10-1. The code of a request. -/
def requestCode : Request → Option Byte
  | .channelSet _ => some 1
  | .routeLoad _ => some 2
  | .tapLoad _ => some 3
  | .gasSet _ => some 4
  | .chillSet _ => some 5
  | .channelSeed _ => some 6
  | .channelSubst _ => some 7
  | .run _ => some 8
  | .hold _ => some 9
  | .softReset _ => some 10
  | .kegLoad _ => some 11
  | .kegSchedule _ => some 12
  | .kegAppend _ => some 13
  | .kegServe _ => some 14
  | .kegAbort _ => some 15
  | .kegResume _ => some 16
  | .kegRemove _ => some 17
  | .kegVolume _ => some 18
  | .kegLimits _ => some 19
  | .tapBind _ => some 20
  | .tapLock _ => some 21
  | .pour _ => some 22
  | .pourCancel _ => some 23
  | .gasCheck _ => some 24
  | .gasUnlock _ => some 25
  | .attnMask _ => some 26
  | .attnAck _ => some 27
  | .qStatus _ => some 28
  | .qKeg _ => some 29
  | .qChannel _ => some 30
  | .qQueues _ => some 31
  | .qTap _ => some 32
  | .qIdent _ => some 33
  | .nodeWrite _ => some 34
  | .nodeRead _ => some 35
  | .unknown code => code

/-- R171, Table 10-1. What the payload's length and its code say of the request that it spells: a request that carries no parameters has
the length 1 exactly, and only a code outside Table 10-1 spells an unknown request. `n` is the payload's length.
The lengths that other requests call for follow from layouts that the manual does not give (log 7). -/
def fitsPayload (n : Nat) : Request → Bool
  | .run p | .hold p | .softReset p | .gasCheck p | .gasUnlock p | .qStatus p | .qQueues p | .qIdent p => decide (p = .params () ↔ n = 1)
  | .unknown code => unknownCodeWf code
  | _ => true

/-- R170, R171. The payload of the good frame `f`, of request code `code`, can spell the request. -/
def spells (f : List Byte) (code : Option Byte) (r : Request) : Bool := decide (requestCode r = code) && fitsPayload (f.getD 1 0).toNat r

/-- R170, Table 10-1. The command by which the MGP takes a request frame. -/
def frameCommand (f : RequestFrame) : Instr :=
  match f.request with
  | .channelSet p => .channelSet f.tag p
  | .routeLoad p => .routeLoad f.tag p
  | .tapLoad p => .tapLoad f.tag p
  | .gasSet p => .gasSet f.tag p
  | .chillSet p => .chillSet f.tag p
  | .channelSeed p => .channelSeed f.tag p
  | .channelSubst p => .channelSubst f.tag p
  | .run p => .run f.tag p
  | .hold p => .hold f.tag p
  | .softReset p => .softReset f.tag p
  | .kegLoad p => .kegLoad f.tag p
  | .kegSchedule p => .kegSchedule f.tag p
  | .kegAppend p => .kegAppend f.tag p
  | .kegServe p => .kegServe f.tag p
  | .kegAbort p => .kegAbort f.tag p
  | .kegResume p => .kegResume f.tag p
  | .kegRemove p => .kegRemove f.tag p
  | .kegVolume p => .kegVolume f.tag p
  | .kegLimits p => .kegLimits f.tag p
  | .tapBind p => .tapBind f.tag p
  | .tapLock p => .tapLock f.tag p
  | .pour p => .pour f.tag p
  | .pourCancel p => .pourCancel f.tag p
  | .gasCheck p => .gasCheck f.tag p
  | .gasUnlock p => .gasUnlock f.tag p
  | .attnMask p => .attnMask f.tag p
  | .attnAck p => .attnAck f.tag p
  | .qStatus p => .qStatus f.tag p
  | .qKeg p => .qKeg f.tag p
  | .qChannel p => .qChannel f.tag p
  | .qQueues p => .qQueues f.tag p
  | .qTap p => .qTap f.tag p
  | .qIdent p => .qIdent f.tag p
  | .nodeWrite p => .nodeWrite f.tag p
  | .nodeRead p => .nodeRead f.tag p
  | .unknown code => .unknownRequest f.tag code

/-! ## The characters of the Bay Link (Table 10-4) -/

/-- The data bits of a character. -/
def dataOf (c : Char9) : Byte := c.setWidth 8

/-- A character with the marker clear. -/
def plainChar (v : Nat) : Char9 := BitVec.ofNat 9 (v % 256)

/-- R177. The address character that opens an EXCHANGE frame, with the marker set. -/
def addressChar (n : Node) : Char9 := BitVec.ofNat 9 (256 + nodeNum n)

/-- The sum of the data bits of characters. -/
def dataSum (l : List Char9) : Nat := (l.map fun c => (dataOf c).toNat).sum

/-- R177. The checksum character: the sum of all data bits, it included, is 0 modulo 256. -/
def checksumChar (l : List Char9) : Char9 := plainChar (256 - dataSum l % 256)

/-- Table 10-4. The output characters of a node's image, `image` in the order of `outputsOf`. -/
def imageChars (n : Node) (image : List Nat) : List Char9 :=
  let v := fun i => image.getD i 0
  if n = manifoldNode then
    [plainChar (v 0 / 256 % 16), plainChar (v 0), plainChar (v 1 + 2 * v 2 + 4 * v 3)]
  else if n = panelNode then [plainChar (v 0 + 2 * v 1 + 4 * v 2 + 16 * v 3)]
  else [plainChar (v 0 + 2 * v 1 + 4 * v 2 + 8 * v 3)]

/-- Table 10-4. The characters of an EXCHANGE frame. -/
def exchangeChars (n : Node) (image : List Nat) : List Char9 :=
  let body := addressChar n :: imageChars n image
  body ++ [checksumChar body]

/-! ## Replies (R9, Table 10-4) -/

/-- What the BLC makes of the characters of a reply. -/
inductive ReplyVerdict
  /-- Fewer characters than the reply's kind calls for. -/
  | unfinished
  | ready (r : Reply)
  | busy
  | bad
  deriving DecidableEq, Repr

/-- Table 10-4. A twelve-bit value from two characters, the high 4 bits first. The other bits of the first are not looked at. -/
def value12 (hi lo : Char9) : BitVec 12 := (dataOf hi).setWidth 4 ++ dataOf lo

/-- Table 10-4. A sixteen-bit value from two characters, the high 8 bits first. -/
def value16 (hi lo : Char9) : BitVec 16 := dataOf hi ++ dataOf lo

/-- Table 10-4. A pressed choice; a code that is none of 1, 2, 3 gives a free value (log 11). -/
def pressOf (c : Char9) : Press :=
  match (dataOf c).toNat with
  | 1 => .small
  | 2 => .large
  | 3 => .stop
  | code =>
    match Config.pressChoiceOfCode code % 3 with
    | 0 => .small
    | 1 => .large
    | _ => .stop

/-- Table 10-4. The contents of a READY reply. -/
def readyContents (n : Node) (chars : List Char9) : Reply :=
  let c := fun i => chars.getD i 0
  { inputs := Vector.ofFn fun i : Fin 4 => value12 (c (2 + 2 * i.val)) (c (3 + 2 * i.val))
    panel :=
      if n = panelNode then
        some (Vector.ofFn fun t : Fin 2 =>
          { flow := value16 (c (10 + 4 * t.val)) (c (11 + 4 * t.val))
            presses := dataOf (c (12 + 4 * t.val))
            choice := pressOf (c (13 + 4 * t.val)) })
      else none }

/-- Table 10-4. The length of a READY reply. -/
def readyLength (n : Node) : Nat := if n = panelNode then 19 else 11

/-- Table 10-4. The length of a BUSY reply. -/
def busyLength : Nat := 3

/-- R177. The sum of the data bits of all characters is 0 modulo 256. -/
def checksumOk (l : List Char9) : Bool := decide (dataSum l % 256 = 0)

/-- R9. The judgement of a reply to an exchange with node `n`.
A wrong address or kind is judged as soon as its character is there; the markers after the address are not looked at (log 12).
A reply is judged on as many characters as its kind calls for: those that follow come after the judgement, and are discarded. -/
def judgeReply (n : Node) (chars : List Char9) : ReplyVerdict :=
  match chars with
  | [] => .unfinished
  | addr :: rest =>
    if addr ≠ BitVec.ofNat 9 (nodeNum n) then .bad
    else match rest with
      | [] => .unfinished
      | kind :: _ =>
        if dataOf kind = 0x01 then
          if chars.length < readyLength n then .unfinished
          else if checksumOk (chars.take (readyLength n)) then .ready (readyContents n (chars.take (readyLength n)))
          else .bad
        else if dataOf kind = 0x02 then
          if chars.length < busyLength then .unfinished
          else if checksumOk (chars.take busyLength) then .busy
          else .bad
        else .bad

end Sys2Proof.Machine
end

