-- ==== Sys2Proof/Machine/Flags.lean ====
section
/-! DEFINITION. The attention flags and the upward queue: raising, handing over and joining (chapters 10 and 11). -/

namespace Sys2Proof.Machine

/-! ## The upward queue (R173) -/

/-- The frame is a RESPONSE. -/
def UpFrame.isResponse : UpFrame → Bool
  | .response _ => true
  | _ => false

/-- The frame is an ATTENTION frame. -/
def UpFrame.isAttention : UpFrame → Bool
  | .attention _ => true
  | _ => false

/-- A RESPONSE waits untransmitted (R170). -/
def responseWaits (s : State) : Bool := s.mgp.up.any UpFrame.isResponse

/-- R173. A frame joins the tail of the upward queue. -/
def joinUp (f : UpFrame) (s : State) : State := s.modMgp fun m => { m with up := m.up ++ [f] }

/-- R173. The upward sequence count is taken: the frame made with it, and the count one higher, modulo 256. -/
def takeSeq (s : State) : State := s.modMgp fun m => { m with seq := m.seq + 1 }

/-- R173, R179. An ATTENTION frame is handed over: it joins with the next number, or is merged into the one that waits. -/
def handAttention (s : State) : State :=
  if s.mgp.up.any UpFrame.isAttention then s else takeSeq (joinUp (.attention s.mgp.seq) s)

/-! ## Flags (R178) -/

/-- Table 11-1. The place of a flag, its rank less one. -/
def Flag.idx : Flag → Fin 12
  | .leak => 0
  | .overpressure => 1
  | .nodeLost => 2
  | .kegHalted => 3
  | .glycolHot => 4
  | .supplyLow => 5
  | .regulator => 6
  | .kegSpent => 7
  | .scheduleDone => 8
  | .stepLimit => 9
  | .purgeOverdue => 10
  | .linkError => 11

/-- All flags, in rank order. -/
def allFlags : List (Fin 12) := List.finRange 12

/-- The code of a flag: its rank (R178). -/
def flagCode (i : Fin 12) : Nat := i.val + 1

/-- R178. A number added to an index set kept in ascending order; a number already in it changes nothing. -/
def insertIndex (i : Nat) : List Nat → List Nat
  | [] => [i]
  | x :: xs => if i = x then x :: xs else if i < x then i :: x :: xs else x :: insertIndex i xs

/-- R178. A flag's record after a raise. -/
def FlagRecord.raised (i : Option Nat) (r : FlagRecord) : FlagRecord :=
  { r with
    pending := true
    index := match i with
      | some i => insertIndex i r.index
      | none => r.index }

/-- R181. A flag's record after an acknowledgement. -/
def FlagRecord.cleared (r : FlagRecord) : FlagRecord := { r with pending := false, index := [] }

/-- R178, R179. A raise; it hands over an ATTENTION frame when it moves an unmasked flag from clear to pending. -/
def raise (f : Flag) (i : Option Nat) (s : State) : State :=
  let old := s.atn[f.idx]
  let s := s.modAtn fun v => upd v f.idx (FlagRecord.raised i)
  if old.pending = false ∧ old.masked = false then handAttention s else s

/-- R169, R173. -/
def raiseLinkError (s : State) : State := raise .linkError none s

/-- The flag is pending and unmasked. -/
def FlagRecord.wants (r : FlagRecord) : Bool := r.pending && !r.masked

/-- R179, R183. The pending flags in rank order, each with its code, mask and index set.
The index set is ascending: R179 says so of an ATTENTION frame, R183 gives Q_STATUS no order, and that it is the same there is the model's choice (log 41). -/
def shownFlags (s : State) : List FlagShown :=
  (allFlags.filter fun i => s.atn[i].pending).map fun i =>
    { code := flagCode i, masked := s.atn[i].masked, index := s.atn[i].index }

/-- R179. The leading flag: the highest-ranked one pending and unmasked. -/
def leadingFlag (s : State) : Option Nat := (allFlags.find? fun i => s.atn[i].wants).map flagCode

/-- R179. The contents of an ATTENTION frame whose transmission begins now. -/
def attentionContents (s : State) : AttentionContents := { leading := leadingFlag s, flags := shownFlags s }

/-! ## REPORT and POUR_RECORD frames (R173) -/

/-- R173. A REPORT takes the next number, and joins while fewer than 8 frames are held; otherwise it is lost and LINK_ERROR is raised. -/
def handReport (mk : Byte → Report) (s : State) : State :=
  let f := UpFrame.report (mk s.mgp.seq)
  let room := decide (s.mgp.up.length < Config.reportLimit)
  let s := takeSeq s
  if room then joinUp f s else raiseLinkError s

/-- R173. There is room for a POUR_RECORD: fewer than 14 frames are held. -/
def pourRecordRoom (s : State) : Bool := decide (s.mgp.up.length < Config.pourRecordLimit)

/-- R173. A POUR_RECORD takes the next number, and joins while there is room; otherwise it is lost. -/
def joinPourRecord (mk : Byte → PourReport) (s : State) : State :=
  if pourRecordRoom s then joinUp (.pourRecord (mk s.mgp.seq)) (takeSeq s) else takeSeq s

/-- R173. A POUR_RECORD is handed over; LINK_ERROR is raised when it is lost. -/
def handPourRecord (mk : Byte → PourReport) (s : State) : State :=
  if pourRecordRoom s then joinPourRecord mk s else raiseLinkError (joinPourRecord mk s)

end Sys2Proof.Machine
end

