-- ==== Sys2Proof/Machine/Operands.lean ====
section
/-! DEFINITION. Operands: numbers as the host names them, ranges, and the checks of a request's values.

A check answers the value the model stores, or `none` where the value lies outside what its rule allows. -/

namespace Sys2Proof.Machine

/-! ## Numbers (section 4.2 of the introduction) -/

/-- Bays are numbered 1 to 6. -/
def bayOf (n : Nat) : Option Bay := if h : 1 ≤ n ∧ n ≤ 6 then some ⟨n - 1, by omega⟩ else none
/-- Taps are numbered 1 and 2. -/
def tapOf (n : Nat) : Option Tap := if h : 1 ≤ n ∧ n ≤ 2 then some ⟨n - 1, by omega⟩ else none
/-- Nodes are numbered 1 to 9. -/
def nodeOf (n : Nat) : Option Node := if h : 1 ≤ n ∧ n ≤ 9 then some ⟨n - 1, by omega⟩ else none
/-- Channels are numbered 0 to 23. -/
def chanOf (n : Nat) : Option Chan := if h : n < 24 then some ⟨n, h⟩ else none
/-- Inputs are numbered 0 to 3. -/
def inputOf (n : Nat) : Option (Fin 4) := if h : n < 4 then some ⟨n, h⟩ else none

/-- `v` lies in the range `lo` to `hi`. -/
def within (lo hi v : Int) : Bool := decide (lo ≤ v ∧ v ≤ hi)

/-! ## Kinds (Table 2-1, R22) -/

/-- The lower end of a kind's range. -/
def kindLow : ChanKind → Int
  | .temp => -2000
  | .press => -1000
/-- The upper end of a kind's range. -/
def kindHigh : ChanKind → Int
  | .temp => 5000
  | .press => 99999

/-- R22. Clamping to the range of a kind. -/
def clampTo (k : ChanKind) (v : Int) : Int := if v < kindLow k then kindLow k else if kindHigh k < v then kindHigh k else v

/-- R22, R34. A value as it enters a window: clamped, with its clamp mark. -/
def entryOf (k : ChanKind) (v : Int) : WindowEntry := { value := clampTo k v, clamped := decide (clampTo k v ≠ v) }

/-! ## Destinations (Table 3-1) -/

/-- The place of a destination's slot among the 24. -/
def destIdx : Dest → Fin 24
  | .kegCore b => ⟨b.val, by omega⟩
  | .kegWall b => ⟨6 + b.val, by omega⟩
  | .kegPress b => ⟨12 + b.val, by omega⟩
  | .manifold => 18
  | .cylinder => 19
  | .line t => ⟨20 + t.val, by omega⟩
  | .glycol => 22
  | .ambient => 23

/-- All destinations, in the order of Table 3-1. -/
def allDests : List Dest :=
  allBays.map .kegCore ++ allBays.map .kegWall ++ allBays.map .kegPress ++
    [.manifold, .cylinder, .line 0, .line 1, .glycol, .ambient]

/-- The kind of a destination. -/
def destKind : Dest → ChanKind
  | .kegPress _ | .manifold | .cylinder => .press
  | .kegCore _ | .kegWall _ | .line _ | .glycol | .ambient => .temp

/-- R32 step 2. A kind suits a destination; both kinds suit NONE. -/
def suits (k : ChanKind) : Option Dest → Bool
  | none => true
  | some d => decide (destKind d = k)

/-- R42. A destination as ROUTE_LOAD names it; the outer `none` is one that the rule refuses. -/
def resolveDest : DestCode → Option (Option Dest)
  | .nowhere => some none
  | .kegCore b => (bayOf b).map fun b => some (.kegCore b)
  | .kegWall b => (bayOf b).map fun b => some (.kegWall b)
  | .kegPress b => (bayOf b).map fun b => some (.kegPress b)
  | .manifold => some (some .manifold)
  | .cylinder => some (some .cylinder)
  | .line t => (tapOf t).map fun t => some (.line t)
  | .glycol => some (some .glycol)
  | .ambient => some (some .ambient)
  | .unknown => none

/-- R42. One entry of ROUTE_LOAD. -/
def resolveRoute (r : RouteFields) : Option Route := (resolveDest r.dest).map fun d => { dest := d, divider := r.divider }

/-- R42. All entries of ROUTE_LOAD, each with valid fields. -/
def resolveRoutes (l : List RouteFields) : Option (List Route) := l.mapM resolveRoute

/-! ## Channel records (R32) -/

/-- R32, Table 2-1. Window and weights go with the filter. -/
def windowOk (f : FilterKind) (window : Nat) (weights : Option (List Nat)) : Bool :=
  match f, weights with
  | .plain, none => decide (window = 1)
  | .mean, none => decide (2 ≤ window ∧ window ≤ 8)
  | .weighted, some w => decide (2 ≤ window ∧ window ≤ 8 ∧ w.length = window ∧ (∀ x ∈ w, x ≤ 15) ∧ 1 ≤ w.sum)
  | _, _ => false

/-- R32 step 1. The record, when every field lies in the values of Table 2-1. -/
def checkRecord (f : ChannelFields) : Option ChannelRecord := do
  let enabled ← f.enabled
  let node ← nodeOf f.node
  let input ← inputOf f.input
  let kind ← f.kind
  let filter ← f.filter
  if within 1 65000 f.gain && within (-100000) 100000 f.offset && within 0 100000 f.spike
      && windowOk filter f.window f.weights && within 1 16 f.decimation then
    some { enabled := enabled, node := node, input := input, kind := kind, gain := f.gain.toNat, offset := f.offset,
           spike := f.spike, filter := filter, window := f.window, weights := f.weights, decimation := f.decimation }
  else none

/-- R35. A substitution setting whose values lie in the range of the kind. -/
def checkSubst (k : ChanKind) : SubstCode → Option Subst
  | .off => some .off
  | .const v => if within (kindLow k) (kindHigh k) v then some (.const v) else none
  | .alt v1 v2 =>
    if within (kindLow k) (kindHigh k) v1 && within (kindLow k) (kindHigh k) v2 then some (.alt v1 v2 false) else none
  | .unknown => none

/-! ## Steps (R83, Table 5-2) -/

/-- Table 5-2. A vent limit: none, or 300 to 3500. -/
def ventLimitOk : Option Int → Bool
  | none => true
  | some v => within 300 3500 v

/-- Table 5-2. A step's parameters lie in their ranges; a CARB's target pressure also lies at or below the keg's max pressure. -/
def stepOk (maxPressure : Int) : Step → Bool
  | .hold target duration vent => within (-200) 3500 target && within 1 65535 duration && ventLimitOk vent
  | .ramp target rate vent => within (-200) 3500 target && within 1 500 rate && ventLimitOk vent
  | .quiet target threshold maximum vent =>
    within (-200) 3500 target && within 0 20 threshold && within 60 65535 maximum && ventLimitOk vent
  | .carb target pressure settle =>
    within (-200) 3500 target && within 500 (min 3500 maxPressure) pressure && within 10 1440 settle
  | .serve temperature pressure => within (-200) 2500 temperature && within 300 2500 pressure
  | .endStep => true

/-- R83. SERVE and END are terminal. -/
def isTerminal : Step → Bool
  | .serve _ _ | .endStep => true
  | _ => false

/-- R83. No terminal step stands anywhere but last. -/
def terminalsLast (l : List Step) : Bool := l.dropLast.all fun x => !isTerminal x

/-- R83. The steps of a request, when all are known, 1 to 16 in number, in range, and with a terminal at most last. -/
def checkSteps (maxPressure : Int) (l : List (Option Step)) : Option (List Step) := do
  let steps ← l.mapM id
  if decide (1 ≤ steps.length ∧ steps.length ≤ 16) && steps.all (stepOk maxPressure) && terminalsLast steps then some steps
  else none

/-- Table 5-2. The kind of a step. -/
def stepKind : Step → StepKind
  | .hold _ _ _ => .hold
  | .ramp _ _ _ => .ramp
  | .quiet _ _ _ _ => .quiet
  | .carb _ _ _ => .carb
  | .serve _ _ => .serve
  | .endStep => .endStep

/-! ## Tap, manifold and chiller settings -/

/-- R146. The setting of a binding: none, or a bay 1 to 6; the outer `none` is a bay out of range. -/
def resolveBinding : Option Nat → Option (Option Bay)
  | none => some none
  | some n => (bayOf n).map some

/-- R146, Table 8-1. One tap's settings, when every value lies in its range. -/
def checkTap (f : TapFields) : Option TapSettings := do
  let binding ← resolveBinding f.binding
  let locked ← f.locked
  if within 1000 20000 f.pulsesPerLitre && within 50 1000 f.smallVolume && within 50 1000 f.largeVolume
      && within 100 1500 f.lineLimit && within 0 1440 f.purgeInterval && within 0 240 f.purgeGrace
      && within 5 60 f.purgeDuration && within 300 2500 f.purgePressure && within 2 15 f.stallTime then
    some { binding := binding, locked := locked, pulsesPerLitre := f.pulsesPerLitre.toNat,
           smallVolume := f.smallVolume.toNat, largeVolume := f.largeVolume.toNat, lineLimit := f.lineLimit,
           purgeInterval := f.purgeInterval.toNat, purgeGrace := f.purgeGrace.toNat,
           purgeDuration := f.purgeDuration.toNat, purgePressure := f.purgePressure, stallTime := f.stallTime.toNat }
  else none

/-- R140, Table 7-1. The seven settings lie in their ranges; a check interval is 0 or 1 to 168. -/
def gasSettingsOk (p : GasSetParams) : Bool :=
  within 20 200 p.settleTolerance && within 2 20 p.pulseLength && within 500 3000 p.checkPressure
    && within 10 300 p.checkWindow && within 20 500 p.leakLimit && within 1000 60000 p.lowThreshold
    && within 0 168 p.checkInterval

/-- R117. The settings of CHILL_SET lie in their ranges. -/
def chillSettingsOk (p : ChillSetParams) : Bool :=
  within 1 4 p.limit && p.policy.isSome && within 5 60 p.quantum && within 100 1500 p.glycolLimit

/-! ## Outputs named by NODE_WRITE (R4) -/

/-- R4. The output that a name means at a node, when the node has it. -/
def resolveOutput (n : Node) (o : OutputCode) : Option Output :=
  let found : Option Output := match o, bayOfNode n with
    | .heater, some b => some (.heater b)
    | .cool, some b => some (.cool b)
    | .gasIn, some b => some (.gasIn b)
    | .vent, some b => some (.vent b)
    | .pump, none => some .pump
    | .lineValve t, none => (tapOf t).map .lineValve
    | .regulator, none => some .regulator
    | .supply, none => some .supply
    | .purge t, none => (tapOf t).map .purge
    | .tapValve t, none => (tapOf t).map .tapValve
    | .cue t, none => (tapOf t).map .cue
    | _, _ => none
  found.filter fun o => decide (outNode o = n)

/-- R4, Table 1-3. The largest code of an output's values: ON for a switched output, FAST_BLINK for a cue, 4000 mbar for the regulator. -/
def outMax : Output → Int
  | .regulator => 4000
  | .cue _ => 3
  | _ => 1

/-- R4. The value to write, when it lies in the output's range. -/
def outValue (o : Output) (v : Int) : Option Nat := if within 0 (outMax o) v then some v.toNat else none

end Sys2Proof.Machine
end

