-- ==== Sys2Proof/Machine/Chiller.lean ====
section
/-! DEFINITION. Thermal Control and Chiller Arbiter (chapter 6): slots, thermostats, lines, the glycol guard and the chiller node. -/

namespace Sys2Proof.Machine

/-! ## Requesters and the wait queue (R100) -/

/-- A line is class A, a keg class B. -/
def Requester.isLine : Requester → Bool
  | .line _ => true
  | .keg _ => false

/-- R100. A requester that joins by request or by turn rotation: a line behind the last line, a keg at the tail. -/
def insertRequest (r : Requester) (q : List Requester) : List Requester :=
  if r.isLine then q.filter (·.isLine) ++ r :: q.filter (!·.isLine) else q ++ [r]

/-- The requesters that hold a slot, oldest grant first. -/
def holding (s : State) : List Requester := s.chl.holders.map (·.who)

/-- R101. The valve of a requester: a keg's cool valve or a tap's line valve, written as the KEG or as the TAP (R174). -/
def writeValve (r : Requester) (v : Nat) (s : State) : State :=
  match r with
  | .keg b => write .keg (.cool b) v s
  | .line t => write .tap (.lineValve t) v s

/-- The requester's thermostat goes to WANT_COOL. -/
def setWant (r : Requester) (s : State) : State :=
  match r with
  | .keg b => s.modThermo b fun th => { th with state := .wantCool }
  | .line t => s.modLine t fun l => { l with state := .wantCool }

/-- The requester's thermostat goes to COOLING. -/
def setCooling (r : Requester) (s : State) : State :=
  match r with
  | .keg b => s.modThermo b fun th => { th with state := .cooling }
  | .line t => s.modLine t fun l => { l with state := .cooling }

/-- The requester's thermostat goes to REST. -/
def setRest (r : Requester) (s : State) : State :=
  match r with
  | .keg b => s.modThermo b fun th => { th with state := .rest }
  | .line t => s.modLine t fun l => { l with state := .rest }

/-- A requester leaves the holders, its turn timer with it. -/
def dropHolder (r : Requester) (s : State) : State :=
  s.modChl fun c => { c with holders := c.holders.filter fun h => decide (h.who ≠ r) }

/-- A requester leaves the wait queue. -/
def dropWaiting (r : Requester) (s : State) : State :=
  s.modChl fun c => { c with queue := c.queue.filter fun x => decide (x ≠ r) }

/-! ## The grant procedure (R101) -/

/-- R101. A slot can be granted. -/
def canGrant (s : State) : Bool :=
  decide (s.running) && !s.chl.nodeLost && !s.chl.queue.isEmpty && decide (s.chl.holders.length < s.chl.limit)

/-- R101, R110. A new holder; under TURN a keg's turn timer starts from 0. -/
def newHolder (p : Policy) (r : Requester) : Holder :=
  { who := r, turn := if p = .turn ∧ r.isLine = false then some 0 else none }

/-- R101. One grant, to the head of the queue. -/
def grantHead (s : State) : State :=
  match s.chl.queue with
  | [] => s
  | r :: rest =>
    let s := s.modChl fun c => { c with queue := rest, holders := c.holders ++ [newHolder c.policy r] }
    writeValve r 1 (setCooling r s)

/-- R101. Grants while they can be made, at most `fuel` of them. -/
def grantUpTo : Nat → State → State
  | 0, s => s
  | fuel + 1, s => if canGrant s then grantUpTo fuel (grantHead s) else s

/-- R101. The grant procedure. -/
def grants (s : State) : State := grantUpTo s.chl.queue.length s

/-- R101. A request: the requester waits, and the grant procedure runs. -/
def requestSlot (r : Requester) (s : State) : State :=
  grants (setWant r (s.modChl fun c => { c with queue := insertRequest r c.queue }))

/-- R102. A release: the valve is written OFF, the holder leaves, its thermostat rests, and the grant procedure runs. -/
def release (r : Requester) (s : State) : State := grants (setRest r (dropHolder r (writeValve r 0 s)))

/-- R102. A withdrawal: the requester leaves the queue and its thermostat rests. -/
def withdraw (r : Requester) (s : State) : State := setRest r (dropWaiting r s)

/-- R103. The pump follows the holders, written at the end of an event. -/
def pumpWrite (s : State) : State := write .chl .pump (if s.chl.holders.isEmpty then 0 else 1) s

/-! ## The keg thermostat (R104 to R107) -/

/-- R106. The air is warm enough to leave a keg to warm passively. -/
def ambientWarm (setpoint : Int) (s : State) : Bool :=
  match s.rte.slots[destIdx .ambient] with
  | some x => decide (setpoint + 100 ≤ x.value)
  | none => false

/-- R106. The heating decision of a REST thermostat below its band. -/
def heatDecision (b : Bay) (setpoint : Int) (s : State) : State :=
  if ambientWarm setpoint s then s else write .keg (.heater b) 1 (s.modThermo b fun th => { th with state := .heating })

/-- R105 Table 6-2, the REST rows. -/
def thermoFromRest (b : Bay) (s : State) : State :=
  match s.thermo b with
  | some th =>
    if th.state = .rest then
      if th.setpoint + th.band < th.temp then requestSlot (.keg b) s
      else if th.temp < th.setpoint - th.band then heatDecision b th.setpoint s
      else s
    else s
  | none => s

/-- R105 Table 6-2. One evaluation; a thermostat that becomes REST in it is tested once more against the REST rows. -/
def thermoEval (b : Bay) (s : State) : State :=
  match s.thermo b with
  | none => s
  | some th =>
    match th.state with
    | .rest => thermoFromRest b s
    | .wantCool => if th.temp ≤ th.setpoint then thermoFromRest b (withdraw (.keg b) s) else s
    | .cooling => if th.temp ≤ th.setpoint then thermoFromRest b (release (.keg b) s) else s
    | .heating =>
      if th.setpoint ≤ th.temp then
        thermoFromRest b (s.modThermo b (fun th => { th with state := .rest }) |> write .keg (.heater b) 0)
      else s

/-- R104. A new control temperature; a bay without a thermostat changes nothing. -/
def thermoTemp (b : Bay) (v : Int) (s : State) : State := thermoEval b (s.modThermo b fun th => { th with temp := v })

/-- R104. A setpoint told by the SCH or the KEG. -/
def thermoSetpoint (b : Bay) (sp : Int) (s : State) : State := thermoEval b (s.modThermo b fun th => { th with setpoint := sp })

/-- R69, R104. A new band, used at the next evaluation. -/
def thermoBand (b : Bay) (band : Int) (s : State) : State := s.modThermo b fun th => { th with band := band }

/-! ## Line thermostats (R108, R109) -/

/-- R108. Tap `t` is bound to a bay whose keg is under control in SERVING, as the KEG's notices give it. -/
def lineServed (t : Tap) (s : State) : Bool :=
  match (s.line t).bay with
  | some b => (match s.thermo b with | some th => decide (th.phase = .serving) | none => false)
  | none => false

/-- R109. An active line's thermostat takes a value of its slot. -/
def lineEval (t : Tap) (v : Int) (s : State) : State :=
  let l := s.line t
  if l.active then
    match l.state with
    | .rest => if l.limit < v then requestSlot (.line t) s else s
    | .wantCool => if v ≤ l.limit - 100 then withdraw (.line t) s else s
    | .cooling => if v ≤ l.limit - 100 then release (.line t) s else s
  else s

/-- R108, R109. The line gives up its slot or its place in the queue, and rests. -/
def lineSatisfied (t : Tap) (s : State) : State :=
  match (s.line t).state with
  | .rest => s
  | .wantCool => withdraw (.line t) s
  | .cooling => release (.line t) s

/-- R109. The slot of an active line was emptied. -/
def lineEmptied (t : Tap) (s : State) : State := if (s.line t).active then lineSatisfied t s else s

/-- R108. The line becomes active: it starts in REST and takes the value its slot holds. -/
def lineActivate (t : Tap) (s : State) : State :=
  let s := s.modLine t fun l => { l with active := true, state := .rest }
  match s.rte.slots[destIdx (.line t)] with
  | some x => lineEval t x.value s
  | none => s

/-- R108. The line becomes inactive. -/
def lineDeactivate (t : Tap) (s : State) : State :=
  (lineSatisfied t s).modLine t fun l => { l with active := false, state := .rest }

/-- R108. The line follows its conditions. -/
def lineRefresh (t : Tap) (s : State) : State :=
  if lineServed t s = (s.line t).active then s else if lineServed t s then lineActivate t s else lineDeactivate t s

/-- R108. Both lines follow their conditions; where both change, the manual leaves their order open (log 6). -/
def linesRefresh (s : State) : State :=
  forAny (allTaps.filter fun t => decide (lineServed t s ≠ (s.line t).active)) lineRefresh s

/-- R108. The TAP gives a tap's binding and line limit.
A line that moves to another bay is deactivated whole, with the grants that follow its release, before it may become active again and ask for a slot:
R101, R102, R108 and R147 give no order between the two, this one is the model's (log 39). -/
def lineSet (t : Tap) (bay : Option Bay) (limit : Int) (s : State) : State :=
  let s := if (s.line t).bay ≠ bay ∧ (s.line t).active then lineDeactivate t s else s
  lineRefresh t (s.modLine t fun l => { l with bay := bay, limit := limit })

/-! ## Thermostats come and go -/

/-- R104. A keg comes under control: its thermostat is created in REST and evaluated.
Its lines become active after that: the manual gives no order, this one is the model's (log 33).
A keg without a sensed temperature or a setpoint never comes here (R55); it gets no thermostat (log 25). -/
def thermoCreate (b : Bay) (phase : ActivePhase) (s : State) : State :=
  match (s.keg b).sensedTemp, (s.keg b).setpoint with
  | some t, some sp =>
    let th : Thermo := { state := .rest, setpoint := sp, band := (s.keg b).band, temp := t.value, phase := phase }
    linesRefresh (thermoEval b (s.modChl fun c => { c with thermos := upd c.thermos b fun _ => some th }))
  | _, _ => s

/-- R107. A keg leaves control: its thermostat writes its output off or leaves its slot, and ceases; its lines follow (log 31). -/
def thermoEnd (b : Bay) (s : State) : State :=
  match s.thermo b with
  | none => s
  | some th =>
    let s := match th.state with
      | .heating => write .keg (.heater b) 0 s
      | .cooling => release (.keg b) s
      | .wantCool => withdraw (.keg b) s
      | .rest => s
    linesRefresh (s.modChl fun c => { c with thermos := upd c.thermos b fun _ => none })

/-- R60, R104. A SERVE terminal changes a controlled keg's setpoint and phase.
The keg's thermostat is evaluated before its lines become active: the manual gives no order, this one is the model's (log 33). -/
def thermoServe (b : Bay) (sp : Int) (s : State) : State :=
  linesRefresh (thermoEval b (s.modThermo b fun th => { th with setpoint := sp, phase := .serving }))

/-! ## Turns (R110, R111) -/

/-- The turn timer of a keg holder has reached the quantum. -/
def turnDue (b : Bay) (s : State) : Bool :=
  s.chl.holders.any fun h =>
    decide (h.who = .keg b) && (match h.turn with | some c => timerDue c (s.chl.quantum * 60) | none => false)

/-- R111. A keg's turn timer reaches the quantum. -/
def turnExpired (b : Bay) (s : State) : State :=
  if s.chl.queue.any (!·.isLine) then
    let s := setWant (.keg b) (dropHolder (.keg b) (writeValve (.keg b) 0 s))
    grants (s.modChl fun c => { c with queue := insertRequest (.keg b) c.queue })
  else
    s.modChl fun c => { c with holders := c.holders.map fun h => if h.who = .keg b then { h with turn := some 0 } else h }

/-! ## Revocation, the guard and the chiller node (R112 to R116) -/

/-- R113. The order in which holders are taken: kegs from the newest grant to the oldest, then lines likewise. -/
def removalOrder (l : List Requester) : List Requester := (l.filter (!·.isLine)).reverse ++ (l.filter (·.isLine)).reverse

/-- R113. Removal of one holder. -/
def revokeOne (r : Requester) (s : State) : State := setWant r (writeValve r 0 (dropHolder r s))

/-- R113. Reinsertion of the revoked, given in the order of their grants. -/
def requeueRevoked (revoked q : List Requester) : List Requester :=
  q.filter (·.isLine) ++ revoked.filter (·.isLine) ++ revoked.filter (!·.isLine) ++ q.filter (!·.isLine)

/-- R113. Revocation of the chosen holders, given in removal order. -/
def revoke (rs : List Requester) (s : State) : State :=
  let inGrantOrder := (holding s).filter fun r => decide (r ∈ rs)
  (forAll rs revokeOne s).modChl fun c => { c with queue := requeueRevoked inGrantOrder c.queue }

/-- R114. The guard enters HOT. -/
def guardHot (s : State) : State :=
  let s := s.modChl fun c => { c with guardState := .hot, limit := 1 }
  let s := raise .glycolHot (some (nodeNum chillerNode)) s
  revoke ((removalOrder (holding s)).take (s.chl.holders.length - 1)) s

/-- R115. The guard returns to NORMAL. -/
def guardNormal (s : State) : State :=
  grants (s.modChl fun c => { c with guardState := .normal, limit := c.configured })

/-- R112. The guard takes a glycol value. -/
def guardEval (g : Int) (s : State) : State :=
  match s.chl.guardState with
  | .normal => if s.chl.glycolLimit < g then guardHot s else s
  | .hot => if g ≤ s.chl.glycolLimit - 200 then guardNormal s else s

/-- R116. Node 7 becomes LOST. -/
def chillerLost (s : State) : State :=
  let s := s.modChl fun c => { c with nodeLost := true }
  revoke (removalOrder (holding s)) s

/-- R116. Node 7 becomes ONLINE from LOST. -/
def chillerReturned (s : State) : State := grants (s.modChl fun c => { c with nodeLost := false })

/-! ## Part state and resets -/

/-- R119. At HOLD, whatever still waits leaves the queue. -/
def chillerHold (s : State) : State := s.modChl fun c => { c with queue := [] }

/-- R120. A software reset of the CHL. -/
def chillerSoftReset (s : State) : State :=
  s.modChl fun c => { c with
    guardState := .normal, limit := c.configured, nodeLost := false, holders := [], queue := [],
    thermos := .replicate 6 none, lines := c.lines.map fun l => { l with active := false, state := .rest } }

end Sys2Proof.Machine
end

