-- ==== Sys2Proof/Machine/Gas.lean ====
section
/-! DEFINITION. The Manifold Controller's core (chapter 7): needs and their answers, service of the queue, operations becoming ACTIVE,
with the notices it gives to the SCH and the TAP on the way. -/

namespace Sys2Proof.Machine

/-! ## Notices to the SCH: the charge-pending mark (R92, R127) -/

/-- The step at the head of a keg's chain. -/
def currentStep (b : Bay) (s : State) : Option Step :=
  match (s.keg b).chain with
  | [] => none
  | i :: _ => s.sch.pool[i].map (·.step)

/-- The keg's current step is CARB. -/
def inCarb (b : Bay) (s : State) : Bool :=
  match currentStep b s with
  | some (.carb _ _ _) => true
  | _ => false

/-- R92. A CHARGE of the keg has been queued or taken into service: in a CARB step the mark is set. -/
def chargeMarked (b : Bay) (s : State) : State :=
  if inCarb b s then s.modKeg b fun k => { k with chargePending := true } else s

/-- R92, R127. The keg's CHARGE ended: in a CARB step the mark is cleared, and the settle timer set to 0 if the valve had opened. -/
def chargeEnded (b : Bay) (opened : Bool) (s : State) : State :=
  if inCarb b s then
    s.modKeg b fun k => { k with chargePending := false, settle := if opened then some 0 else k.settle }
  else s

/-! ## Notices to the TAP: grant and purge service (R152, R153, R159) -/

/-- R152. The line of tap `t` is cold: its slot holds a value at or below the line limit. -/
def lineCold (t : Tap) (s : State) : Bool :=
  match s.rte.slots[destIdx (.line t)] with
  | some x => decide (x.value ≤ (s.tapRec t).set.lineLimit)
  | none => false

/-- R153. The pour's record as it becomes POURING. Its wait timer is stopped and keeps its last count, which Q_TAP shows:
R153 and Table 8-2 give it no value from here on, this one is the model's (log 37). -/
def Pour.started (lastFlow : Option (BitVec 16)) (p : Pour) : Pour :=
  { p with pouring := true, baseline := lastFlow.getD 0, carry := 0, stall := 0 }

/-- R152, R153. A PENDING pour becomes POURING when it is granted, its line is cold and its tap is not PURGING. -/
def tryStart (t : Tap) (s : State) : State :=
  match (s.tapRec t).pour with
  | some p =>
    if !p.pouring && p.granted && lineCold t s && decide ((s.tapRec t).state ≠ .purging) then
      write .tap (.tapValve t) 1
        (s.modTap t fun r => { r with state := .pouring, pour := some (p.started r.lastFlow) })
    else s
  | none => s

/-- R131, R152. The MAN grants gas to the pour of tap `t`. -/
def grantPour (t : Tap) (s : State) : State :=
  tryStart t (s.modTap t fun r => { r with pour := r.pour.map fun p => { p with granted := true } })

/-- R159. The MAN tells the TAP that the tap's PURGE is in service. -/
def purgeServed (t : Tap) (s : State) : State :=
  s.modTap t fun r => { r with purgeRequest := .inService, state := .purging }

/-! ## Needs (R125) -/

/-- R125. Same kind and same requester. -/
def GasNeed.same : GasNeed → GasNeed → Bool
  | .charge b, .charge b' => decide (b = b')
  | .pour t _, .pour t' _ => decide (t = t')
  | .purge t _, .purge t' _ => decide (t = t')
  | .check, .check => true
  | _, _ => false

def GasNeed.isCharge : GasNeed → Bool
  | .charge _ => true
  | _ => false
def GasNeed.isPour : GasNeed → Bool
  | .pour _ _ => true
  | _ => false
def GasNeed.isPurge : GasNeed → Bool
  | .purge _ _ => true
  | _ => false
def GasNeed.isCheck : GasNeed → Bool
  | .check => true
  | _ => false

/-- Table 7-4. How the MAN answers a new need. -/
inductive GasAnswer
  | unqueued
  | refused (r : PourReason)
  | alreadyHeld
  | joined
  | inService
  | queued
  deriving DecidableEq, Repr

/-- R126. Every entry is eligible but a PURGE whose tap is not IDLE. -/
def eligible (n : GasNeed) (s : State) : Bool :=
  match n with
  | .purge t _ => decide ((s.tapRec t).state = .idle)
  | _ => true

/-- R128, R132. A pressure lies within the settle tolerance of another. -/
def withinTolerance (p q : Int) (s : State) : Bool :=
  decide (p - q ≤ s.man.settleTolerance ∧ q - p ≤ s.man.settleTolerance)

/-- R132. The need is a POUR that may join the operation in progress. -/
def mayJoin (e : GasEntry) (s : State) : Bool :=
  match s.man.op with
  | some op => e.need.isPour && op.need.isPour && withinTolerance e.pressure op.pressure s && decide (op.pours.length < 2)
  | none => false

/-- Table 7-4, row 4: the need is queued already, or is the operation in progress. -/
def alreadyHeld (n : GasNeed) (s : State) : Bool :=
  s.man.queue.any (fun e => e.need.same n) || (match s.man.op with | some op => op.need.same n | none => false)

/-- A need the MAN does not take: a POUR is refused with a reason, every other need is left unqueued. -/
def turnedAway (n : GasNeed) (r : PourReason) : GasAnswer := if n.isPour then .refused r else .unqueued

/-- R125 Table 7-4, the first row that applies.
`serving` is false while the MAN has not taken the notice of RUN: row 6 does not apply then (R166, log 14). -/
def answerNeed (serving : Bool) (e : GasEntry) (s : State) : GasAnswer :=
  if s.man.state = .down then turnedAway e.need .manifoldDown
  else if s.man.state = .lockout then turnedAway e.need .lockout
  else if e.need.isCharge ∧ s.man.supplyLow then .unqueued
  else if e.need.isPour = false ∧ alreadyHeld e.need s then .alreadyHeld
  else if mayJoin e s then .joined
  else if serving ∧ s.running ∧ s.man.state = .idle ∧ eligible e.need s then .inService
  else if Config.gasQueueLimit ≤ s.man.queue.length then turnedAway e.need .gasBusy
  else .queued

/-! ## Taking into service (R128) -/

/-- R128. The pressure of an operation: a CHECK takes the check pressure of the moment (R140). -/
def servicePressure (e : GasEntry) (s : State) : Int := if e.need.isCheck then s.man.checkPressure else e.pressure

/-- R123, R128. The operation record of an entry taken into service. -/
def newOperation (e : GasEntry) (s : State) : Operation :=
  { need := e.need, pressure := servicePressure e s, sub := .settling, settle := 0, work := none,
    pours := (match e.need with | .pour t b => [{ tap := t, bay := b }] | _ => []), p0 := none }

/-- R128. The requester is told that its need is in service. -/
def tellServed (n : GasNeed) (s : State) : State :=
  match n with
  | .charge b => chargeMarked b s
  | .purge t _ => purgeServed t s
  | .pour _ _ | .check => s

/-- R128. An entry is taken into service. -/
def startOperation (e : GasEntry) (s : State) : State :=
  let op := newOperation e s
  let s := s.modMan fun m => { m with op := some op, state := .busy }
  tellServed e.need (write .man .regulator op.pressure.toNat s)

/-- R128. A queued POUR that joins the POUR taken into service from the queue. -/
def joinsAtService (pressure : Int) (e : GasEntry) (s : State) : Bool := e.need.isPour && withinTolerance e.pressure pressure s

/-- The pour that a POUR entry stands for. -/
def entryPour (e : GasEntry) : Option SetPour :=
  match e.need with
  | .pour t b => some { tap := t, bay := b }
  | _ => none

/-- R126, R128. An entry leaves the queue and is taken into service; with a POUR, every queued POUR in tolerance joins its set. -/
def serveEntry (e : GasEntry) (s : State) : State :=
  let s := startOperation e (s.modMan fun m => { m with queue := m.queue.erase e })
  if e.need.isPour then
    let joining := s.man.queue.filter fun x => joinsAtService e.pressure x s
    s.modMan fun m => { m with
      queue := m.queue.filter fun x => !joinsAtService e.pressure x s
      op := m.op.map fun op => { op with pours := op.pours ++ joining.filterMap entryPour } }
  else s

/-- R126. The entry that is chosen: by kind in the order POUR, PURGE, CHECK, CHARGE, the oldest eligible one of the kind. -/
def chooseEntry (s : State) : Option GasEntry :=
  (s.man.queue.find? fun e => e.need.isPour) <|>
  (s.man.queue.find? fun e => e.need.isPurge && eligible e.need s) <|>
  (s.man.queue.find? fun e => e.need.isCheck) <|>
  (s.man.queue.find? fun e => e.need.isCharge)

/-- R126. The queue is served while the part is RUNNING and the manifold IDLE. -/
def serveQueue (s : State) : State :=
  if s.running ∧ s.man.state = .idle then
    match chooseEntry s with
    | some e => serveEntry e s
    | none => s
  else s

/-- R126. The manifold becomes IDLE and serves its queue. -/
def becomeIdle (s : State) : State := serveQueue (s.modMan fun m => { m with state := .idle })

/-- R132. A pour joins the POUR in progress; when that is ACTIVE its gas-in valve opens and it is granted at once. -/
def joinPour (e : GasEntry) (s : State) : State :=
  match s.man.op, entryPour e with
  | some op, some p =>
    let s := s.modMan fun m => { m with op := some { op with pours := op.pours ++ [p] } }
    if op.sub = .active then grantPour p.tap (write .man (.gasIn p.bay) 1 s) else s
  | _, _ => s

/-- R125. A new need is answered and, when it is taken, joins, starts or is queued at the tail. -/
def raiseNeed (serving : Bool) (e : GasEntry) (s : State) : GasAnswer × State :=
  match answerNeed serving e s with
  | .joined => (.joined, joinPour e s)
  | .inService => (.inService, startOperation e s)
  | .queued => (.queued, s.modMan fun m => { m with queue := m.queue ++ [e] })
  | a => (a, s)

/-- R74, R92, R127. A keg raises a CHARGE; its being queued is reported to the SCH, as its being taken into service is by R128. -/
def raiseCharge (b : Bay) (pressure : Int) (s : State) : State :=
  match raiseNeed true { need := .charge b, pressure := pressure } s with
  | (.queued, s) => chargeMarked b s
  | (_, s) => s

/-! ## Operations become ACTIVE (R128, R130, R131, R134, R135) -/

/-- The sub-phase becomes ACTIVE; a kind with a work timer starts it. -/
def setActive (s : State) : State :=
  s.modMan fun m => { m with op := m.op.map fun op => { op with
    sub := .active, work := if op.need.isPour then none else some 0 } }

/-- The value a slot holds. -/
def slotValue (d : Dest) (s : State) : Option Int := s.rte.slots[destIdx d].map (·.value)

/-- R130, R131, R134, R135. The work of an operation begins.
The gas-in valves of a pour set are written in the list order of the set: the manual gives no order, this one is the model's (log 32). -/
def activate (op : Operation) (s : State) : State :=
  match op.need with
  | .charge b => write .man (.gasIn b) 1 (setActive s)
  | .pour _ _ =>
    forAll op.pours (fun p => grantPour p.tap) (forAll op.pours (fun p => write .man (.gasIn p.bay) 1) (setActive s))
  | .purge t _ => write .man (.tapValve t) 1 (write .man (.purge t) 1 (passing [.tapValve t] setActive s))
  | .check =>
    let s := write .man .supply 0 (setActive s)
    s.modMan fun m => { m with op := m.op.map fun op => { op with p0 := slotValue .manifold s } }

/-- R128. A new MANIFOLD value is tested against a SETTLING operation. -/
def settleTest (v : Int) (s : State) : State :=
  match s.man.op with
  | some op => if op.sub = .settling ∧ withinTolerance v op.pressure s then activate op s else s
  | none => s

/-! ## Ends that others bring about (R127, R133) -/

/-- The operation record becomes absent; the manifold leaves BUSY by what follows. -/
def clearOp (s : State) : State := s.modMan fun m => { m with op := none }

/-- R133. The TAP tells of the end of the pour of tap `t`. -/
def pourEnded (t : Tap) (s : State) : State :=
  let s := s.modMan fun m => { m with queue := m.queue.filter fun e => match e.need with | .pour t' _ => decide (t' ≠ t) | _ => true }
  match s.man.op with
  | some op =>
    match op.pours.find? fun p => decide (p.tap = t) with
    | some p =>
      let rest := op.pours.filter fun p => decide (p.tap ≠ t)
      let s := s.modMan fun m => { m with op := some { op with pours := rest } }
      let s := if rest.any fun x => decide (x.bay = p.bay) then s else write .man (.gasIn p.bay) 0 s
      if rest.isEmpty then becomeIdle (clearOp s) else s
    | none => s
  | none => s

/-- R127. The keg leaves control: a queued CHARGE of it is removed, and a CHARGE of it in progress ends. -/
def chargesEnd (b : Bay) (s : State) : State :=
  let s := if s.man.queue.any fun e => e.need.same (.charge b) then
      chargeEnded b false (s.modMan fun m => { m with queue := m.queue.filter fun e => !e.need.same (.charge b) })
    else s
  match s.man.op with
  | some op =>
    if op.need.same (.charge b) then
      let s := if op.sub = .active then write .man (.gasIn b) 0 s else s
      becomeIdle (chargeEnded b (decide (op.sub = .active)) (clearOp s))
    else s
  | none => s

end Sys2Proof.Machine
end

