-- ==== Sys2Proof/Machine/Taps.lean ====
section
/-! DEFINITION. The Tap Controller's core (chapter 8): purge needs, the end of a pour, the end of a purge, and the cues. -/

namespace Sys2Proof.Machine

/-! ## Purge status and need (R158, R159) -/

/-- R158. The purge timer's interval plus grace, in minutes. -/
def TapSettings.purgeTop (x : TapSettings) : Nat := x.purgeInterval + x.purgeGrace

/-- R146, R158. The purge status that a timer of `minutes` gives. -/
def purgeStatusOf (x : TapSettings) (minutes : Nat) : PurgeStatus :=
  if x.purgeInterval = 0 then .clean
  else if x.purgeTop ≤ minutes then .overdue
  else if x.purgeInterval ≤ minutes then .due
  else .clean

/-- R158. The purge timer counts: the tap is bound, the part RUNNING, the interval not 0, and the timer below its top. -/
def purgeCounts (t : Tap) (s : State) : Bool :=
  let r := s.tapRec t
  r.set.binding.isSome && decide (s.running) && decide (r.set.purgeInterval ≠ 0) && decide (r.purgeMinutes < r.set.purgeTop)

/-- R159. The purge retry timer runs: DUE or OVERDUE, RUNNING, and the purge timer not counting. -/
def retryRuns (t : Tap) (s : State) : Bool :=
  decide ((s.tapRec t).purgeStatus ≠ .clean) && decide (s.running) && !purgeCounts t s

/-- R159. The purge need is raised. -/
def purgeNeeded (t : Tap) (s : State) : Bool :=
  let r := s.tapRec t
  decide (r.purgeStatus ≠ .clean ∧ s.running ∧ r.state = .idle ∧ r.purgeRequest = .none
    ∧ s.man.state ≠ .lockout ∧ s.man.state ≠ .down)

/-- R159. The gas entry of a tap's PURGE. -/
def purgeEntry (t : Tap) (s : State) : GasEntry :=
  let x := (s.tapRec t).set
  { need := .purge t x.purgeDuration, pressure := x.purgePressure }

/-- R159. The TAP evaluates a tap's purge need. A PURGE taken into service is told to the TAP by the MAN (R128). -/
def evalPurge (serving : Bool) (t : Tap) (s : State) : State :=
  if purgeNeeded t s then
    match raiseNeed serving (purgeEntry t s) s with
    | (.queued, s) => s.modTap t fun r => { r with purgeRequest := .queued }
    | (_, s) => s
  else s

/-- R155, R159. The tap has become IDLE: the MAN is told of a queued PURGE, and the need is evaluated. -/
def tapIdle (t : Tap) (s : State) : State :=
  let s := if (s.tapRec t).purgeRequest = .queued then serveQueue s else s
  evalPurge true t s

/-! ## The end of a pour (R155 to R157) -/

/-- R155. The reasons with which a pour that never became POURING ends REFUSED. -/
def PourReason.refuses : PourReason → Bool
  | .lineWarm | .gasBusy | .regulator | .lockout | .manifoldDown => true
  | _ => false

/-- R160. A refusal on the tap starts its blink window; no blink window runs in HELD (R164, log 13). -/
def startBlink (t : Tap) (s : State) : State :=
  if s.running then s.modTap t fun r => { r with blink := some 0 } else s

/-- R157. The POUR_RECORD of a pour that ends. -/
def pourReport (t : Tap) (p : Pour) (reason : PourReason) (tag : Byte) : PourReport :=
  { tag := tag, number := p.number, tap := t, bay := some p.bay, source := p.source, target := p.target,
    metered := p.metered, refused := !p.pouring && reason.refuses, reason := reason }

/-- R155. The tap record once its pour has ended. -/
def TapRecord.pourGone (r : TapRecord) : TapRecord :=
  { r with pour := none, state := if r.state = .purging then .purging else .idle }

/-- R155. The pour of tap `t` ends; a tap without a pour changes nothing.
The MAN is told before the KEG: the manual gives no order, this one is the model's (log 5). -/
def endPour (reason : PourReason) (t : Tap) (s : State) : State :=
  match (s.tapRec t).pour with
  | none => s
  | some p =>
    let s := if p.pouring then write .tap (.tapValve t) 0 s else s
    let s := pourEnded t s
    let s := s.modKeg p.bay fun k => { k with pours := k.pours - 1 }
    let s := handPourRecord (pourReport t p reason) s
    let s := s.modTap t TapRecord.pourGone
    let s := if !p.pouring && reason.refuses then startBlink t s else s
    if (s.tapRec t).state = .idle then tapIdle t s else s

/-- The tap has a pour from bay `b`. -/
def poursFrom (b : Bay) (t : Tap) (s : State) : Bool :=
  match (s.tapRec t).pour with
  | some p => decide (p.bay = b)
  | none => false

/-- R156. Every pour from bay `b` ends; the order of two ends taken by one notice is left open (log 6). -/
def endPoursFrom (reason : PourReason) (b : Bay) (s : State) : State :=
  forAny (allTaps.filter fun t => poursFrom b t s) (endPour reason) s

/-- R156. Every pour ends. -/
def endAllPours (reason : PourReason) (s : State) : State :=
  forAny (allTaps.filter fun t => (s.tapRec t).pour.isSome) (endPour reason) s

/-! ## The end of a purge (R134, R159) -/

/-- R159. The MAN tells the TAP that the tap's PURGE has ended: a pour waiting beneath it becomes PENDING, or the tap IDLE. -/
def purgeEnded (t : Tap) (s : State) : State :=
  let s := s.modTap t fun r => { r with purgeRequest := .none, state := if r.pour.isSome then .pending else .idle }
  if (s.tapRec t).state = .idle then evalPurge true t s else tryStart t s

/-- R134, R158. The PURGE has completed: the tap is CLEAN and its purge timer restarts. -/
def purgeCleaned (t : Tap) (s : State) : State :=
  s.modTap t fun r => { r with purgeStatus := .clean, purgeMinutes := 0, purgeSeconds := 0 }

/-- R159. The MAN removes a queued PURGE. -/
def purgeRemoved (t : Tap) (s : State) : State := s.modTap t fun r => { r with purgeRequest := .none }

/-! ## Cues (R160) -/

/-- Table 8-3, checks 5 to 11: the first that fails for tap `t` bound to bay `b`. -/
def servingChecks (t : Tap) (b : Bay) (s : State) : Option PourReason :=
  let k := s.keg b
  if k.phase ≠ .serving then some .notServing
  else if (match k.sensedTemp with | some x => x.substituted | none => false) then some .substituted
  else if k.remaining = 0 then some .empty
  else if (s.tapRec t).purgeStatus = .overdue then some .purgeOverdue
  else if s.man.state = .lockout then some .lockout
  else if s.man.state = .down then some .manifoldDown
  else if (s.node panelNode).state ≠ .online then some .panelLost
  else none

/-- R160 row 5. An IDLE tap is pourable. -/
def pourable (t : Tap) (s : State) : Bool :=
  match (s.tapRec t).set.binding with
  | some b => (servingChecks t b s).isNone
  | none => false

/-- R160 Table 8-5, with the codes of Table 10-4: OFF 0, STEADY 1, SLOW_BLINK 2, FAST_BLINK 3. -/
def derivedCue (t : Tap) (s : State) : Nat :=
  let r := s.tapRec t
  if r.set.locked then 0
  else if r.blink.isSome then 3
  else match r.state with
    | .pending | .purging => 2
    | .pouring => 1
    | .idle => if pourable t s then 1 else 0

/-- R160. An owned cue is written with its derived value, at the end of an event. -/
def cueWrite (t : Tap) (s : State) : State := write .tap (.cue t) (derivedCue t s) s

/-- R159. The purge retry timer starts, runs on or stops as its conditions hold at the end of an event. -/
def retrySync (t : Tap) (s : State) : State :=
  s.modTap t fun r => { r with purgeRetry := if retryRuns t s then some (r.purgeRetry.getD 0) else none }

end Sys2Proof.Machine
end

