-- ==== Sys2Proof/Machine/Manifold.lean ====
section
/-! DEFINITION. The Manifold Controller's own ends of work (chapter 7): settle failures, pulse and purge ends, checks, LOCKOUT, DOWN,
sensing, RUN, HOLD and the software reset. -/

namespace Sys2Proof.Machine

/-! ## Ending an operation -/

/-- R129 to R139. The valves an operation opened are written closed, and the supply a check closed is written open.
The gas-in valves of a pour set are written in the list order of the set: the manual gives no order, this one is the model's (log 32). -/
def closeOp (s : State) : State :=
  match s.man.op with
  | some op =>
    if op.sub = .active then
      match op.need with
      | .charge b => write .man (.gasIn b) 0 s
      | .pour _ _ => forAll op.pours (fun p => write .man (.gasIn p.bay) 0) s
      | .purge t _ => write .man (.tapValve t) 0 (write .man (.purge t) 0 s)
      | .check => write .man .supply 1 s
    else s
  | none => s

/-- R134. The operation record becomes absent, and a tap valve that the MAN held for a PURGE returns. -/
def returnOp (s : State) : State := passing [.tapValve 0, .tapValve 1] clearOp s

/-- R127, R129, R134, R139. Whoever an operation served is told that it has ended without completion; its pours end for `reason`.
The order of two pours ended by one notice is left open (log 6). -/
def tellEnded (reason : PourReason) (op : Operation) (s : State) : State :=
  match op.need with
  | .charge b => chargeEnded b (decide (op.sub = .active)) s
  | .pour _ _ => forAny op.pours (fun p => endPour reason p.tap) s
  | .purge t _ => purgeEnded t s
  | .check => s

/-- R137, R139. One entry that is no POUR leaves the emptied queue. -/
def dropEntry (e : GasEntry) (s : State) : State :=
  match e.need with
  | .charge b => chargeEnded b false s
  | .purge t _ => purgeRemoved t s
  | .pour _ _ | .check => s

/-- R137, R139. The queue is emptied by kind; the pour of each POUR entry ends for `reason`.
The other entries leave before the pours end: the manual gives no order, this one is the model's (log 5). -/
def emptyQueue (reason : PourReason) (s : State) : State :=
  let q := s.man.queue
  let s := s.modMan fun m => { m with queue := [] }
  let s := forAll q dropEntry s
  forAny (q.filterMap entryPour) (fun p => endPour reason p.tap) s

/-! ## DOWN (R124, R139) -/

/-- R124. The MAN's sensing is complete. -/
def sensingComplete (s : State) : Bool :=
  s.man.nodeOnline && (slotValue .manifold s).isSome && (slotValue .cylinder s).isSome

/-- R124, R139. The manifold enters DOWN from any other state. -/
def enterDown (s : State) : State :=
  if s.man.state = .down then s
  else
    let op := s.man.op
    let s := (returnOp (closeOp s)).modMan fun m => { m with state := .down }
    let s := match op with
      | some op => tellEnded .sensor op s
      | none => s
    emptyQueue .manifoldDown (write .man .regulator 0 s)

/-- R124. In DOWN, sensing complete again leads to LOCKOUT with LEAK latched, and otherwise to IDLE and the queue. -/
def sensingTest (s : State) : State :=
  if s.man.state = .down ∧ sensingComplete s then
    if s.man.leak then s.modMan fun m => { m with state := .lockout } else becomeIdle s
  else s

/-- R124, R128. A new MANIFOLD value. -/
def manifoldValue (v : Int) (s : State) : State := sensingTest (settleTest v s)

/-- R124. The BLC's notice that node 8 has become LOST. -/
def manifoldLost (s : State) : State := enterDown (s.modMan fun m => { m with nodeOnline := false })

/-- R124. The BLC's notice that node 8 has become ONLINE. -/
def manifoldOnline (s : State) : State := sensingTest (s.modMan fun m => { m with nodeOnline := true })

/-! ## Ends in time (R129, R130, R134) -/

/-- The settle timer of a SETTLING operation has reached its limit. -/
def settleDue (s : State) : Bool :=
  match s.man.op with
  | some op => decide (op.sub = .settling) && timerDue op.settle Config.settleLimit
  | none => false

/-- R129. The operation in progress fails to settle. -/
def settleFailed (s : State) : State :=
  match s.man.op with
  | some op =>
    let s := raise .regulator (some (nodeNum manifoldNode)) s
    becomeIdle (tellEnded .regulator op (clearOp s))
  | none => s

/-- The work timer of an ACTIVE operation has reached `limit`. -/
def workDue (limit : Nat) (op : Operation) : Bool :=
  decide (op.sub = .active) && (match op.work with | some w => timerDue w limit | none => false)

/-- The pulse of a CHARGE has run its length; the bay it charged. -/
def pulseDue (s : State) : Option Bay :=
  match s.man.op with
  | some op => (match op.need with | .charge b => if workDue s.man.pulseLength op then some b else none | _ => none)
  | none => none

/-- R130. A charge pulse ends. -/
def pulseEnded (b : Bay) (s : State) : State := becomeIdle (chargeEnded b true (clearOp (closeOp s)))

/-- A PURGE has run its duration; its tap. -/
def purgeDue (s : State) : Option Tap :=
  match s.man.op with
  | some op => (match op.need with | .purge t d => if workDue d op then some t else none | _ => none)
  | none => none

/-- R134. A PURGE completes. -/
def purgeCompleted (t : Tap) (s : State) : State := becomeIdle (purgeEnded t (purgeCleaned t (returnOp (closeOp s))))

/-! ## The check (R135 to R138) -/

/-- R135. The check window closes: what the check takes, P0, P1 and C. -/
def checkReadings (s : State) : Option (Int × Int × Int) :=
  match s.man.op with
  | some op =>
    if op.need = .check ∧ workDue s.man.checkWindow op then
      match op.p0, slotValue .manifold s, slotValue .cylinder s with
      | some p0, some p1, some c => some (p0, p1, c)
      | _, _, _ => none
    else none
  | none => none

/-- R135 step 4. The check result record. -/
def checkResult (m : Man) (p0 p1 c : Int) : CheckResult :=
  { p0 := p0, p1 := p1, fall := p0 - p1, cylinder := c, leakFound := decide (m.leakLimit < p0 - p1), supplyLow := decide (c < m.lowThreshold) }

/-- R137. The manifold becomes LOCKOUT. -/
def enterLockout (s : State) : State :=
  let s := raise .leak (some (nodeNum manifoldNode)) s
  let s := s.modMan fun m => { m with state := .lockout }
  emptyQueue .lockout (write .man .regulator 0 s)

/-- R135. The check window closes with P0, P1 and C. -/
def checkClosed (p0 p1 c : Int) (s : State) : State :=
  let r := checkResult s.man p0 p1 c
  let wasLow := s.man.supplyLow
  let s := s.modMan fun m => { m with leak := m.leak || r.leakFound, supplyLow := r.supplyLow, result := some r }
  let s := if r.supplyLow && !wasLow then raise .supplyLow (some (nodeNum manifoldNode)) s else s
  let s := clearOp (closeOp s)
  if r.leakFound then enterLockout s else becomeIdle s

/-- R125, R135. The gas entry of a CHECK. -/
def checkEntry (s : State) : GasEntry := { need := .check, pressure := s.man.checkPressure }

/-- R136, R138. A CHECK is raised as a new need. -/
def raiseCheck (s : State) : State := (raiseNeed true (checkEntry s) s).2

/-- R136. The check interval timer counts. -/
def intervalCounts (s : State) : Bool := decide (s.running) && decide (s.man.checkInterval ≠ 0)

/-- R136. The check interval timer has reached the interval. -/
def intervalDue (s : State) : Bool := intervalCounts s && timerDue s.man.intervalTimer (s.man.checkInterval * 3600)

/-- R136. The check interval timer restarts, and a CHECK is raised. -/
def intervalExpired (s : State) : State := raiseCheck (s.modMan fun m => { m with intervalTimer := 0 })

/-! ## Part state and resets (R142, R143) -/

/-- R142. At RUN, with the outputs taken: the supply opens, and the MAN enters DOWN or serves its queue. -/
def manifoldRun (s : State) : State :=
  let s := write .man .supply 1 s
  if sensingComplete s then serveQueue s else enterDown s

/-- R142. At HOLD, an operation in progress ends and the manifold leaves BUSY; the outputs have passed to NONE already (R167). -/
def manifoldHold (s : State) : State :=
  match s.man.op with
  | some op =>
    let s := tellEnded .hold op (returnOp (closeOp s))
    s.modMan fun m => { m with state := if m.leak then .lockout else .idle }
  | none => s

/-- R143. A software reset of the MAN. -/
def manifoldSoftReset (s : State) : State :=
  s.modMan fun m => { m with op := none, queue := [], state := if m.leak then .lockout else .idle, nodeOnline := false }

end Sys2Proof.Machine
end

