-- ==== Sys2Proof/Machine/Kegs.lean ====
section
/-! DEFINITION. The Keg Controller (chapter 4): the vent, coming under and leaving control, halts, debits and what is delivered to a keg. -/

namespace Sys2Proof.Machine

/-! ## The vent (R70 to R73) -/

/-- R70. The vent's commanded value. -/
def Keg.ventCommanded (k : Keg) : Bool := k.relief || k.ventOpen

/-- R70. The KEG writes the vent. -/
def writeVent (b : Bay) (s : State) : State := write .keg (.vent b) (if (s.keg b).ventCommanded then 1 else 0) s

/-- R72. The newest activity bucket rises by 1, saturating at 255. -/
def countOpening (v : Vector Nat 6) : Vector Nat 6 := upd v 5 fun n => min 255 (n + 1)

/-- R72. Spunding of a SCHEDULED keg against its vent limit and its sensed pressure. -/
def Keg.spund (k : Keg) : Keg :=
  match k.ventLimit, k.sensedPressure with
  | none, _ => { k with ventOpen := false }
  | some l, some p =>
    if !k.ventOpen && decide (l < p) then { k with ventOpen := true, buckets := countOpening k.buckets }
    else if k.ventOpen && decide (p ≤ l - 100) then { k with ventOpen := false }
    else k
  | some _, none => k

/-- R73. Serving relief of a SERVING keg against its serve pressure and its sensed pressure. -/
def Keg.serveVent (k : Keg) : Keg :=
  match k.servePressure, k.sensedPressure with
  | some sp, some p =>
    if !k.ventOpen && decide (sp + 300 < p) then { k with ventOpen := true }
    else if k.ventOpen && decide (p ≤ sp + 200) then { k with ventOpen := false }
    else k
  | _, _ => k

/-- R70, R72, R73. The phase's own vent control, under control only. -/
def Keg.ventEval (k : Keg) : Keg :=
  if k.underControl then
    match k.phase with
    | .scheduled => k.spund
    | .serving => k.serveVent
    | _ => k
  else k

/-- R55, R72. The phase vent state is set to CLOSED and evaluated at once, and the vent is written. -/
def ventRestart (b : Bay) (s : State) : State :=
  writeVent b (s.modKeg b fun k => { k with ventOpen := false }.ventEval)

/-- R72, R73. The phase vent state is evaluated, and the vent is written. -/
def ventStep (b : Bay) (s : State) : State := writeVent b (s.modKeg b Keg.ventEval)

/-- R71. Overpressure relief is evaluated against the sensed pressure. -/
def reliefEval (b : Bay) (s : State) : State :=
  let k := s.keg b
  match k.sensedPressure with
  | some p =>
    if k.phase = .vacant then s
    else if !k.relief && decide (k.maxPressure < p) then
      writeVent b (raise .overpressure (some (bayNum b)) (passing [.vent b] (·.modKeg b fun k => { k with relief := true }) s))
    else if k.relief && decide (p ≤ k.maxPressure - 200) then
      writeVent b (passing [.vent b] (·.modKeg b fun k => { k with relief := false }) s)
    else s
  | none => s

/-! ## Control (R55, R56) -/

/-- The phase of a keg that is SCHEDULED or SERVING. -/
def Phase.active : Phase → Option ActivePhase
  | .scheduled => some .scheduled
  | .serving => some .serving
  | _ => none

/-- The phase that a prior phase names. -/
def ActivePhase.phase : ActivePhase → Phase
  | .scheduled => .scheduled
  | .serving => .serving

/-- R55. A keg comes under control: its vent is evaluated, then its thermostat is created; the manual gives no order (log 5). -/
def comeUnderControl (b : Bay) (phase : ActivePhase) (s : State) : State :=
  thermoCreate b phase (ventRestart b (s.modKeg b fun k => { k with underControl := true, counted := false }))

/-- R56 items 1 to 4. A keg leaves control; ownership passes with the change of phase or of part state that causes it.
The CHL is told before the MAN: the manual gives no order, this one is the model's (log 5). -/
def leaveControl (b : Bay) (s : State) : State :=
  if (s.keg b).underControl then
    let s := chargesEnd b (thermoEnd b (s.modKeg b fun k => { k with underControl := false, counted := false }))
    writeVent b (s.modKeg b fun k => { k with ventOpen := false })
  else s

/-- R64. A SCHEDULED or SERVING keg is halted; a keg in any other phase is not (R63).
Its pours end before KEG_HALTED is raised: the manual gives no order, this one is the model's (log 5). -/
def haltKeg (b : Bay) (reason : HaltReason) (s : State) : State :=
  match (s.keg b).phase.active with
  | some ph =>
    let s := s.modKeg b fun k => { k with phase := .halted, prior := some ph, haltReason := some reason }
    raise .kegHalted (some (bayNum b)) (endPoursFrom .halted b (leaveControl b s))
  | none => s

/-- R63, the last two rows: why a keg that enters SCHEDULED or SERVING now is halted at once. -/
def blindReason (b : Bay) (s : State) : Option HaltReason :=
  if (s.node (bayNode b)).state = .lost then some .node
  else if (s.keg b).sensedTemp.isNone || (s.keg b).sensedPressure.isNone then some .sensor
  else none

/-- R55, R63. A keg that has entered SCHEDULED or SERVING is halted if it is blind, and otherwise comes under control in RUNNING (log 15). -/
def enterControl (b : Bay) (s : State) : State :=
  match (s.keg b).phase.active with
  | some ph =>
    match blindReason b s with
    | some r => haltKeg b r s
    | none => if s.running ∧ (s.keg b).underControl = false then comeUnderControl b ph s else s
  | none => s

/-- R3, R174. A keg's phase changes, and its bay outputs pass where their owner changes between the KEG and NONE. -/
def changePhase (b : Bay) (f : Keg → Keg) (s : State) : State := passing (kegOutputs b) (·.modKeg b f) s

/-! ## Volume (R66, R67) -/

/-- R66. A pour debit, down to 0. -/
def debit (b : Bay) (volume : Nat) (s : State) : State := s.modKeg b fun k => { k with remaining := k.remaining - volume }

/-- R67 items 1 to 3. A SERVING keg becomes SPENT; the answer tells whether it did. -/
def becomeSpent (b : Bay) (s : State) : Bool × State :=
  if (s.keg b).phase = .serving then
    (true, raise .kegSpent (some (bayNum b)) (leaveControl b (s.modKeg b fun k => { k with phase := .spent })))
  else (false, s)

/-- The other tap. -/
def otherTap (t : Tap) : Tap := if t = 0 then 1 else 0

/-- R67 item 4, R156. The spent notice names the keg and the tap whose pour caused it: the other tap's pour from that keg ends. -/
def spentNotice (b : Bay) (t : Tap) (s : State) : State :=
  if poursFrom b (otherTap t) s then endPour .spent (otherTap t) s else s

/-! ## Deliveries to a keg (R50, R63, R71 to R74, R92) -/

/-- R74, R92. The pressure at which a keg under control raises its CHARGE. -/
def chargePressure (b : Bay) (s : State) : Option Int :=
  let k := s.keg b
  if k.underControl then
    match k.phase with
    | .serving => k.servePressure
    | .scheduled => (match currentStep b s with | some (.carb _ p _) => some p | _ => none)
    | _ => none
  else none

/-- R74, R92. A CHARGE is raised when the pressure lies below its threshold. -/
def chargeTest (b : Bay) (p : Int) (s : State) : State :=
  match chargePressure b s with
  | some target => if p < target - 100 then raiseCharge b target s else s
  | none => s

/-- R54, R71 to R74, R92. A new value of the KEG_PRESS slot: relief, then the phase's vent, then the CHARGE.
The manual gives no order among them; this one is the model's, and puts the bay node before node 8 on the urgent list (log 32). -/
def pressureValue (b : Bay) (p : Int) (s : State) : State :=
  chargeTest b p (ventStep b (reliefEval b (s.modKeg b fun k => { k with sensedPressure := some p })))

/-- R54, R63. The KEG_PRESS slot was emptied. -/
def pressureEmptied (b : Bay) (s : State) : State :=
  haltKeg b .sensor (s.modKeg b fun k => { k with sensedPressure := none })

/-- R50. A new control temperature is delivered to the KEG, the CHL and the TAP, one after the other:
the manual gives no order (R45), this one is the model's (log 5). -/
def controlValue (b : Bay) (c : ControlTemp) (s : State) : State :=
  let s := thermoTemp b c.value (s.modKeg b fun k => { k with sensedTemp := some c })
  if c.substituted then endPoursFrom .substituted b s else s

/-- R50, R63. Control temperature unavailable is delivered. -/
def controlLost (b : Bay) (s : State) : State :=
  haltKeg b .sensor (s.modKeg b fun k => { k with sensedTemp := none })

end Sys2Proof.Machine
end

