-- ==== Sys2Proof/Machine/Schedules.lean ====
section
/-! DEFINITION. The Schedule Unit (chapter 5): pool, free list and chains, step entry and completion, and the step timers' expiries. -/

namespace Sys2Proof.Machine

/-! ## The pool (R80 to R85) -/

/-- R80. Entries of the pool become free. -/
def freeEntries (l : List PoolIx) (v : Vector (Option PoolEntry) 48) : Vector (Option PoolEntry) 48 :=
  l.foldl (fun v i => upd v i fun _ => none) v

/-- R85. Entries leave a keg's chain and join the tail of the free list in chain order; `rest` is the chain left. -/
def returnEntries (b : Bay) (l rest : List PoolIx) (s : State) : State :=
  (s.modKeg b fun k => { k with chain := rest }).modSch fun x => { pool := freeEntries l x.pool, freeList := x.freeList ++ l }

/-- R85. The head of the chain returns. -/
def returnHead (b : Bay) (s : State) : State :=
  match (s.keg b).chain with
  | [] => s
  | i :: rest => returnEntries b [i] rest s

/-- R85. The whole chain returns, head first. -/
def returnChain (b : Bay) (s : State) : State := returnEntries b (s.keg b).chain [] s

/-- R83. The pool with the steps in the entries allocated for them. -/
def fillEntries (b : Bay) (l : List (PoolIx × Step)) (v : Vector (Option PoolEntry) 48) : Vector (Option PoolEntry) 48 :=
  l.foldl (fun v p => upd v p.1 fun _ => some { bay := b, step := p.2 }) v

/-- R83. The entries that a list of `n` steps takes: from the head of the free list. -/
def allocation (n : Nat) (s : State) : List PoolIx := s.sch.freeList.take n

/-- R83. One entry is allocated for each step, from the head of the free list to the tail of the chain. -/
def allocate (b : Bay) (steps : List Step) (s : State) : State :=
  let taken := allocation steps.length s
  (s.modKeg b fun k => { k with chain := k.chain ++ taken }).modSch fun x =>
    { pool := fillEntries b (taken.zip steps) x.pool, freeList := x.freeList.drop steps.length }

/-! ## Step entry (R86 to R92) -/

/-- R87. The step timers of a keg are cleared. -/
def Keg.clearTimers (k : Keg) : Keg := { k with elapsed := 0, ramp := none, settle := none, chargePending := false }

/-- R89. The setpoint a RAMP starts from. -/
def rampStart (target : Int) (k : Keg) : Int :=
  match k.setpoint, k.sensedTemp with
  | some sp, _ => sp
  | none, some t => t.value
  | none, none => target

/-- R88 to R92. The setpoint a step sets at entry. -/
def entrySetpoint (k : Keg) : Step → Int
  | .hold target _ _ | .quiet target _ _ _ | .carb target _ _ => target
  | .ramp target _ _ => rampStart target k
  | .serve temperature _ => temperature
  | .endStep => k.setpoint.getD 0

/-- R86 item 3. The vent limit a step puts in force. -/
def entryVentLimit : Step → Option Int
  | .hold _ _ v | .ramp _ _ v | .quiet _ _ _ v => v
  | _ => none

/-- R86 item 4. The timers a step uses beside its elapsed time. -/
def Keg.startTimers (k : Keg) : Step → Keg
  | .ramp _ _ _ => { k with ramp := some 0 }
  | .carb _ _ _ => { k with settle := some 0 }
  | _ => k

/-- R86 items 1 to 4. A step that is not terminal is entered. The CHL is told of the setpoint before the vent is evaluated:
the manual gives no order, this one is the model's (log 5). -/
def enterStep (b : Bay) (x : Step) (s : State) : State :=
  let sp := entrySetpoint (s.keg b) x
  let s := s.modKeg b fun k => { k.clearTimers.startTimers x with setpoint := some sp, ventLimit := entryVentLimit x }
  ventRestart b (thermoSetpoint b sp s)

/-- R86 item 5, R89. A RAMP whose setpoint equals its target completes at entry. -/
def completesAtEntry (b : Bay) (x : Step) (s : State) : Bool :=
  match x with
  | .ramp target _ _ => decide ((s.keg b).setpoint = some target)
  | _ => false

/-- R60. A SERVE terminal: the keg becomes SERVING. The CHL is told of the setpoint before the vent is evaluated, in the order of R60's words (log 5). -/
def reachServe (b : Bay) (temperature pressure : Int) (s : State) : State :=
  let s := changePhase b (fun k => { k with
    phase := .serving, serveTemp := some temperature, servePressure := some pressure, setpoint := some temperature, ventLimit := none }) s
  let s := if (s.keg b).underControl then ventRestart b (thermoServe b temperature s) else s
  enterControl b s

/-- R60. An END terminal: the keg leaves control and becomes STANDBY. -/
def reachEnd (b : Bay) (s : State) : State :=
  changePhase b (fun k => { k with phase := .standby, ventLimit := none }) (leaveControl b s)

/-- R94. A terminal step is entered, and ends the schedule. The KEG is told before SCHEDULE_DONE is raised:
the manual gives no order, this one is the model's (log 5). -/
def enterTerminal (b : Bay) (x : Step) (s : State) : State :=
  let s := (returnChain b s).modKeg b Keg.clearTimers
  let s := match x with
    | .serve temperature pressure => reachServe b temperature pressure s
    | _ => reachEnd b s
  raise .scheduleDone (some (bayNum b)) s

/-- R95. The schedule has run out. -/
def runOut (b : Bay) (s : State) : State :=
  let s := s.modKeg b fun k => { k.clearTimers with ventLimit := none }
  raise .scheduleDone (some (bayNum b)) (ventRestart b s)

/-- R86, R93, R94. The head of the chain is entered; steps that complete at entry are passed over. `chain` is the keg's chain. -/
def enterChain (b : Bay) (chain : List PoolIx) (s : State) : State :=
  match chain with
  | [] => runOut b s
  | i :: rest =>
    match s.sch.pool[i] with
    | none => s
    | some e =>
      if isTerminal e.step then enterTerminal b e.step s
      else
        let s := enterStep b e.step s
        if completesAtEntry b e.step s then enterChain b rest (returnHead b s) else s

/-- R86. The SCH enters the step at the head of the keg's chain. -/
def enterHead (b : Bay) (s : State) : State := enterChain b (s.keg b).chain s

/-- R93. The current step completes. -/
def completeStep (b : Bay) (s : State) : State := enterHead b (returnHead b s)

/-! ## Timers (R75, R87) -/

/-- R75, R87. The schedule timers of a keg count: it is under control in SCHEDULED. -/
def timersRun (b : Bay) (s : State) : Bool := (s.keg b).underControl && decide ((s.keg b).phase = .scheduled)

/-- R87. An expiry can be taken: the timers run, and a second has been counted since they last began to run. -/
def expiryOpen (b : Bay) (s : State) : Bool := timersRun b s && (s.keg b).counted

/-- R87, R92. The settle timer counts: the step has one, and no CHARGE is pending. -/
def Keg.settleRuns (k : Keg) : Bool := k.settle.isSome && !k.chargePending

/-- The activity timer of a keg has reached ten minutes. -/
def activityDue (b : Bay) (s : State) : Bool := expiryOpen b s && timerDue (s.keg b).activity Config.activityLimit

/-- The keg's HOLD step has run its duration. -/
def durationDue (b : Bay) (s : State) : Bool :=
  expiryOpen b s && match currentStep b s with
    | some (.hold _ d _) => timerDue (s.keg b).elapsed (d.toNat * 60)
    | _ => false

/-- The keg's RAMP step has run a ramp period; its target and rate. -/
def rampDue (b : Bay) (s : State) : Option (Int × Int) :=
  match currentStep b s, (s.keg b).ramp with
  | some (.ramp target rate _), some c => if expiryOpen b s && timerDue c Config.rampLimit then some (target, rate) else none
  | _, _ => none

/-- The keg's QUIET step has run its maximum. -/
def quietDue (b : Bay) (s : State) : Bool :=
  expiryOpen b s && match currentStep b s with
    | some (.quiet _ _ m _) => timerDue (s.keg b).elapsed (m.toNat * 60)
    | _ => false

/-- The keg's CARB step has held for its settle time. -/
def settleTimeDue (b : Bay) (s : State) : Bool :=
  expiryOpen b s && match currentStep b s, (s.keg b).settle with
    | some (.carb _ _ d), some c => !(s.keg b).chargePending && timerDue c (d.toNat * 60)
    | _, _ => false

/-! ## Expiries -/

/-- R75. The buckets roll: the oldest is dropped and a 0 is added as the newest. -/
def rollBuckets (v : Vector Nat 6) : Vector Nat 6 := #v[v[1], v[2], v[3], v[4], v[5], 0]

/-- R75. The activity total. -/
def activityTotal (v : Vector Nat 6) : Nat := v.toList.sum

/-- R91. A roll with this total completes the keg's QUIET step. -/
def quietened (b : Bay) (total : Nat) (s : State) : Bool :=
  match currentStep b s with
  | some (.quiet _ threshold _ _) => decide (Config.quietMinimum ≤ (s.keg b).elapsed ∧ (total : Int) ≤ threshold)
  | _ => false

/-- R75, R91. The activity timer expires. -/
def activityExpired (b : Bay) (s : State) : State :=
  let s := s.modKeg b fun k => { k with buckets := rollBuckets k.buckets, activity := 0 }
  if quietened b (activityTotal (s.keg b).buckets) s then completeStep b s else s

/-- R90. The setpoint after a ramp period. -/
def rampNext (sp target rate : Int) : Int :=
  if rate < target - sp then sp + rate else if rate < sp - target then sp - rate else target

/-- R90. The ramp timer expires. -/
def rampExpired (b : Bay) (target rate : Int) (s : State) : State :=
  let sp := (s.keg b).setpoint.getD target
  let next := rampNext sp target rate
  let arrived := decide (sp - target ≤ rate ∧ target - sp ≤ rate)
  let s := thermoSetpoint b next (s.modKeg b fun k => { k with setpoint := some next, ramp := some 0 })
  if arrived then completeStep b s else s

/-- R91. A QUIET step reaches its maximum. -/
def quietExpired (b : Bay) (s : State) : State := completeStep b (raise .stepLimit (some (bayNum b)) s)

/-- R97. A software reset clears every charge-pending mark and keeps the rest. -/
def Keg.scheduleReset (k : Keg) : Keg := { k with chargePending := false, counted := false }

end Sys2Proof.Machine
end

