-- ==== Sys2Proof/Machine/Routes.lean ====
section
/-! DEFINITION. The Route Table (chapter 3): slots and their deliveries, control temperatures, publications and reports. -/

namespace Sys2Proof.Machine

/-! ## Control temperatures (R49, R50) -/

/-- R49. The control temperature drawn from one slot. -/
def fromSlot (x : Slot) : ControlTemp := { value := x.value, substituted := decide (x.marks = .subst) }

/-- R49. The control temperature drawn from both slots: their mean, rounded toward zero, substituted when either is. -/
def fromBoth (c w : Slot) : ControlTemp :=
  { value := (c.value + w.value).tdiv 2, substituted := decide (c.marks = .subst) || decide (w.marks = .subst) }

/-- R49. The control temperature of a bay by its keg's sense mode. -/
def senseTemp (mode : SenseMode) (core wall : Option Slot) : Option ControlTemp :=
  match mode, core, wall with
  | .core, some c, _ => some (fromSlot c)
  | .core, none, _ => none
  | .wall, _, some w => some (fromSlot w)
  | .wall, _, none => none
  | .mean, some c, some w => some (fromBoth c w)
  | .mean, some c, none => some (fromSlot c)
  | .mean, none, some w => some (fromSlot w)
  | .mean, none, none => none

/-- R49. The control temperature of bay `b` as its slots stand; a VACANT bay has none. -/
def controlTemp (b : Bay) (s : State) : Option ControlTemp :=
  if (s.keg b).phase = .vacant then none
  else senseTemp (s.keg b).mode s.rte.slots[destIdx (.kegCore b)] s.rte.slots[destIdx (.kegWall b)]

/-- R50. The control temperature of bay `b` is derived afresh and compared with the last delivery.
`draws` tells whether the change at hand is one that an available result draws on. -/
def deliverControl (b : Bay) (draws : Bool) (s : State) : State :=
  if (s.keg b).phase = .vacant then s
  else
    match controlTemp b s with
    | some c =>
      if draws then controlValue b c (s.modRte fun r => { r with lastControl := upd r.lastControl b fun _ => some c }) else s
    | none =>
      if s.rte.lastControl[b].isSome then
        controlLost b (s.modRte fun r => { r with lastControl := upd r.lastControl b fun _ => none })
      else s

/-! ## Slots (R45 to R47) -/

/-- R46, Table 3-1. A new value of a slot is delivered to its consumers.
A LINE(t) value reaches the CHL before the TAP: the manual gives no order (R45), this one is the model's (log 5). -/
def slotStored (d : Dest) (v : Int) (s : State) : State :=
  match d with
  | .kegCore b => deliverControl b (decide ((s.keg b).mode ≠ .wall)) s
  | .kegWall b => deliverControl b (decide ((s.keg b).mode ≠ .core)) s
  | .kegPress b => pressureValue b v s
  | .manifold => manifoldValue v s
  | .cylinder => sensingTest s
  | .line t => tryStart t (lineEval t v s)
  | .glycol => guardEval v s
  | .ambient => s

/-- R47, Table 3-1. The unavailability of a slot that held a value is delivered to its consumers. -/
def slotEmptied (d : Dest) (s : State) : State :=
  match d with
  | .kegCore b => deliverControl b (decide ((s.keg b).mode ≠ .wall)) s
  | .kegWall b => deliverControl b (decide ((s.keg b).mode ≠ .core)) s
  | .kegPress b => pressureEmptied b s
  | .manifold | .cylinder => enterDown s
  | .line t => lineEmptied t s
  | .glycol | .ambient => s

/-- R46. A slot takes a publication's contents. -/
def setSlot (d : Dest) (x : Option Slot) (s : State) : State :=
  s.modRte fun r => { r with slots := upd r.slots (destIdx d) fun _ => x }

/-- R47. A slot is emptied; only a slot that held a value delivers its unavailability. -/
def emptySlot (d : Dest) (s : State) : State :=
  if s.rte.slots[destIdx d].isSome then slotEmptied d (setSlot d none s) else s

/-- R31, R47. The CCU tells that a channel has left LIVE. -/
def leftLive (c : Chan) (s : State) : State :=
  match s.rte.routes[c].dest with
  | some d => emptySlot d s
  | none => s

/-! ## Publications and reports (R46, R51) -/

/-- R51. The report count of a publication: a REPORT frame is handed over when it reaches the divider. -/
def reportCount (c : Chan) (v : Int) (marks : Marks) (s : State) : State :=
  let k := s.rte.routes[c].divider.toNat
  if k = 0 then s
  else
    let n := s.rte.counts[c] + 1
    if n = k then
      handReport (fun tag => { tag := tag, channel := c, dest := s.rte.routes[c].dest, value := v, marks := marks, state := (s.chan c).state })
        (s.modRte fun r => { r with counts := upd r.counts c fun _ => 0 })
    else s.modRte fun r => { r with counts := upd r.counts c fun _ => n }

/-- R46, R51. A publication is stored in its slot and delivered, and then counted. -/
def storePublication (c : Chan) (v : Int) (marks : Marks) (s : State) : State :=
  let s := match s.rte.routes[c].dest with
    | some d => slotStored d v (setSlot d (some { value := v, marks := marks, channel := c }) s)
    | none => s
  reportCount c v marks s

/-! ## The fed test (R48) -/

/-- R48. A destination is fed: a route entry names it and the channel of that entry is enabled. -/
def fed (d : Dest) (s : State) : Bool :=
  allChans.any fun c => decide (s.rte.routes[c].dest = some d) && (s.chan c).record.enabled

/-- R48. The control temperature of bay `b` is routed under a sense mode. -/
def tempRouted (b : Bay) (mode : SenseMode) (s : State) : Bool :=
  match mode with
  | .core => fed (.kegCore b) s
  | .wall => fed (.kegWall b) s
  | .mean => fed (.kegCore b) s || fed (.kegWall b) s

/-- R48. The pressure of bay `b` is routed. -/
def pressRouted (b : Bay) (s : State) : Bool := fed (.kegPress b) s

/-! ## Loading (R43, R44) -/

/-- R43. A lower-numbered entry names the same destination. -/
def duplicates (routes : List Route) (c : Nat) (d : Dest) : Bool := (routes.take c).any fun r => decide (r.dest = some d)

/-- R43. The offence of entry `c` of a table, DUPLICATE before KIND. -/
def offenceAt (routes : List Route) (s : State) (c : Chan) : Option RouteOffence :=
  match (routes[c.val]?).bind (·.dest) with
  | none => none
  | some d =>
    if duplicates routes c.val d then some .duplicate
    else if suits (s.chan c).record.kind (some d) then none else some .kind

/-- R43. The lowest-numbered offending channel, with its offence. -/
def offence (routes : List Route) (s : State) : Option (Chan × RouteOffence) :=
  allChans.findSome? fun c => (offenceAt routes s c).map fun o => (c, o)

/-- R44 item 1. The table that a checked load gives. -/
def routeTable (routes : List Route) : Vector Route 24 := Vector.ofFn fun c : Fin 24 => routes.getD c.val { dest := none, divider := 0 }

/-- R44. A route load takes effect: the entries, every slot emptied with its delivery, the counts, and the run gate.
The slots deliver in the order of Table 3-1: the manual gives no order, this one is the model's (log 5). -/
def loadRoutes (routes : List Route) (s : State) : State :=
  let full := allDests.filter fun d => s.rte.slots[destIdx d].isSome
  let s := s.modRte fun r => { r with routes := routeTable routes, slots := .replicate 24 none }
  let s := forAll full slotEmptied s
  let s := s.modRte fun r => { r with counts := .replicate 24 0 }
  s.modMgp fun m => { m with routeHalf := true, tapHalf := false }

/-- R52. A software reset of the RTE. -/
def routeSoftReset (s : State) : State :=
  s.modRte fun r => { r with slots := .replicate 24 none, counts := .replicate 24 0, lastControl := .replicate 6 none }

end Sys2Proof.Machine
end

