-- ==== Sys2Proof/Machine/Channels.lean ====
section
/-! DEFINITION. The Channel Conditioning Unit (chapter 2): conditioning of readings, publications, and what a node's state does to its channels. -/

namespace Sys2Proof.Machine

/-! ## Conditioning (R22 to R28) -/

/-- R22. Scaling, before clamping: gain in thousandths, rounded toward zero, then the offset. -/
def scaled (r : ChannelRecord) (raw : Nat) : Int := ((raw * r.gain / 1000 : Nat) : Int) + r.offset

/-- R26. The weights of a window's positions. -/
def positionWeights (r : ChannelRecord) : List Nat :=
  match r.filter, r.weights with
  | .weighted, some w => w
  | _, _ => List.replicate r.window 1

/-- R26. The sum of the entries' values, each multiplied by the weight of its position. -/
def weightedSum (weights : List Nat) (window : List WindowEntry) : Int :=
  ((weights.zip window).map fun p => (p.1 : Int) * p.2.value).sum

/-- R26. The filtered value of a full window, rounded toward zero. -/
def filterWindow (r : ChannelRecord) (window : List WindowEntry) : Int :=
  (weightedSum (positionWeights r) window).tdiv ((positionWeights r).sum : Nat)

/-- R20. The window is full. -/
def Channel.full (ch : Channel) : Bool := decide (ch.window.length = ch.record.window)

/-- R20, R26. The filtered value; there is none while the window is not full. -/
def Channel.filtered (ch : Channel) : Option Int := if ch.full then some (filterWindow ch.record ch.window) else none

/-- R23. The spike check applies to a scaled value. -/
def Channel.spikes (ch : Channel) (v : Int) : Bool :=
  decide (ch.record.spike ≠ 0) && (match ch.filtered with | some f => decide (ch.record.spike < (v - f).natAbs) | none => false)

/-- R25. An accepted value joins the window at its tail; the head of a full window leaves. -/
def Channel.accept (ch : Channel) (e : WindowEntry) : Channel :=
  { ch with window := (if ch.full then ch.window.drop 1 else ch.window) ++ [e], rejectRun := 0 }

/-- R24. A reseed: every entry becomes the value. -/
def Channel.reseed (ch : Channel) (e : WindowEntry) : Channel :=
  { ch with window := ch.window.map fun _ => e, rejectRun := 0 }

/-- R27, R28. An accepted value counts toward decimation in a channel that is LIVE or becomes so by it; the answer tells whether to publish. -/
def Channel.count (ch : Channel) : Channel × Bool :=
  if ch.full then
    if ch.record.decimation ≤ ch.decimationCount + 1 then ({ ch with state := .live, decimationCount := 0 }, true)
    else ({ ch with state := .live, decimationCount := ch.decimationCount + 1 }, false)
  else (ch, false)

/-- R21. A channel takes readings in PRIMING and LIVE. -/
def ChannelState.takes : ChannelState → Bool
  | .priming | .live => true
  | .off | .stale => false

/-- R22 to R28. A channel conditions a raw reading; the answer tells whether it publishes. -/
def Channel.condition (raw : Nat) (ch : Channel) : Channel × Bool :=
  let e := entryOf ch.record.kind (scaled ch.record raw)
  if ch.spikes e.value then
    if ch.rejectRun < 2 then ({ ch with rejectRun := ch.rejectRun + 1 }, false) else (ch.reseed e).count
  else (ch.accept e).count

/-! ## Publishing (R28, R36) -/

/-- R28. The marks of a filtered value. -/
def Channel.clampMark (ch : Channel) : Marks := if ch.window.any (·.clamped) then .clamp else .none

/-- R28, R36. The value and marks of a publication made now. -/
def Channel.publication (ch : Channel) : Int × Marks :=
  match ch.subst with
  | .off => (ch.filtered.getD 0, ch.clampMark)
  | .const v => (v, .subst)
  | .alt v1 v2 second => (if second then v2 else v1, .subst)

/-- R36. The substitution after a publication: ALT goes to its other value. -/
def Subst.next : Subst → Subst
  | .alt v1 v2 second => .alt v1 v2 (!second)
  | x => x

/-- R28. A channel publishes to the Route Table. -/
def publish (c : Chan) (s : State) : State :=
  let p := (s.chan c).publication
  storePublication c p.1 p.2 (s.modChan c fun ch => { ch with subst := ch.subst.next })

/-- R21. A reading is conditioned by one channel, which takes it in PRIMING and LIVE. -/
def conditionChan (raw : Nat) (c : Chan) (s : State) : State :=
  s.modChan c fun ch => if ch.state.takes then (ch.condition raw).1 else ch

/-- R21. The channels that take a reading of a node. -/
def readers (n : Node) (s : State) : List Chan :=
  allChans.filter fun c => decide ((s.chan c).record.node = n) && (s.chan c).state.takes

/-- R15, R21. The reading of a reply that a channel is sourced from. -/
def readingFor (r : Reply) (c : Chan) (s : State) : Nat := (r.inputs[(s.chan c).record.input]).toNat

/-- R21, R28. The channels that publish on the readings of a reply. -/
def publishers (n : Node) (r : Reply) (s : State) : List Chan :=
  (readers n s).filter fun c => ((s.chan c).condition (readingFor r c s)).2

/-- R15, R21. The readings of a reply are conditioned by the channels that take them. -/
def conditionReadings (n : Node) (r : Reply) (s : State) : State :=
  forAll (readers n s) (fun c s => conditionChan (readingFor r c s) c s) s

/-- R15, R21. The readings of a reply are conditioned, and the publications reach the Route Table in an order left open (log 6). -/
def takeReadings (n : Node) (r : Reply) (s : State) : State := forAny (publishers n r s) publish (conditionReadings n r s)

/-! ## The source node (R29, R30) -/

/-- R29, R30. A channel's window is emptied with its counts, and its substitution kept. -/
def Channel.restart (st : ChannelState) (ch : Channel) : Channel :=
  { ch with state := st, window := [], rejectRun := 0, decimationCount := 0 }

/-- R29. A channel of a node that has become LOST. -/
def Channel.nodeLost (ch : Channel) : Channel := if ch.state.takes then ch.restart .stale else ch

/-- R30. A channel of a node that has returned from LOST. -/
def Channel.nodeReturned (ch : Channel) : Channel := if ch.state = .off then ch else ch.restart .priming

/-- R29, R30, R31. The LIVE channels of a node, which leave LIVE when its state changes. -/
def liveChannels (n : Node) (s : State) : List Chan :=
  allChans.filter fun c => decide ((s.chan c).record.node = n ∧ (s.chan c).state = .live)

/-- R29, R30. Every channel of a node changes. -/
def moveChannels (n : Node) (f : Channel → Channel) (s : State) : State :=
  forAll allChans (fun c s => if (s.chan c).record.node = n then s.modChan c f else s) s

/-- R14, R29 to R31. A change of a node's state reaches the CCU and, by `role`, the block of the node's role.
The channels change, which no other block sees; the emptyings of the slots of those that left LIVE have no order among them,
and none with the role's notice, which may fall before them, after them or between two of them (log 6).
Each emptying, and the notice, is taken whole: the manual does not say so, this is the model's choice (log 42). -/
def changeChannels (n : Node) (f : Channel → Channel) (role : State → State) (s : State) : State :=
  forAnyWith role (liveChannels n s) leftLive (moveChannels n f s)

/-! ## Host changes (R33 to R35) -/

/-- R33. The channel takes a new record and starts from an empty window. -/
def setRecord (c : Chan) (r : ChannelRecord) (s : State) : State :=
  let wasLive := decide ((s.chan c).state = .live)
  let s := s.modChan c fun ch =>
    { ch.restart (if r.enabled then .priming else .off) with record := r, subst := .off }
  if wasLive then leftLive c s else s

/-- R34. The channel is seeded: its window is filled with the clamped value, it is LIVE, and it publishes at once. -/
def seed (c : Chan) (v : Int) (s : State) : State :=
  publish c (s.modChan c fun ch =>
    { ch with window := List.replicate ch.record.window (entryOf ch.record.kind v), rejectRun := 0, decimationCount := 0, state := .live })

/-- R37. The bay whose pours a substitution on the channel concerns. -/
def substBay (c : Chan) (x : Subst) (s : State) : Option Bay :=
  match x, s.rte.routes[c].dest with
  | .off, _ => none
  | _, some (.kegCore b) => some b
  | _, some (.kegWall b) => some b
  | _, _ => none

/-- R35, R37. The substitution is set; a LIVE channel publishes at once; the TAP is given its notice. The two are taken in either order (log 6). -/
def substitute (c : Chan) (x : Subst) (s : State) : State :=
  let s := s.modChan c fun ch => { ch with subst := x }
  let live := decide ((s.chan c).state = .live)
  match substBay c x s with
  | some b =>
    if live then eitherOrder (endPoursFrom .substituted b) (publish c) s else endPoursFrom .substituted b s
  | none => if live then publish c s else s

/-- R39. A channel at a software reset. -/
def Channel.softReset (ch : Channel) : Channel :=
  { ch.restart (if ch.record.enabled then .priming else .off) with subst := .off }

end Sys2Proof.Machine
end

