-- ==== Sys2Proof/Machine/Pours.lean ====
section
/-! DEFINITION. Pours (chapter 8): requests and acceptance, metering, the panel's hand-over, and the TAP's timers. -/

namespace Sys2Proof.Machine

/-! ## Asking for a pour (R150, R151) -/

/-- Table 8-3, checks 1 to 11: the first that fails. -/
def pourCheck (t : Tap) (s : State) : Option PourReason :=
  let r := s.tapRec t
  if ¬ s.running then some .held
  else match r.set.binding with
    | none => some .unbound
    | some b =>
      if r.set.locked then some .locked
      else if ¬ (r.state = .idle ∨ (r.state = .purging ∧ r.pour = none)) then some .busy
      else servingChecks t b s

/-- R151. The record of a pour from bay `b`. Its stall timer, baseline and carry hold 0 until it becomes POURING:
R151 and Table 8-2 give them no value before that, this one is the model's (log 37). -/
def newPour (source : PourSource) (volume : Nat) (b : Bay) (s : State) : Pour :=
  { number := s.tap.pourNumber, bay := b, source := source, target := min volume (s.keg b).remaining, metered := 0,
    pouring := false, granted := false, wait := 0, stall := 0, baseline := 0, carry := 0 }

/-- R151. The tap record with a new pour: an IDLE tap becomes PENDING, a PURGING one stays so. -/
def TapRecord.withPour (p : Pour) (r : TapRecord) : TapRecord :=
  { r with pour := some p, state := if r.state = .idle then .pending else r.state }

/-- R125, R151. The gas entry of a pour. -/
def pourEntry (t : Tap) (b : Bay) (s : State) : GasEntry :=
  { need := .pour t b, pressure := (s.keg b).servePressure.getD 0 }

/-- The next pour number is taken, wrapping from 65535 to 0. -/
def takePourNumber (s : State) : State := { s with tap := { s.tap with pourNumber := s.tap.pourNumber + 1 } }

/-- What a pour request comes to. -/
inductive PourAnswer
  | refused (r : PourReason)
  | accepted (number : BitVec 16)
  deriving DecidableEq, Repr

/-- R150, R151. A pour request: the checks, and the acceptance with the MAN's answer as check 12. -/
def requestPour (source : PourSource) (volume : Nat) (t : Tap) (s : State) : PourAnswer × State :=
  match pourCheck t s, (s.tapRec t).set.binding with
  | some r, _ => (.refused r, s)
  | none, none => (.refused .unbound, s)
  | none, some b =>
    let p := newPour source volume b s
    match raiseNeed true (pourEntry t b s) (s.modTap t (TapRecord.withPour p)) with
    | (.refused r, _) => (.refused r, s)
    | (_, s') => (.accepted p.number, tryStart t ((takePourNumber s').modKeg b fun k => { k with pours := k.pours + 1 }))

/-- R150. A panel refusal takes a number, makes a POUR_RECORD and starts the blink window. -/
def panelRefusal (r : PourReason) (t : Tap) (s : State) : State :=
  let n := s.tap.pourNumber
  startBlink t (handPourRecord (fun tag =>
    { tag := tag, number := n, tap := t, bay := (s.tapRec t).set.binding, source := .panel, target := 0, metered := 0,
      refused := true, reason := r }) (takePourNumber s))

/-- R149, R150. A pour request from the panel. -/
def panelRequest (volume : Nat) (t : Tap) (s : State) : State :=
  match requestPour .panel volume t s with
  | (.refused r, s) => panelRefusal r t s
  | (.accepted _, s) => s

/-! ## Metering (R153) -/

/-- R153. The volume in whole ml that a flow delta makes, and the carry left. -/
def meteredVolume (carry delta pulsesPerLitre : Nat) : Nat × Nat :=
  ((carry + delta * 1000) / pulsesPerLitre, (carry + delta * 1000) % pulsesPerLitre)

/-- R153. The pour's record once a flow delta is metered. -/
def Pour.meter (delta : Nat) (volume carry : Nat) (p : Pour) : Pour :=
  { p with carry := carry, stall := if 0 < delta then 0 else p.stall, metered := min 65535 (p.metered + volume) }

/-- R153. A flow delta of a POURING pour is metered and debited, and may end the pour EMPTY or DONE.
The answer names the bay of a keg that became SPENT by this debit. -/
def meterPour (t : Tap) (p : Pour) (delta : Nat) (s : State) : Option Bay × State :=
  let (volume, carry) := meteredVolume p.carry delta (s.tapRec t).set.pulsesPerLitre
  let p' := p.meter delta volume carry
  let s := s.modTap t fun r => { r with pour := some p' }
  if volume = 0 then (none, s)
  else
    let s := debit p.bay volume s
    if (s.keg p.bay).remaining = 0 then
      match becomeSpent p.bay (endPour .empty t s) with
      | (true, s) => (some p.bay, s)
      | (false, s) => (none, s)
    else if p.target ≤ p'.metered then (none, endPour .done t s)
    else (none, s)

/-- R149 step 2. One tap's flow count of a hand-over: the delta is metered when the tap's pour is POURING, and lost otherwise.
The first count after an absent one is a baseline (log 25). -/
def meterTap (t : Tap) (flow : BitVec 16) (s : State) : Option Bay × State :=
  let r := s.tapRec t
  let s := s.modTap t fun r => { r with lastFlow := some flow }
  match r.lastFlow, r.pour with
  | some last, some p => if p.pouring then meterPour t p (flow - last).toNat s else (none, s)
  | _, _ => (none, s)

/-- R67, R156. The spent notice that a debit of tap `t` called for. -/
def noticeFor (t : Tap) (spent : Option Bay) (s : State) : State :=
  match spent with
  | some b => spentNotice b t s
  | none => s

/-- R149 step 2. Tap 1 and then tap 2. Where tap 1's debit emptied the keg of tap 2's pour,
tap 2's own debit and the spent notice are taken in either order (R156, log 6). -/
def meterBoth (flow1 flow2 : BitVec 16) (s : State) : State :=
  let (spent1, s) := meterTap 0 flow1 s
  match spent1 with
  | some b =>
    if poursFrom b 1 s then
      let (k, s) := choose 2 s
      if k = 0 then
        let (spent2, s) := meterTap 1 flow2 (spentNotice b 0 s)
        noticeFor 1 spent2 s
      else
        let (spent2, s) := meterTap 1 flow2 s
        noticeFor 1 spent2 (spentNotice b 0 s)
    else
      let (spent2, s) := meterTap 1 flow2 s
      noticeFor 1 spent2 s
  | none =>
    let (spent2, s) := meterTap 1 flow2 s
    noticeFor 1 spent2 s

/-! ## The panel's hand-over (R149) -/

/-- R149 step 3. A press of tap `t`: it cancels a pour, or asks for one. -/
def pressTaken (t : Tap) (choice : Press) (s : State) : State :=
  let r := s.tapRec t
  if r.pour.isSome then endPour .cancelled t s
  else match choice with
    | .stop => s
    | .small => panelRequest r.set.smallVolume t s
    | .large => panelRequest r.set.largeVolume t s

/-- R149 step 3. One tap's press counter of a hand-over; the first count after an absent one is a baseline (log 25). -/
def pressTap (t : Tap) (x : PanelTap) (s : State) : State :=
  let last := (s.tapRec t).lastPresses
  let s := s.modTap t fun r => { r with lastPresses := some x.presses }
  match last with
  | some l => if l = x.presses then s else pressTaken t x.choice s
  | none => s

/-- R149 step 1. The first hand-over since the panel became ONLINE. -/
def panelBaseline (x : Vector PanelTap 2) (s : State) : State :=
  forAll allTaps (fun t s => s.modTap t fun r => { r with lastFlow := some (x[t]).flow, lastPresses := some (x[t]).presses }) s

/-- R149. A hand-over of tap-panel data.
A spent notice that a debit calls for is taken before the presses of the same hand-over: the manual gives no order, this one is the model's (log 34). -/
def panelData (first : Bool) (x : Vector PanelTap 2) (s : State) : State :=
  if first then panelBaseline x s
  else pressTap 1 x[1] (pressTap 0 x[0] (meterBoth x[0].flow x[1].flow s))

/-! ## The TAP's timers (R152, R154, R158 to R160) -/

/-- The tap has a PENDING pour whose wait timer has reached its limit. -/
def waitDue (t : Tap) (s : State) : Bool :=
  match (s.tapRec t).pour with
  | some p => !p.pouring && timerDue p.wait Config.pourWaitLimit
  | none => false

/-- R152. The wait timer expires. -/
def waitExpired (t : Tap) (s : State) : State := endPour (if lineCold t s then .gasBusy else .lineWarm) t s

/-- The tap has a POURING pour whose stall timer has reached the stall time; the bay it pours from. -/
def stallDue (t : Tap) (s : State) : Option Bay :=
  match (s.tapRec t).pour with
  | some p => if p.pouring && timerDue p.stall (s.tapRec t).set.stallTime then some p.bay else none
  | none => none

/-- R67, R154. The KEG takes a stall notice: the closing debit, and a SERVING keg becomes SPENT. -/
def stallNotice (b : Bay) (t : Tap) (s : State) : State :=
  match becomeSpent b (s.modKeg b fun k => { k with remaining := 0 }) with
  | (true, s) => spentNotice b t s
  | (false, s) => s

/-- R154. A pour stalls. -/
def stallExpired (b : Bay) (t : Tap) (s : State) : State := stallNotice b t (endPour .stalled t s)

/-- The purge timer has counted a whole minute. -/
def minuteDue (t : Tap) (s : State) : Bool := purgeCounts t s && timerDue (s.tapRec t).purgeSeconds 60

/-- R158. The tap record after a whole minute. -/
def TapRecord.minute (r : TapRecord) : TapRecord :=
  { r with purgeMinutes := r.purgeMinutes + 1, purgeSeconds := r.purgeSeconds - 60,
           purgeStatus := purgeStatusOf r.set (r.purgeMinutes + 1) }

/-- R158. The purge status of tap `t`, `old` before this event, has become OVERDUE: the flag is raised. -/
def overdueRaise (old : PurgeStatus) (t : Tap) (s : State) : State :=
  if old ≠ .overdue ∧ (s.tapRec t).purgeStatus = .overdue then raise .purgeOverdue (some (tapNum t)) s else s

/-- R158, R159. A whole minute of the purge timer. -/
def minuteExpired (t : Tap) (s : State) : State :=
  let old := (s.tapRec t).purgeStatus
  evalPurge true t (overdueRaise old t (s.modTap t TapRecord.minute))

/-- The purge retry timer has reached its limit. -/
def retryDue (t : Tap) (s : State) : Bool :=
  match (s.tapRec t).purgeRetry with
  | some c => timerDue c Config.purgeRetryLimit
  | none => false

/-- R159. The purge retry timer expires and restarts. -/
def retryExpired (t : Tap) (s : State) : State := evalPurge true t (s.modTap t fun r => { r with purgeRetry := some 0 })

/-- The blink window has reached its limit. -/
def blinkDue (t : Tap) (s : State) : Bool :=
  match (s.tapRec t).blink with
  | some c => timerDue c Config.blinkLimit
  | none => false

/-- R160. The blink window stops. -/
def blinkEnded (t : Tap) (s : State) : State := s.modTap t fun r => { r with blink := none }

end Sys2Proof.Machine
end

