-- ==== Sys2Proof/Machine/Exchange.lean ====
section
/-! DEFINITION. The Bay Link Controller's exchanges (chapter 1): rounds, choice, attempts, outcomes, what is handed on, and the end of an event. -/

namespace Sys2Proof.Machine

/-! ## Rounds and choice (R6, R7) -/

/-- R7. A round begins: every node is due and the round timer starts. -/
def beginRound (s : State) : State :=
  s.modBlc fun x => { x with
    nodes := x.nodes.map fun n => { n with due := true }, roundOpen := true, roundTimer := true, overrun := false }

/-- R6. The line is idle. -/
def lineIdle (s : State) : Bool := decide (s.blc.exchange = none ∧ s.blc.discard = .none)

/-- R7. Some node is due. -/
def anyDue (s : State) : Bool := allNodes.any fun n => (s.node n).due

/-- R6. The node of the next exchange: the head of the urgent list, otherwise the lowest-numbered due node. -/
def nextNode (s : State) : Option Node := s.blc.urgent.head? <|> allNodes.find? fun n => (s.node n).due

/-- R8. An attempt starts: the driver is enabled and the EXCHANGE frame is transmitted. -/
def startAttempt (x : Exchange) (s : State) : State :=
  s.modBlc fun blc => { blc with
    exchange := some { x with phase := .sending }, driver := true, txFrame := exchangeChars x.node x.imageSent }

/-- R8. An exchange with node `n` begins. -/
def beginExchange (n : Node) (s : State) : State :=
  let x : Exchange := { node := n, imageSent := imageOf n s, busyCount := 0, phase := .sending }
  startAttempt x ((s.modBlc fun blc => { blc with urgent := blc.urgent.filter fun m => decide (m ≠ n) }).modNode n
    fun r => { r with due := false })

/-- R6. The choice of the next exchange, when the line is idle. -/
def kick (s : State) : State :=
  if lineIdle s then
    match nextNode s with
    | some n => beginExchange n s
    | none => s
  else s

/-! ## The end of an event (log 4) -/

/-- What an event leaves to its end: the purge retry timers (R159), the pump (R103), the cues (R160) and the choice of the next exchange (R6). -/
def finish (s : State) : State := kick (cueWrite 1 (cueWrite 0 (pumpWrite (retrySync 1 (retrySync 0 s)))))

/-- An event: nothing while a hardware reset lasts (R18) or when the event cannot occur as things stand (log 1), otherwise its effect and the end of the event. -/
def live (occurs : Bool) (f : State → State) (s : State) : State := if !s.inReset && occurs then finish (f s) else s

/-- An event that touches no output and no node: likewise, without the end of the event. -/
def quiet (occurs : Bool) (f : State → State) (s : State) : State := if !s.inReset && occurs then f s else s

/-! ## The end of an exchange (R7, R11, R13) -/

/-- R7. With the exchange that cleared the last due field complete, the round ends; an overrun round is followed by the next at once. -/
def endRound (s : State) : State :=
  if s.blc.roundOpen && !anyDue s then
    if s.blc.roundTimer then s.modBlc fun x => { x with roundOpen := false } else beginRound s
  else s

/-- R11, R13. The exchange record becomes absent. -/
def endExchange (s : State) : State := endRound (s.modBlc fun x => { x with exchange := none })

/-! ## Node states (R13, R14) -/

/-- R14. The block that serves a node's role takes the node's loss. -/
def roleLost (n : Node) (s : State) : State :=
  match bayOfNode n with
  | some b => haltKeg b .node s
  | none =>
    if n = chillerNode then chillerLost s
    else if n = manifoldNode then manifoldLost s
    else endAllPours .sensor s

/-- R14. The block that serves a node's role takes the node's becoming ONLINE; `fromLost` tells from which state. -/
def roleOnline (n : Node) (fromLost : Bool) (s : State) : State :=
  if n = chillerNode then (if fromLost then chillerReturned s else s)
  else if n = manifoldNode then manifoldOnline s
  else s

/-- R14, R29. A node's loss is delivered to the CCU and to the role block, with no order between them:
the role's notice may fall between the emptyings of two slots that the node's channels fed (log 6, log 42). -/
def deliverLost (n : Node) (s : State) : State := changeChannels n Channel.nodeLost (roleLost n) s

/-- R14, R30. A node's becoming ONLINE is delivered, from LOST likewise with no order between the CCU's work and the role's notice (log 6, log 42);
from UNSEEN the CCU changes nothing. -/
def deliverOnline (n : Node) (fromLost : Bool) (s : State) : State :=
  if fromLost then changeChannels n Channel.nodeReturned (roleOnline n true) s else roleOnline n false s

/-- R13. The exchange with node `n` fails. -/
def exchangeFailed (n : Node) (s : State) : State :=
  let old := s.node n
  let count := min 3 (old.failures + 1)
  let s := s.modNode n fun r => { r with failures := count }
  let s :=
    if count = 3 ∧ old.state ≠ .lost then
      deliverLost n (raise .nodeLost (some (nodeNum n)) (s.modNode n fun r => { r with state := .lost }))
    else s
  endExchange s

/-! ## Successes (R11, R15) -/

/-- R15, R21. The readings go to the CCU, and the panel data to the TAP, with no order between them:
the panel data, one event to the TAP (R149), may be taken before, after or between the publications that the readings cause (log 6).
Each publication is taken whole, with its deliveries and its REPORT: the manual does not say so, this is the model's choice (log 42). -/
def handOver (n : Node) (r : Reply) (first : Bool) (s : State) : State :=
  match r.panel with
  | some x => forAnyWith (panelData first x) (publishers n r s) publish (conditionReadings n r s)
  | none => takeReadings n r s

/-- R11. A valid READY reply from node `n`. -/
def exchangeSucceeded (n : Node) (r : Reply) (s : State) : State :=
  let old := (s.node n).state
  let s := s.modNode n fun x => { x with lastReply := some r, failures := 0, state := .online }
  let s := if old = .online then s else deliverOnline n (decide (old = .lost)) s
  endExchange (handOver n r (decide (old ≠ .online)) s)

/-- R12. A valid BUSY reply in exchange `x`. -/
def exchangeBusy (x : Exchange) (s : State) : State :=
  if x.busyCount < 3 then
    s.modBlc fun blc => { blc with exchange := some { x with busyCount := x.busyCount + 1, phase := .retryWait } }
  else exchangeFailed x.node s

/-- R17. A software reset of the BLC. -/
def blcSoftReset (s : State) : State :=
  let discard := match s.blc.exchange with
    | none => s.blc.discard
    | some x => match x.phase with
      | .sending => .finishing
      | .awaiting => .running
      | .retryWait => .none
  s.modBlc fun x => { x with
    nodes := .replicate 9 NodeRecord.reset, outs := .replicate 35 0, urgent := allNodes, exchange := none,
    roundOpen := true, roundTimer := true, overrun := false, discard := discard }

end Sys2Proof.Machine
end

