-- ==== Sys2Proof/Machine/Requests.lean ====
section
/-! DEFINITION. How the MGP takes a request and answers it (R170 to R172): the frame at the head, the order of refusals, the RESPONSE. -/

namespace Sys2Proof.Machine

/-- The status of a RESPONSE and the result items after its part state. -/
structure Answer where
  status : Status
  result : Result
  deriving DecidableEq, Repr

/-- A refusal with no result items; a refused request changes no state (R171). -/
def refuse (st : Status) (s : State) : Answer × State := ({ status := st, result := .nothing }, s)

/-- A refusal with the items that its rule names. -/
def refuseWith (st : Status) (r : Result) (s : State) : Answer × State := ({ status := st, result := r }, s)

/-- OK with no result items. -/
def okay (s : State) : Answer × State := ({ status := .ok, result := .nothing }, s)

/-- OK with the results that the owner's rule names. -/
def okayWith (r : Result) (s : State) : Answer × State := ({ status := .ok, result := r }, s)

/-- R170. The frame stands at the head of the receiver queue, and no RESPONSE waits untransmitted. -/
def mayTake (tag : Byte) (r : Request) (s : State) : Bool :=
  decide (s.mgp.receiver.head? = some { tag := tag, request := r }) && !responseWaits s

/-- R170. The RESPONSE, with the part state as it stands once the request has been carried out. -/
def formResponse (tag : Byte) (r : Request) (a : Answer) (s : State) : Response :=
  { tag := tag, code := requestCode r, status := a.status, part := s.mgp.part, result := a.result }

/-- R170. The RESPONSE joins the upward queue, and the request's frame leaves the receiver queue. -/
def respond (tag : Byte) (r : Request) (a : Answer) (s : State) : State :=
  joinUp (.response (formResponse tag r a s)) (s.modMgp fun m => { m with receiver := m.receiver.tail })

/-- R170. A request is taken, carried out by `handler` and answered.
A request that is carried out is an event with its end `close`; one that is refused is not. -/
def serve (close : State → State) (tag : Byte) (r : Request) (handler : State → Answer × State) (s : State) : State :=
  if !s.inReset && mayTake tag r s then
    let (a, s) := handler s
    respond tag r a (if a.status = .ok then close s else s)
  else s

/-- R171 item 2. A payload of the wrong length is refused before anything else is looked at. -/
def withParams {α : Type} (p : Payload α) (handler : α → State → Answer × State) (s : State) : Answer × State :=
  match p with
  | .params x => handler x s
  | .wrongLength => refuse .badLength s

/-- R171 item 3. A number that lies outside its numbering is refused before availability. -/
def withNumber {α : Type} (n : Option α) (handler : α → State → Answer × State) (s : State) : Answer × State :=
  match n with
  | some x => handler x s
  | none => refuse .badValue s

/-- One of the checks of R171 in its turn: where `ok` fails the request is refused with `st`, otherwise the checks go on. -/
def require (ok : Bool) (st : Status) (next : State → Answer × State) (s : State) : Answer × State :=
  if ok then next s else refuse st s

/-- A request that may write outputs. -/
def serveLive (tag : Byte) (r : Request) (handler : State → Answer × State) (s : State) : State := serve finish tag r handler s

/-- A request that writes no output. -/
def serveQuiet (tag : Byte) (r : Request) (handler : State → Answer × State) (s : State) : State := serve id tag r handler s

end Sys2Proof.Machine
end

