-- ==== Sys2Proof/Machine/BayLink.lean ====
section
/-! DEFINITION. The meanings of the resets, the Bay Link's events, NODE_WRITE and NODE_READ (chapter 1). -/

namespace Sys2Proof.Machine

/-- The outcome of every meaning of this part. -/
abbrev Next := Host.Outcome State Fault Refusal

/-- R18 and each chapter's reset rule. A hardware reset begins; the commands that wait and the model's own choices are kept. -/
def execHardwareReset (s : State) : Next := .next { State.reset with pending := s.pending, free := s.free }

/-- R18. The hardware reset ends: the first round begins, with the exchange with node 1. -/
def execHardwareResetEnd (s : State) : Next :=
  .next (if s.inReset then finish (beginRound { s with inReset := false }) else s)

/-- R7. The round timer runs. -/
def roundTimerRuns (s : State) : Bool := s.blc.roundTimer

/-- R7. The round timer expires: the next round begins if the round has ended, and otherwise the round is overrun. -/
def roundExpired (s : State) : State :=
  if s.blc.roundOpen then s.modBlc fun x => { x with roundTimer := false, overrun := true } else beginRound s

/-- ROUND_TIMER_EXPIRY (R7). -/
def execRoundTimerExpiry (s : State) : Next := .next (live (roundTimerRuns s) roundExpired s)

/-- The exchange in progress stands in a given phase. -/
def inPhase (ph : ExchangePhase) (s : State) : Bool :=
  match s.blc.exchange with
  | some x => decide (x.phase = ph)
  | none => false

/-- An EXCHANGE frame is on the line: of the exchange in progress, or of one that a software reset abandoned (R17). -/
def frameOnLine (s : State) : Bool := inPhase .sending s || decide (s.blc.discard = .finishing)

/-- R8, R17. The last character has left the line. -/
def frameSent (s : State) : State :=
  s.modBlc fun blc => { blc with
    driver := false
    exchange := blc.exchange.map fun x => { x with phase := .awaiting }
    discard := if blc.discard = .finishing then .running else blc.discard }

/-- EXCHANGE_FRAME_SENT (R8). -/
def execExchangeFrameSent (s : State) : Next := .next (quiet (frameOnLine s) frameSent s)

/-- R9. The verdict on characters received in phase AWAITING, with the exchange they answer. -/
def verdictOn (chars : List Char9) (s : State) : Option (Exchange × ReplyVerdict) :=
  match s.blc.exchange with
  | some x => if x.phase = .awaiting then some (x, judgeReply x.node chars) else none
  | none => none

/-- READY_REPLY (R11). -/
def execReadyReply (chars : List Char9) (s : State) : Next :=
  match verdictOn chars s with
  | some (x, .ready r) => .next (live true (exchangeSucceeded x.node r) s)
  | _ => .next s

/-- BUSY_REPLY (R12). -/
def execBusyReply (chars : List Char9) (s : State) : Next :=
  match verdictOn chars s with
  | some (x, .busy) => .next (live true (exchangeBusy x) s)
  | _ => .next s

/-- BAD_REPLY (R9, R13). -/
def execBadReply (chars : List Char9) (s : State) : Next :=
  match verdictOn chars s with
  | some (x, .bad) => .next (live true (exchangeFailed x.node) s)
  | _ => .next s

/-- REPLY_TIMEOUT (R9, R13). -/
def execReplyTimeout (s : State) : Next :=
  match s.blc.exchange with
  | some x => .next (live (decide (x.phase = .awaiting)) (exchangeFailed x.node) s)
  | none => .next s

/-- RETRY_TIMER_EXPIRY (R12): the next attempt sends the image sent again. -/
def execRetryTimerExpiry (s : State) : Next :=
  match s.blc.exchange with
  | some x => .next (quiet (decide (x.phase = .retryWait)) (startAttempt x) s)
  | none => .next s

/-- DISCARD_INTERVAL_END (R17). -/
def execDiscardIntervalEnd (s : State) : Next :=
  .next (live (decide (s.blc.discard = .running)) (fun s => s.modBlc fun x => { x with discard := .none }) s)

/-- STRAY_BAY_CHARACTER (R9): a character outside the reply window is discarded without effect. -/
def execStrayBayCharacter (_c : Char9) (s : State) : Next := .next s

/-! ## Pass-through requests (R4) -/

/-- R4. NODE_WRITE. -/
def nodeWriteRequest (p : NodeWriteParams) (s : State) : Answer × State :=
  withNumber (nodeOf p.node) (fun n =>
    withNumber (resolveOutput n p.output) fun o =>
      withNumber (outValue o p.value) fun v =>
        fun s => require (owner o s).isNone .owned (fun s => okay (commandOut o v s)) s) s

/-- NODE_WRITE (R4). -/
def execNodeWrite (tag : Byte) (p : Payload NodeWriteParams) (s : State) : Next :=
  .next (serveLive tag (.nodeWrite p) (withParams p nodeWriteRequest) s)

/-- R4. What NODE_READ supplies. -/
def nodeResult (n : Node) (s : State) : NodeResult :=
  { state := (s.node n).state, failures := (s.node n).failures, image := imageOf n s, lastReply := (s.node n).lastReply }

/-- NODE_READ (R4). -/
def execNodeRead (tag : Byte) (p : Payload NodeParams) (s : State) : Next :=
  .next (serveQuiet tag (.nodeRead p) (withParams p fun p =>
    withNumber (nodeOf p.node) fun n s => okayWith (.node (nodeResult n s)) s) s)

end Sys2Proof.Machine
end

