-- ==== Sys2Proof/Machine/ApplianceLink.lean ====
section
/-! DEFINITION. The meanings of the Appliance Link's events, UNKNOWN_REQUEST and Q_IDENT (chapter 10). -/

namespace Sys2Proof.Machine

/-- R169. The bytes of the frame at hand: those held as a partial frame, and those that come now. -/
def frameBytes (bytes : List Byte) (s : State) : List Byte := s.mgp.partialFrame ++ bytes

/-- R169. The partial frame is given up. -/
def dropPartial (s : State) : State := s.modMgp fun m => { m with partialFrame := [] }

/-- R169. A good frame joins the receiver queue, or is discarded when 4 frames are held. -/
def receiveFrame (f : RequestFrame) (s : State) : State :=
  let s := dropPartial s
  if s.mgp.receiver.length < Config.receiverLimit then s.modMgp fun m => { m with receiver := m.receiver ++ [f] }
  else raiseLinkError s

/-- APPLIANCE_FRAME_RECEIVED (R169): the bytes complete a good frame that spells `r`; bytes of an unfinished frame are held. -/
def execApplianceFrameReceived (bytes : List Byte) (r : Request) (s : State) : Next :=
  match judgeFrame (frameBytes bytes s) with
  | .good tag code => .next (quiet (spells (frameBytes bytes s) code r) (receiveFrame { tag := tag, request := r }) s)
  | .unfinished => .next (quiet true (fun s => s.modMgp fun m => { m with partialFrame := frameBytes bytes s }) s)
  | .bad | .noFrame => .next s

/-- R169. What the receiver has made of bytes taken one by one: those of the frame it holds unfinished, and what it has found complete on the way. -/
structure Scan where
  held : List Byte
  bad : Bool
  good : Bool
  deriving DecidableEq, Repr

/-- R169. One byte is taken: it goes on the frame at hand, or begins one, or is discarded between frames.
After a frame is judged the receiver looks for a start byte again. -/
def Scan.take (x : Scan) (b : Byte) : Scan :=
  let f := x.held ++ [b]
  match judgeFrame f with
  | .noFrame => { x with held := [] }
  | .unfinished => { x with held := f }
  | .bad => { x with held := [], bad := true }
  | .good _ _ => { x with held := [], good := true }

/-- R169. The bytes are taken in order, behind those held. -/
def scanBytes (bytes : List Byte) (s : State) : Scan := bytes.foldl Scan.take { held := s.mgp.partialFrame, bad := false, good := false }

/-- R169. The bytes hold a bad frame and no good one, or a framing error makes the frame at hand, begun or just complete, a bad one,
which is given up as soon as the error is there (the model's choice, log 35). -/
def frameIsBad (bytes : List Byte) (framingError : Bool) (s : State) : Bool :=
  let x := scanBytes bytes s
  (x.bad && !x.good) || framingError && match judgeFrame (frameBytes bytes s) with
    | .unfinished | .good _ _ => true
    | .bad | .noFrame => false

/-- R169. The bytes held once a bad frame is discarded: those of a frame begun behind it.
After a framing error none are held: the manual does not say where the receiver resumes, and the model gives the frame up at once (log 35). -/
def heldAfter (bytes : List Byte) (framingError : Bool) (s : State) : List Byte := if framingError then [] else (scanBytes bytes s).held

/-- R169. A bad frame is discarded, and LINK_ERROR is raised once. -/
def discardFrame (held : List Byte) (s : State) : State := raiseLinkError (s.modMgp fun m => { m with partialFrame := held })

/-- BAD_FRAME (R169): the bytes bring a bad frame to its judgement. -/
def execBadFrame (bytes : List Byte) (framingError : Bool) (s : State) : Next :=
  .next (quiet (frameIsBad bytes framingError s) (discardFrame (heldAfter bytes framingError s)) s)

/-- FRAME_GAP_TIMEOUT (R169): a partial frame is abandoned, and LINK_ERROR is raised. -/
def execFrameGapTimeout (s : State) : Next :=
  .next (quiet (!s.mgp.partialFrame.isEmpty) (discardFrame []) s)

/-- STRAY_LINK_BYTE (R169): a byte between frames that is not the start byte is discarded without effect. -/
def execStrayLinkByte (_x : Byte) (s : State) : Next := .next s

/-- R173. A frame as it is sent: an ATTENTION frame's contents are formed now. -/
def sentFrame (f : UpFrame) (s : State) : SentFrame :=
  match f with
  | .response r => .response r
  | .report r => .report r
  | .attention tag => .attention tag (attentionContents s)
  | .pourRecord r => .pourRecord r

/-- R173, R177. The oldest upward frame leaves the queue as its transmission begins, and its bytes are built. -/
def transmitHead (s : State) : State :=
  match s.mgp.up with
  | [] => s
  | f :: rest => s.modMgp fun m => { m with up := rest, sent := some (sentFrame f s), sentBytes := (sentFrame f s).bytes }

/-- UPWARD_FRAME_TRANSMIT (R173). -/
def execUpwardFrameTransmit (s : State) : Next := .next (quiet (!s.mgp.up.isEmpty) transmitHead s)

/-- UNKNOWN_REQUEST (R171 item 1). -/
def execUnknownRequest (tag : Byte) (code : Option Byte) (s : State) : Next :=
  .next (serveQuiet tag (.unknown code) (refuse .unknownRequest) s)

/-- R175. The fixed answer of Q_IDENT. -/
def identResult : Result := .ident Config.vendorCode Config.partCode Config.revision

/-- Q_IDENT (R175). -/
def execQIdent (tag : Byte) (p : Payload Unit) (s : State) : Next :=
  .next (serveQuiet tag (.qIdent p) (withParams p fun _ s => okayWith identResult s) s)

end Sys2Proof.Machine
end

