-- ==== Sys2Proof/Machine/GasRequests.lean ====
section
/-! DEFINITION. The meanings of the pour, gas and attention requests and of the status queries (R136, R138, R150, R156, R163, R180, R181, R183). -/

namespace Sys2Proof.Machine

/-! ## Pours and taps -/

/-- R150, R151. POUR: the status of a refusal is the pour's refusal reason (R171). -/
def pourRequest (p : PourParams) (s : State) : Answer × State :=
  withNumber (tapOf p.tap) (fun t =>
    require (within 50 1000 p.volume) .badValue fun s =>
      match requestPour .host p.volume.toNat t s with
      | (.refused r, s) => refuse (.pour r) s
      | (.accepted n, s) => okayWith (.pourNumber n) s) s

/-- POUR (R150, R151). -/
def execPour (tag : Byte) (p : Payload PourParams) (s : State) : Next :=
  .next (serveLive tag (.pour p) (withParams p pourRequest) s)

/-- R156. POUR_CANCEL. -/
def pourCancelRequest (p : TapParams) (s : State) : Answer × State :=
  withNumber (tapOf p.tap) (fun t s =>
    match (s.tapRec t).pour with
    | some x => okayWith (.pourNumber x.number) (endPour .cancelled t s)
    | none => refuse .notAvailable s) s

/-- POUR_CANCEL (R156). -/
def execPourCancel (tag : Byte) (p : Payload TapParams) (s : State) : Next :=
  .next (serveLive tag (.pourCancel p) (withParams p pourCancelRequest) s)

/-- R163. The pour of tap `t` with every field of Table 8-2: one in flight is PENDING or POURING and has no end reason yet. -/
def pourShown (t : Tap) (p : Pour) : PourShown :=
  { number := p.number, tap := t, bay := p.bay, source := p.source, target := p.target, metered := p.metered,
    state := if p.pouring then .pouring else .pending, reason := none, granted := p.granted, wait := p.wait, stall := p.stall,
    baseline := p.baseline, carry := p.carry }

/-- R163. What Q_TAP supplies; the cue is OFF when not owned. -/
def tapResult (t : Tap) (s : State) : TapResult :=
  let r := s.tapRec t
  { settings := r.set, state := r.state, locked := r.set.locked, purgeStatus := r.purgeStatus, purgeMinutes := r.purgeMinutes,
    purgeRequest := r.purgeRequest, cue := if (owner (.cue t) s).isSome then s.out (.cue t) else 0,
    lastFlow := r.lastFlow, lastPresses := r.lastPresses, pour := r.pour.map (pourShown t) }

/-- Q_TAP (R163). -/
def execQTap (tag : Byte) (p : Payload TapParams) (s : State) : Next :=
  .next (serveQuiet tag (.qTap p) (withParams p fun p =>
    withNumber (tapOf p.tap) fun t s => okayWith (.tap (tapResult t s)) s) s)

/-! ## Gas -/

/-- R136. GAS_CHECK. -/
def gasCheckRequest (s : State) : Answer × State :=
  if s.man.state = .lockout then refuse .lockedOut s
  else if s.man.state = .down then refuse .busy s
  else match raiseNeed true (checkEntry s) s with
    | (.unqueued, _) => refuse .busy s
    | (_, s) => okay s

/-- GAS_CHECK (R136). -/
def execGasCheck (tag : Byte) (p : Payload Unit) (s : State) : Next :=
  .next (serveLive tag (.gasCheck p) (withParams p fun _ => gasCheckRequest) s)

/-- R138. LOCKOUT is left: the latch is cleared, the manifold becomes IDLE, and a CHECK is raised. -/
def unlockGas (s : State) : State := raiseCheck (becomeIdle (s.modMan fun m => { m with leak := false }))

/-- R138. GAS_UNLOCK. -/
def gasUnlockRequest (s : State) : Answer × State :=
  if s.man.state = .lockout then okay (unlockGas s)
  else if s.man.state = .down ∧ s.man.leak then refuse .busy s
  else okay s

/-- GAS_UNLOCK (R138). -/
def execGasUnlock (tag : Byte) (p : Payload Unit) (s : State) : Next :=
  .next (serveLive tag (.gasUnlock p) (withParams p fun _ => gasUnlockRequest) s)

/-! ## Masks and acknowledgement -/

/-- R180. The masks are replaced. -/
def setMasks (l : List Bool) (s : State) : State :=
  let unmasks := allFlags.any fun i => s.atn[i].pending && s.atn[i].masked && !(l.getD i.val true)
  let s := s.modAtn fun v => Vector.ofFn fun i : Fin 12 => { v[i] with masked := l.getD i.val true }
  if unmasks then handAttention s else s

/-- R180, R183. The twelve masks in rank order (log 41). -/
def maskList (s : State) : List Bool := allFlags.map fun i => s.atn[i].masked

/-- R180. ATTN_MASK. -/
def attnMaskRequest (l : List (Option Bool)) (s : State) : Answer × State :=
  require (decide (l.length = 12)) .badLength
    (withNumber (l.mapM id) fun l s => okayWith (.masks l) (setMasks l s)) s

/-- ATTN_MASK (R180). -/
def execAttnMask (tag : Byte) (p : Payload (List (Option Bool))) (s : State) : Next :=
  .next (serveQuiet tag (.attnMask p) (withParams p attnMaskRequest) s)

/-- R181. The named flags become clear; an ATTENTION frame is handed over if an unmasked flag is still pending. -/
def acknowledge (codes : List Nat) (s : State) : State :=
  let s := s.modAtn fun v => Vector.ofFn fun i : Fin 12 => if flagCode i ∈ codes then (v[i]).cleared else v[i]
  if allFlags.any fun i => s.atn[i].wants then handAttention s else s

/-- R181. The codes of the flags pending; the manual gives them no order, and the model takes rank order (log 36). -/
def pendingCodes (s : State) : List Nat := (allFlags.filter fun i => s.atn[i].pending).map flagCode

/-- R181. ATTN_ACK. -/
def attnAckRequest (codes : List Nat) (s : State) : Answer × State :=
  require (decide (1 ≤ codes.length ∧ codes.length ≤ 12 ∧ ∀ c ∈ codes, 1 ≤ c ∧ c ≤ 12)) .badValue (fun s =>
    let s' := acknowledge codes s
    okayWith (.pendingCodes (pendingCodes s')) s') s

/-- ATTN_ACK (R181). -/
def execAttnAck (tag : Byte) (p : Payload (List Nat)) (s : State) : Next :=
  .next (serveQuiet tag (.attnAck p) (withParams p attnAckRequest) s)

/-! ## Status queries -/

/-- R125. The kind of a need. -/
def GasNeed.kind : GasNeed → NeedKind
  | .charge _ => .charge
  | .pour _ _ => .pour
  | .purge _ _ => .purge
  | .check => .check

/-- Table 7-2. The beneficiary of an operation; of a POUR, the tap of the pour it was started for. -/
def GasNeed.beneficiary : GasNeed → GasParty
  | .charge b => .bay b
  | .pour t _ => .tap t
  | .purge t _ => .tap t
  | .check => .part

/-- R125. The requester of an entry; of a POUR, a tap with the bay of the pour's keg. -/
def GasNeed.requester : GasNeed → GasParty
  | .charge b => .bay b
  | .pour t b => .tapAndBay t b
  | .purge t _ => .tap t
  | .check => .part

/-- R141, R183 item 3. The operation record as Q_STATUS shows it.
The pours of the pour set are listed in the order in which they came into it: R141, R183 and Table 7-2 call it a set and give no order, this one is the model's (log 40). -/
def operationShown (op : Operation) : OperationShown :=
  { kind := op.need.kind, beneficiary := op.need.beneficiary, pressure := op.pressure, sub := op.sub, pours := op.pours }

/-- R141. A queue entry as Q_QUEUES shows it. -/
def entryShown (e : GasEntry) : GasEntryShown := { kind := e.need.kind, requester := e.need.requester, pressure := e.pressure }

/-- R183. What Q_STATUS supplies. -/
def statusResult (s : State) : StatusResult :=
  { routeHalf := s.mgp.routeHalf, tapHalf := s.mgp.tapHalf,
    nodes := allNodes.map fun n => ((s.node n).state, (s.node n).failures),
    manifold := s.man.state, operation := s.man.op.map operationShown, leak := s.man.leak, supplyLow := s.man.supplyLow,
    check := s.man.result, limit := s.chl.limit, guardState := s.chl.guardState, holders := holding s,
    taps := allTaps.map fun t => ((s.tapRec t).state, (s.tapRec t).purgeStatus),
    flags := shownFlags s, masks := maskList s }

/-- Q_STATUS (R183). -/
def execQStatus (tag : Byte) (p : Payload Unit) (s : State) : Next :=
  .next (serveQuiet tag (.qStatus p) (withParams p fun _ s => okayWith (.status (statusResult s)) s) s)

/-- R183. What Q_QUEUES supplies. -/
def queuesResult (s : State) : QueuesResult :=
  { waitQueue := s.chl.queue, gasQueue := s.man.queue.map entryShown, freeLength := s.sch.freeList.length }

/-- Q_QUEUES (R183). -/
def execQQueues (tag : Byte) (p : Payload Unit) (s : State) : Next :=
  .next (serveQuiet tag (.qQueues p) (withParams p fun _ s => okayWith (.queues (queuesResult s)) s) s)

end Sys2Proof.Machine
end

