-- ==== Sys2Proof/Machine/KegRequests.lean ====
section
/-! DEFINITION. The meanings of the keg requests (R57 to R69, R76, R83, R84). -/

namespace Sys2Proof.Machine

/-- R171 item 3. A request that names a bay. -/
def withBay (n : Nat) (handler : Bay → State → Answer × State) (s : State) : Answer × State := withNumber (bayOf n) handler s

/-! ## Loading and serving -/

/-- R57, Table 4-1 column "After KEG_LOAD". -/
def Keg.loadedWith (volume : Nat) (mode : SenseMode) (pressure : Option Int) : Keg :=
  { Keg.reset with phase := .standby, loaded := volume, remaining := volume, mode := mode, sensedPressure := pressure }

/-- R57. The keg becomes STANDBY, and the RTE makes its first derivation. -/
def loadKeg (b : Bay) (volume : Nat) (mode : SenseMode) (s : State) : State :=
  deliverControl b true (changePhase b (fun _ => Keg.loadedWith volume mode (slotValue (.kegPress b) s)) s)

/-- R57. KEG_LOAD. -/
def kegLoadRequest (p : KegLoadParams) (s : State) : Answer × State :=
  withBay p.bay (fun b s =>
    require (decide ((s.keg b).phase = .vacant)) .notAvailable
      (require (within 0 20000 p.volume) .badValue
        (withNumber p.mode fun mode s => okay (loadKeg b p.volume.toNat mode s))) s) s

/-- KEG_LOAD (R57). -/
def execKegLoad (tag : Byte) (p : Payload KegLoadParams) (s : State) : Next :=
  .next (serveLive tag (.kegLoad p) (withParams p kegLoadRequest) s)

/-- R48. The keg's control temperature under its sense mode, and its pressure, are routed. -/
def kegRouted (b : Bay) (s : State) : Bool := tempRouted b (s.keg b).mode s && pressRouted b s

/-- R59. The keg becomes SERVING. -/
def serveKeg (b : Bay) (temperature pressure : Int) (s : State) : State :=
  enterControl b (changePhase b (fun k => { k with
    serveTemp := some temperature, servePressure := some pressure, setpoint := some temperature, ventLimit := none, phase := .serving }) s)

/-- R59. KEG_SERVE. -/
def kegServeRequest (p : KegServeParams) (s : State) : Answer × State :=
  withBay p.bay (fun b s =>
    require (decide (((s.keg b).phase = .standby ∨ (s.keg b).phase = .spent) ∧ 0 < (s.keg b).remaining)) .notAvailable
      (require (within (-200) 2500 p.temperature && within 300 2500 p.pressure) .badValue
        (require (kegRouted b s) .badRoute fun s => okay (serveKeg b p.temperature p.pressure s))) s) s

/-- KEG_SERVE (R59). -/
def execKegServe (tag : Byte) (p : Payload KegServeParams) (s : State) : Next :=
  .next (serveLive tag (.kegServe p) (withParams p kegServeRequest) s)

/-! ## Schedules -/

/-- R58. The keg becomes SCHEDULED, its first step is entered, and it comes under control. -/
def scheduleKeg (b : Bay) (steps : List Step) (s : State) : State :=
  let s := changePhase b (fun k => { k with phase := .scheduled, buckets := .replicate 6 0, activity := 0 }) (allocate b steps s)
  enterControl b (enterHead b s)

/-- R58, R83. KEG_SCHEDULE. -/
def kegScheduleRequest (p : KegStepsParams) (s : State) : Answer × State :=
  withBay p.bay (fun b s =>
    require (decide ((s.keg b).phase = .standby)) .notAvailable
      (withNumber (checkSteps (s.keg b).maxPressure p.steps) fun steps =>
        require (decide (steps.length ≤ s.sch.freeList.length)) .noRoom
          (require (kegRouted b s) .badRoute fun s =>
            okayWith (.indices (allocation steps.length s)) (scheduleKeg b steps s))) s) s

/-- KEG_SCHEDULE (R58, R83). -/
def execKegSchedule (tag : Byte) (p : Payload KegStepsParams) (s : State) : Next :=
  .next (serveLive tag (.kegSchedule p) (withParams p kegScheduleRequest) s)

/-- R84. The last entry of the keg's chain holds a terminal step. -/
def endsInTerminal (b : Bay) (s : State) : Bool :=
  match (s.keg b).chain.getLast? with
  | some i => (match s.sch.pool[i] with | some e => isTerminal e.step | none => false)
  | none => false

/-- R84. Steps join the tail of the chain; the first of an empty chain is entered at once. -/
def appendSteps (b : Bay) (steps : List Step) (s : State) : State :=
  let wasEmpty := (s.keg b).chain.isEmpty
  let s := allocate b steps s
  if wasEmpty then enterHead b s else s

/-- R83, R84. KEG_APPEND. -/
def kegAppendRequest (p : KegStepsParams) (s : State) : Answer × State :=
  withBay p.bay (fun b s =>
    require (decide ((s.keg b).phase = .scheduled)) .notAvailable
      (withNumber (checkSteps (s.keg b).maxPressure p.steps) fun steps =>
        require (!endsInTerminal b s) .badValue
          (require (decide (steps.length ≤ s.sch.freeList.length)) .noRoom fun s =>
            okayWith (.indices (allocation steps.length s)) (appendSteps b steps s))) s) s

/-- KEG_APPEND (R83, R84). -/
def execKegAppend (tag : Byte) (p : Payload KegStepsParams) (s : State) : Next :=
  .next (serveLive tag (.kegAppend p) (withParams p kegAppendRequest) s)

/-! ## Abort, remove, resume -/

/-- R61. The keg is aborted. -/
def abortKeg (b : Bay) (s : State) : State :=
  changePhase b (fun k => { k.clearTimers with phase := .standby, ventLimit := none, prior := none, haltReason := none })
    (returnChain b (leaveControl b s))

/-- R61. KEG_ABORT. -/
def kegAbortRequest (p : BayParams) (s : State) : Answer × State :=
  withBay p.bay (fun b s =>
    require (decide ((s.keg b).phase = .scheduled ∨ (s.keg b).phase = .serving ∨ (s.keg b).phase = .halted)) .notAvailable
      (require (decide ((s.keg b).pours = 0)) .busy fun s => okay (abortKeg b s)) s) s

/-- KEG_ABORT (R61). -/
def execKegAbort (tag : Byte) (p : Payload BayParams) (s : State) : Next :=
  .next (serveLive tag (.kegAbort p) (withParams p kegAbortRequest) s)

/-- R62. The keg is removed: control, chain and relief end, the record is reset but for its sensed pressure, and the RTE forgets. -/
def removeKeg (b : Bay) (s : State) : State :=
  if (s.keg b).phase = .vacant then s
  else
    let s := returnChain b (leaveControl b s)
    let s := writeVent b (passing [.vent b] (·.modKeg b fun k => { k with relief := false }) s)
    let s := changePhase b (fun k => { Keg.reset with sensedPressure := k.sensedPressure }) s
    s.modRte fun r => { r with lastControl := upd r.lastControl b fun _ => none }

/-- R62. KEG_REMOVE. -/
def kegRemoveRequest (p : BayParams) (s : State) : Answer × State :=
  withBay p.bay (fun b s => require (decide ((s.keg b).pours = 0)) .busy (fun s => okay (removeKeg b s)) s) s

/-- KEG_REMOVE (R62). -/
def execKegRemove (tag : Byte) (p : Payload BayParams) (s : State) : Next :=
  .next (serveLive tag (.kegRemove p) (withParams p kegRemoveRequest) s)

/-- R65. The first condition of a resume that is not met. -/
def unmetCondition (b : Bay) (s : State) : Option ResumeCondition :=
  if (s.node (bayNode b)).state ≠ .online then some .node
  else if (s.keg b).sensedTemp.isNone then some .controlTemperature
  else if (s.keg b).sensedPressure.isNone then some .pressure
  else none

/-- R65. The keg returns to its prior phase. -/
def resumeKeg (b : Bay) (s : State) : State :=
  enterControl b (changePhase b (fun k => { k with
    phase := (match k.prior with | some p => p.phase | none => k.phase), prior := none, haltReason := none }) s)

/-- R65. KEG_RESUME. -/
def kegResumeRequest (p : BayParams) (s : State) : Answer × State :=
  withBay p.bay (fun b s =>
    require (decide ((s.keg b).phase = .halted)) .notAvailable (fun s =>
      match unmetCondition b s with
      | some c => refuseWith .notAvailable (.unmet c) s
      | none => okay (resumeKeg b s)) s) s

/-- KEG_RESUME (R65). -/
def execKegResume (tag : Byte) (p : Payload BayParams) (s : State) : Next :=
  .next (serveLive tag (.kegResume p) (withParams p kegResumeRequest) s)

/-! ## Volume and limits -/

/-- R68. KEG_VOLUME. -/
def kegVolumeRequest (p : KegVolumeParams) (s : State) : Answer × State :=
  withBay p.bay (fun b s =>
    require (decide ((s.keg b).phase ≠ .vacant)) .notAvailable
      (require (within 0 20000 p.volume) .badValue
        (require (decide ((s.keg b).pours = 0)) .busy fun s =>
          okay (s.modKeg b fun k => { k with loaded := p.volume.toNat, remaining := p.volume.toNat }))) s) s

/-- KEG_VOLUME (R68). -/
def execKegVolume (tag : Byte) (p : Payload KegVolumeParams) (s : State) : Next :=
  .next (serveLive tag (.kegVolume p) (withParams p kegVolumeRequest) s)

/-- R69. The limits are taken: a changed mode is derived afresh, relief is evaluated, and the CHL is told of the band. -/
def limitKeg (b : Bay) (band : Int) (mode : SenseMode) (maxPressure : Int) (s : State) : State :=
  let changed := decide ((s.keg b).mode ≠ mode)
  let s := s.modKeg b fun k => { k with band := band, mode := mode, maxPressure := maxPressure }
  let s := if changed then deliverControl b true s else s
  thermoBand b band (reliefEval b s)

/-- R69. KEG_LIMITS. -/
def kegLimitsRequest (p : KegLimitsParams) (s : State) : Answer × State :=
  withBay p.bay (fun b s =>
    require (decide ((s.keg b).phase ≠ .vacant)) .notAvailable
      (require (within 10 300 p.band && within 500 4000 p.maxPressure) .badValue
        (withNumber p.mode fun mode s =>
          require ((s.keg b).phase.active.isNone || tempRouted b mode s) .badRoute
            (fun s => okay (limitKeg b p.band mode p.maxPressure s)) s)) s) s

/-- KEG_LIMITS (R69). -/
def execKegLimits (tag : Byte) (p : Payload KegLimitsParams) (s : State) : Next :=
  .next (serveLive tag (.kegLimits p) (withParams p kegLimitsRequest) s)

/-! ## Reporting a keg (R76) -/

/-- R76. What Q_KEG supplies: prior phase and halt reason of a HALTED keg alone, and a setpoint under control alone. -/
def kegResult (b : Bay) (s : State) : KegResult :=
  let k := s.keg b
  { phase := k.phase, prior := if k.phase = .halted then k.prior else none,
    haltReason := if k.phase = .halted then k.haltReason else none, loaded := k.loaded, remaining := k.remaining, pours := k.pours,
    mode := k.mode, band := k.band, maxPressure := k.maxPressure,
    effectiveSetpoint := if k.underControl then k.setpoint else none,
    thermostat := (s.thermo b).map (·.state),
    serveTemp := k.serveTemp, servePressure := k.servePressure, sensedTemp := k.sensedTemp, sensedPressure := k.sensedPressure,
    ventCommanded := k.ventCommanded, ventOpen := k.ventOpen, relief := k.relief, ventLimit := k.ventLimit,
    buckets := k.buckets.toList, bucketTotal := activityTotal k.buckets, activity := k.activity,
    chain := k.chain.map fun i => (i, s.sch.pool[i].map fun e => stepKind e.step),
    elapsedMinutes := k.elapsed / 60 }

/-- Q_KEG (R76). -/
def execQKeg (tag : Byte) (p : Payload BayParams) (s : State) : Next :=
  .next (serveQuiet tag (.qKeg p) (withParams p fun p =>
    withBay p.bay fun b s => okayWith (.keg (kegResult b s)) s) s)

end Sys2Proof.Machine
end

