-- ==== Sys2Proof/Machine/RunControl.lean ====
section
/-! DEFINITION. The meanings of RUN, HOLD and SOFT_RESET (chapter 9), with each block's part in them. -/

namespace Sys2Proof.Machine

/-! ## RUN (R166) -/

/-- R77. The kegs that come under control at RUN, or are halted then, in an order left open (log 6). -/
def kegsRun (s : State) : State :=
  forAny (allBays.filter fun b => (s.keg b).phase.active.isSome) enterControl s

/-- R161. The TAP evaluates each tap's purge need; the order of two needs is left open (log 6). -/
def tapsRun (serving : Bool) (s : State) : State :=
  forAny (allTaps.filter fun t => purgeNeeded t s) (evalPurge serving) s

/-- R166 item 3. The MAN and the TAP take the notice in either order; a PURGE raised before the MAN has taken it is queued (log 14).
Each notice is taken whole, the MAN's never between the two taps' needs: the manual does not say so, this is the model's choice (log 42). -/
def manifoldAndTapsRun (s : State) : State :=
  let (k, s) := choose 2 s
  if k = 0 then tapsRun true (manifoldRun s) else manifoldRun (tapsRun false s)

/-- R164. The part state changes, and every output whose owner changes between a block and NONE passes (R3).
The outputs pass node by node, 1 to 9, which orders the nodes on the urgent list: the manual gives no order (R166, R167), this one is the model's (log 32). -/
def setPart (p : PartState) (s : State) : State := passing allOutputs (·.modMgp fun m => { m with part := p }) s

/-- R166. RUN is taken. The KEG takes the notice before the MAN and the TAP: the manual gives no order, this one is the model's (log 5). -/
def enterRunning (s : State) : State := manifoldAndTapsRun (kegsRun (setPart .running s))

/-- R165. The run gate is open. -/
def gateOpen (s : State) : Bool := s.mgp.routeHalf && s.mgp.tapHalf

/-- R166. RUN. -/
def runRequest (s : State) : Answer × State :=
  require (decide (¬ s.running)) .notAvailable (fun s =>
    if gateOpen s then okay (enterRunning s)
    else refuseWith .gateClosed (.gate s.mgp.routeHalf s.mgp.tapHalf) s) s

/-- RUN (R166). -/
def execRun (tag : Byte) (p : Payload Unit) (s : State) : Next :=
  .next (serveLive tag (.run p) (withParams p fun _ => runRequest) s)

/-! ## HOLD (R167) -/

/-- R161. The TAP at HOLD: every pour ends, and every blink window stops. -/
def tapsHold (s : State) : State :=
  forAll allTaps (fun t s => s.modTap t fun r => { r with blink := none }) (endAllPours .hold s)

/-- R77. The KEG at HOLD: every keg under control leaves control, in bay order: the manual gives no order, this one is the model's (log 5). -/
def kegsHold (s : State) : State := forAll allBays leaveControl s

/-- R167. HOLD is taken; the four blocks take the notice in a fixed order (log 5). -/
def enterHeld (s : State) : State := chillerHold (kegsHold (manifoldHold (tapsHold (setPart .held s))))

/-- R167. HOLD. -/
def holdRequest (s : State) : Answer × State :=
  require (decide (s.running)) .notAvailable (fun s => okay (enterHeld s)) s

/-- HOLD (R167). -/
def execHold (tag : Byte) (p : Payload Unit) (s : State) : Next :=
  .next (serveLive tag (.hold p) (withParams p fun _ => holdRequest) s)

/-! ## SOFT_RESET (R168) -/

/-- R78, R97. A keg record at a software reset. -/
def Keg.softReset (k : Keg) : Keg :=
  let k := match k.phase.active with
    | some ph => { k with phase := .halted, prior := some ph, haltReason := some .reset }
    | none => k
  { k.scheduleReset with
    relief := false, ventOpen := false, sensedTemp := none, sensedPressure := none, pours := 0, underControl := false }

/-- R162. A tap record at a software reset. -/
def TapRecord.softReset (r : TapRecord) : TapRecord :=
  { r with state := .idle, purgeRequest := .none, purgeRetry := none, lastFlow := none, lastPresses := none, pour := none, blink := none }

/-- R162, R176. The POUR_RECORD of a pour that a software reset ends joins as R173 gives: one that finds no room is lost, raising LINK_ERROR. -/
def resetRecord (t : Tap) (s : State) : State :=
  match (s.tapRec t).pour with
  | some p => handPourRecord (pourReport t p .reset) s
  | none => s

/-- R162. The TAP's software reset: a POUR_RECORD for each pour, in an order left open (log 6), and the records. -/
def tapsSoftReset (s : State) : State :=
  forAll allTaps (fun t s => s.modTap t TapRecord.softReset)
    (forAny (allTaps.filter fun t => (s.tapRec t).pour.isSome) resetRecord s)

/-- R182. The ATN's software reset: every flag clear, every mask kept. -/
def flagsSoftReset (s : State) : State := s.modAtn fun v => v.map FlagRecord.cleared

/-- R168, R176. The MGP's software reset: HELD, the gate kept, and of the receiver queue only the request being carried out. -/
def portSoftReset (s : State) : State := s.modMgp fun m => { m with part := .held, receiver := m.receiver.take 1 }

/-- R168. Every block applies its software reset.
The TAP's POUR_RECORDs are handed over before the ATN's reset, which leaves every flag clear (R182), the LINK_ERROR of a lost one with them:
this order, and the reading of R173 and R182 together, are the model's (log 27). -/
def softReset (s : State) : State :=
  let s := flagsSoftReset (tapsSoftReset s)
  let s := chillerSoftReset (manifoldSoftReset (routeSoftReset s))
  let s := { s with ccu := s.ccu.map Channel.softReset, kegs := s.kegs.map Keg.softReset }
  blcSoftReset (portSoftReset s)

/-- SOFT_RESET (R168). -/
def execSoftReset (tag : Byte) (p : Payload Unit) (s : State) : Next :=
  .next (serveLive tag (.softReset p) (withParams p fun _ s => okay (softReset s)) s)

end Sys2Proof.Machine
end

