-- ==== Sys2Proof/Machine/TableLoads.lean ====
section
/-! DEFINITION. The meanings of the requests that load channels, routes, taps and settings (R32 to R38, R42 to R44, R117, R140, R146 to R148). -/

namespace Sys2Proof.Machine

/-! ## Channels -/

/-- R33. CHANNEL_SET is available for the channel: not, in RUNNING, when it feeds a keg that is SCHEDULED or SERVING. -/
def channelFree (c : Chan) (s : State) : Bool :=
  decide (¬ s.running) || match s.rte.routes[c].dest with
    | some (.kegCore b) | some (.kegWall b) | some (.kegPress b) => (s.keg b).phase.active.isNone
    | _ => true

/-- R32, R33. CHANNEL_SET. -/
def channelSetRequest (p : ChannelSetParams) (s : State) : Answer × State :=
  withNumber (chanOf p.channel) (fun c s =>
    require (channelFree c s) .notAvailable (fun s =>
      withNumber (checkRecord p.fields) (fun r s =>
        require (suits r.kind s.rte.routes[c].dest) .badRoute (fun s => okay (setRecord c r s)) s) s) s) s

/-- CHANNEL_SET (R32, R33). -/
def execChannelSet (tag : Byte) (p : Payload ChannelSetParams) (s : State) : Next :=
  .next (serveLive tag (.channelSet p) (withParams p channelSetRequest) s)

/-- R34. CHANNEL_SEED. -/
def channelSeedRequest (p : ChannelSeedParams) (s : State) : Answer × State :=
  withNumber (chanOf p.channel) (fun c s =>
    require (s.chan c).state.takes .notAvailable
      (require (within (-100000) 100000 p.value) .badValue (fun s => okay (seed c p.value s))) s) s

/-- CHANNEL_SEED (R34). -/
def execChannelSeed (tag : Byte) (p : Payload ChannelSeedParams) (s : State) : Next :=
  .next (serveLive tag (.channelSeed p) (withParams p channelSeedRequest) s)

/-- R35. CHANNEL_SUBST. -/
def channelSubstRequest (p : ChannelSubstParams) (s : State) : Answer × State :=
  withNumber (chanOf p.channel) (fun c s =>
    withNumber (checkSubst (s.chan c).record.kind p.setting) (fun x s => okay (substitute c x s)) s) s

/-- CHANNEL_SUBST (R35 to R37). -/
def execChannelSubst (tag : Byte) (p : Payload ChannelSubstParams) (s : State) : Next :=
  .next (serveLive tag (.channelSubst p) (withParams p channelSubstRequest) s)

/-- R38. What Q_CHANNEL supplies. -/
def channelResult (c : Chan) (s : State) : ChannelResult :=
  let ch := s.chan c
  { record := ch.record, state := ch.state, window := ch.window, filtered := ch.filtered, rejectRun := ch.rejectRun,
    decimationCount := ch.decimationCount, subst := ch.subst, nodeState := (s.node ch.record.node).state }

/-- Q_CHANNEL (R38). -/
def execQChannel (tag : Byte) (p : Payload ChannelParams) (s : State) : Next :=
  .next (serveQuiet tag (.qChannel p) (withParams p fun p =>
    withNumber (chanOf p.channel) fun c s => okayWith (.channel (channelResult c s)) s) s)

/-! ## Routes -/

/-- R42 to R44. ROUTE_LOAD. -/
def routeLoadRequest (l : List RouteFields) (s : State) : Answer × State :=
  require (decide (l.length = 24)) .badLength
    (require (decide (¬ s.running)) .notAvailable
      (withNumber (resolveRoutes l) fun routes s =>
        match offence routes s with
        | some (c, o) => refuseWith .badRoute (.badRoute c o) s
        | none => okay (loadRoutes routes s))) s

/-- ROUTE_LOAD (R42 to R44). -/
def execRouteLoad (tag : Byte) (p : Payload (List RouteFields)) (s : State) : Next :=
  .next (serveLive tag (.routeLoad p) (withParams p routeLoadRequest) s)

/-! ## Taps -/

/-- R146. The lower-numbered bound tap whose line is not fed. -/
def unfedTap (x1 x2 : TapSettings) (s : State) : Option Tap :=
  if x1.binding.isSome && !fed (.line 0) s then some 0
  else if x2.binding.isSome && !fed (.line 1) s then some 1
  else none

/-- R146. A tap record with new settings: the purge timer is held to its new top, and the status derived afresh. -/
def TapRecord.load (x : TapSettings) (r : TapRecord) : TapRecord :=
  let held := decide (x.purgeInterval = 0 ∨ x.purgeTop ≤ r.purgeMinutes)
  let minutes := if x.purgeInterval = 0 then 0 else if x.purgeTop ≤ r.purgeMinutes then x.purgeTop else r.purgeMinutes
  { r with set := x, purgeMinutes := minutes, purgeSeconds := if held then 0 else r.purgeSeconds,
           purgeStatus := purgeStatusOf x minutes }

/-- R146. One tap's settings are taken, and told to the CHL. -/
def loadTap (t : Tap) (x : TapSettings) (s : State) : State :=
  let old := (s.tapRec t).purgeStatus
  lineSet t x.binding x.lineLimit (overdueRaise old t (s.modTap t (TapRecord.load x)))

/-- R146. TAP_LOAD. -/
def tapLoadRequest (p : TapLoadParams) (s : State) : Answer × State :=
  require (decide (¬ s.running)) .notAvailable
    (withNumber (checkTap p.tap1) fun x1 =>
      withNumber (checkTap p.tap2) fun x2 s =>
        match unfedTap x1 x2 s with
        | some t => refuseWith .badTap (.badTap t) s
        | none => okay ((loadTap 1 x2 (loadTap 0 x1 s)).modMgp fun m => { m with tapHalf := true })) s

/-- TAP_LOAD (R146). -/
def execTapLoad (tag : Byte) (p : Payload TapLoadParams) (s : State) : Next :=
  .next (serveLive tag (.tapLoad p) (withParams p tapLoadRequest) s)

/-- R147. The binding is set; the tap valve and the cue pass where ownership follows the binding. -/
def bindTap (t : Tap) (bay : Option Bay) (s : State) : State :=
  let s := passing [.tapValve t, .cue t] (·.modTap t fun r => { r with set := { r.set with binding := bay } }) s
  lineSet t bay (s.tapRec t).set.lineLimit s

/-- R147. TAP_BIND. -/
def tapBindRequest (p : TapBindParams) (s : State) : Answer × State :=
  withNumber (tapOf p.tap) (fun t =>
    withNumber (resolveBinding p.bay) fun bay s =>
      require (decide ((s.tapRec t).state = .idle)) .notAvailable
        (require (bay.isNone || fed (.line t) s) .badTap fun s => okay (bindTap t bay s)) s) s

/-- TAP_BIND (R147). -/
def execTapBind (tag : Byte) (p : Payload TapBindParams) (s : State) : Next :=
  .next (serveLive tag (.tapBind p) (withParams p tapBindRequest) s)

/-- R148. The lock is set; locking ends the tap's pour. -/
def lockTap (t : Tap) (locked : Bool) (s : State) : State :=
  let s := s.modTap t fun r => { r with set := { r.set with locked := locked } }
  if locked then endPour .cancelled t s else s

/-- R148. TAP_LOCK. -/
def tapLockRequest (p : TapLockParams) (s : State) : Answer × State :=
  withNumber (tapOf p.tap) (fun t => withNumber p.locked fun l s => okay (lockTap t l s)) s

/-- TAP_LOCK (R148). -/
def execTapLock (tag : Byte) (p : Payload TapLockParams) (s : State) : Next :=
  .next (serveLive tag (.tapLock p) (withParams p tapLockRequest) s)

/-! ## Manifold and chiller settings -/

/-- R140. The seven settings replaced, the check interval timer at 0. -/
def Man.withSettings (p : GasSetParams) (m : Man) : Man :=
  { m with
    settleTolerance := p.settleTolerance, pulseLength := p.pulseLength.toNat, checkPressure := p.checkPressure,
    checkWindow := p.checkWindow.toNat, leakLimit := p.leakLimit, lowThreshold := p.lowThreshold,
    checkInterval := p.checkInterval.toNat, intervalTimer := 0 }

/-- R140. GAS_SET. -/
def gasSetRequest (p : GasSetParams) (s : State) : Answer × State :=
  require (decide (¬ s.running)) .notAvailable
    (require (gasSettingsOk p) .badValue fun s => okay (s.modMan (Man.withSettings p))) s

/-- GAS_SET (R140). -/
def execGasSet (tag : Byte) (p : Payload GasSetParams) (s : State) : Next :=
  .next (serveQuiet tag (.gasSet p) (withParams p gasSetRequest) s)

/-- R117. The four settings replaced, with the limit in force. -/
def Chl.withSettings (p : ChillSetParams) (policy : Policy) (c : Chl) : Chl :=
  { c with
    configured := p.limit.toNat, policy := policy, quantum := p.quantum.toNat, glycolLimit := p.glycolLimit,
    limit := match c.guardState with | .normal => p.limit.toNat | .hot => 1 }

/-- R117. The settings are taken, and the guard is evaluated against the GLYCOL slot if it holds a value. -/
def setChiller (p : ChillSetParams) (policy : Policy) (s : State) : State :=
  let s := s.modChl (Chl.withSettings p policy)
  match slotValue .glycol s with
  | some g => guardEval g s
  | none => s

/-- R117. CHILL_SET. -/
def chillSetRequest (p : ChillSetParams) (s : State) : Answer × State :=
  require (decide (¬ s.running)) .notAvailable
    (require (chillSettingsOk p) .badValue
      (withNumber p.policy fun policy s => okay (setChiller p policy s))) s

/-- CHILL_SET (R117). -/
def execChillSet (tag : Byte) (p : Payload ChillSetParams) (s : State) : Next :=
  .next (serveLive tag (.chillSet p) (withParams p chillSetRequest) s)

end Sys2Proof.Machine
end

