-- ==== Sys2Proof/Machine/Timers.lean ====
section
/-! DEFINITION. The meanings of the counted timers' expiries (chapters 4 to 8).
Each acts when its timer has reached its limit as things stand, and is nothing otherwise (log 1). -/

namespace Sys2Proof.Machine

/-- ACTIVITY_TIMER_EXPIRY (R75, R91). -/
def execActivityTimerExpiry (b : Bay) (s : State) : Next := .next (live (activityDue b s) (activityExpired b) s)

/-- STEP_DURATION_EXPIRY (R88, R93). -/
def execStepDurationExpiry (b : Bay) (s : State) : Next := .next (live (durationDue b s) (completeStep b) s)

/-- RAMP_TIMER_EXPIRY (R90). -/
def execRampTimerExpiry (b : Bay) (s : State) : Next :=
  match rampDue b s with
  | some (target, rate) => .next (live true (rampExpired b target rate) s)
  | none => .next s

/-- QUIET_MAXIMUM_EXPIRY (R91). -/
def execQuietMaximumExpiry (b : Bay) (s : State) : Next := .next (live (quietDue b s) (quietExpired b) s)

/-- CARB_SETTLE_EXPIRY (R92). -/
def execCarbSettleExpiry (b : Bay) (s : State) : Next := .next (live (settleTimeDue b s) (completeStep b) s)

/-- TURN_TIMER_EXPIRY (R111). -/
def execTurnTimerExpiry (b : Bay) (s : State) : Next := .next (live (turnDue b s) (turnExpired b) s)

/-- OPERATION_SETTLE_TIMEOUT (R129). -/
def execOperationSettleTimeout (s : State) : Next := .next (live (settleDue s) settleFailed s)

/-- PULSE_END (R130). -/
def execPulseEnd (s : State) : Next :=
  match pulseDue s with
  | some b => .next (live true (pulseEnded b) s)
  | none => .next s

/-- PURGE_COMPLETE (R134). -/
def execPurgeComplete (s : State) : Next :=
  match purgeDue s with
  | some t => .next (live true (purgeCompleted t) s)
  | none => .next s

/-- CHECK_WINDOW_CLOSE (R135). -/
def execCheckWindowClose (s : State) : Next :=
  match checkReadings s with
  | some (p0, p1, c) => .next (live true (checkClosed p0 p1 c) s)
  | none => .next s

/-- CHECK_INTERVAL_EXPIRY (R136). -/
def execCheckIntervalExpiry (s : State) : Next := .next (live (intervalDue s) intervalExpired s)

/-- POUR_WAIT_EXPIRY (R152). -/
def execPourWaitExpiry (t : Tap) (s : State) : Next := .next (live (waitDue t s) (waitExpired t) s)

/-- STALL_TIMER_EXPIRY (R154). -/
def execStallTimerExpiry (t : Tap) (s : State) : Next :=
  match stallDue t s with
  | some b => .next (live true (stallExpired b t) s)
  | none => .next s

/-- PURGE_TIMER_MINUTE (R158). -/
def execPurgeTimerMinute (t : Tap) (s : State) : Next := .next (live (minuteDue t s) (minuteExpired t) s)

/-- PURGE_RETRY_EXPIRY (R159). -/
def execPurgeRetryExpiry (t : Tap) (s : State) : Next := .next (live (retryDue t s) (retryExpired t) s)

/-- BLINK_WINDOW_END (R160). -/
def execBlinkWindowEnd (t : Tap) (s : State) : Next := .next (live (blinkDue t s) (blinkEnded t) s)

end Sys2Proof.Machine
end

