-- ==== Sys2Proof/Machine/Timebase.lean ====
section
/-! DEFINITION. What the part does while no command waits (log 2): it takes the request at the head of the receiver queue,
or else its timebase counts one second and the expiries that fall due come to wait. -/

namespace Sys2Proof.Machine

/-! ## One second of each block's timers -/

/-- R75, R87, R92. A keg's timers count one second; a keg whose schedule has run out counts no elapsed time (R95). -/
def Keg.second (k : Keg) : Keg :=
  if k.underControl ∧ k.phase = .scheduled then
    { k with
      activity := min (k.activity + 1) Config.activityLimit
      elapsed := if k.chain.isEmpty then k.elapsed else k.elapsed + 1
      ramp := k.ramp.map fun c => min (c + 1) Config.rampLimit
      settle := if k.chargePending then k.settle else k.settle.map (· + 1)
      counted := true }
  else k

/-- R110. Turn timers count one second. -/
def Chl.second (c : Chl) : Chl := { c with holders := c.holders.map fun h => { h with turn := h.turn.map (· + 1) } }

/-- R123. The settle timer counts while SETTLING, the work timer while ACTIVE. -/
def Operation.second (op : Operation) : Operation :=
  match op.sub with
  | .settling => { op with settle := min (op.settle + 1) Config.settleLimit }
  | .active => { op with work := op.work.map (· + 1) }

/-- R123, R136. The manifold's timers count one second. -/
def Man.second (counts : Bool) (m : Man) : Man :=
  { m with
    op := m.op.map Operation.second
    intervalTimer := if counts then min (m.intervalTimer + 1) (m.checkInterval * 3600) else m.intervalTimer }

/-- R152, R154. A pour's wait timer counts while PENDING, its stall timer while POURING. -/
def Pour.second (stallTime : Nat) (p : Pour) : Pour :=
  if p.pouring then { p with stall := min (p.stall + 1) stallTime } else { p with wait := min (p.wait + 1) Config.pourWaitLimit }

/-- R152, R154, R158 to R160. A tap's timers count one second. -/
def TapRecord.second (counts : Bool) (r : TapRecord) : TapRecord :=
  { r with
    pour := r.pour.map (Pour.second r.set.stallTime)
    purgeSeconds := if counts then r.purgeSeconds + 1 else r.purgeSeconds
    purgeRetry := r.purgeRetry.map fun c => min (c + 1) Config.purgeRetryLimit
    blink := r.blink.map fun c => min (c + 1) Config.blinkLimit }

/-- Section 4.1 of the introduction. The timebase counts one second on every timer that runs. -/
def countSecond (s : State) : State :=
  let counts := intervalCounts s
  let s' := forAll allTaps (fun t s' => s'.modTap t (TapRecord.second (purgeCounts t s))) s
  ({ s' with kegs := s'.kegs.map Keg.second }.modChl Chl.second).modMan (Man.second counts)

/-! ## The expiries that fall due -/

/-- A command when its condition holds. -/
def whenDue (due : Bool) (c : Instr) : List Instr := if due then [c] else []

/-- The expiries of one bay's timers that are due. -/
def bayDue (s : State) (b : Bay) : List Instr :=
  whenDue (activityDue b s) (.activityTimerExpiry b) ++ whenDue (durationDue b s) (.stepDurationExpiry b) ++
  whenDue (rampDue b s).isSome (.rampTimerExpiry b) ++ whenDue (quietDue b s) (.quietMaximumExpiry b) ++
  whenDue (settleTimeDue b s) (.carbSettleExpiry b) ++ whenDue (turnDue b s) (.turnTimerExpiry b)

/-- The expiries of one tap's timers that are due. -/
def tapDue (s : State) (t : Tap) : List Instr :=
  whenDue (waitDue t s) (.pourWaitExpiry t) ++ whenDue (stallDue t s).isSome (.stallTimerExpiry t) ++
  whenDue (minuteDue t s) (.purgeTimerMinute t) ++ whenDue (retryDue t s) (.purgeRetryExpiry t) ++
  whenDue (blinkDue t s) (.blinkWindowEnd t)

/-- The expiries of the manifold's timers that are due. -/
def manifoldDue (s : State) : List Instr :=
  whenDue (settleDue s) .operationSettleTimeout ++ whenDue (pulseDue s).isSome .pulseEnd ++
  whenDue (purgeDue s).isSome .purgeComplete ++ whenDue (checkReadings s).isSome .checkWindowClose ++
  whenDue (intervalDue s) .checkIntervalExpiry

/-- All expiries that are due. -/
def dueCommands (s : State) : List Instr := allBays.flatMap (bayDue s) ++ manifoldDue s ++ allTaps.flatMap (tapDue s)

/-- One second: the timers count, and the expiries that are due come to wait, in an order left open (log 6). -/
def tick (s : State) : State :=
  let s := countSecond s
  let (l, s) := anyOrder (dueCommands s) s
  s.setPending (s.pending ++ l)

/-! ## No command waits -/

/-- R170. The request that the MGP takes now: the head of the receiver queue, when no RESPONSE waits untransmitted. -/
def nextRequest (s : State) : Option Instr := if responseWaits s then none else s.mgp.receiver.head?.map frameCommand

/-- What the part does while no command waits; while a hardware reset lasts, nothing (R18). -/
def idle (s : State) : State :=
  if s.inReset then s
  else match nextRequest s with
    | some c => s.setPending (s.pending ++ [c])
    | none => tick s

end Sys2Proof.Machine
end

