-- ==== Sys2Proof/Machine/Dispatch.lean ====
section
/-! DEFINITION. One arm per command: its effect on everything but the queue of waiting commands. -/

namespace Sys2Proof.Machine

def exec (i : Instr) (s : State) : Host.Outcome State Fault Refusal :=
  match i with
  | .hardwareReset => Sys2Proof.Machine.execHardwareReset s
  | .hardwareResetEnd => Sys2Proof.Machine.execHardwareResetEnd s
  | .roundTimerExpiry => Sys2Proof.Machine.execRoundTimerExpiry s
  | .exchangeFrameSent => Sys2Proof.Machine.execExchangeFrameSent s
  | .readyReply chars => Sys2Proof.Machine.execReadyReply chars s
  | .busyReply chars => Sys2Proof.Machine.execBusyReply chars s
  | .badReply chars => Sys2Proof.Machine.execBadReply chars s
  | .replyTimeout => Sys2Proof.Machine.execReplyTimeout s
  | .retryTimerExpiry => Sys2Proof.Machine.execRetryTimerExpiry s
  | .discardIntervalEnd => Sys2Proof.Machine.execDiscardIntervalEnd s
  | .strayBayCharacter c => Sys2Proof.Machine.execStrayBayCharacter c s
  | .activityTimerExpiry b => Sys2Proof.Machine.execActivityTimerExpiry b s
  | .stepDurationExpiry b => Sys2Proof.Machine.execStepDurationExpiry b s
  | .rampTimerExpiry b => Sys2Proof.Machine.execRampTimerExpiry b s
  | .quietMaximumExpiry b => Sys2Proof.Machine.execQuietMaximumExpiry b s
  | .carbSettleExpiry b => Sys2Proof.Machine.execCarbSettleExpiry b s
  | .turnTimerExpiry b => Sys2Proof.Machine.execTurnTimerExpiry b s
  | .operationSettleTimeout => Sys2Proof.Machine.execOperationSettleTimeout s
  | .pulseEnd => Sys2Proof.Machine.execPulseEnd s
  | .purgeComplete => Sys2Proof.Machine.execPurgeComplete s
  | .checkWindowClose => Sys2Proof.Machine.execCheckWindowClose s
  | .checkIntervalExpiry => Sys2Proof.Machine.execCheckIntervalExpiry s
  | .pourWaitExpiry t => Sys2Proof.Machine.execPourWaitExpiry t s
  | .stallTimerExpiry t => Sys2Proof.Machine.execStallTimerExpiry t s
  | .purgeTimerMinute t => Sys2Proof.Machine.execPurgeTimerMinute t s
  | .purgeRetryExpiry t => Sys2Proof.Machine.execPurgeRetryExpiry t s
  | .blinkWindowEnd t => Sys2Proof.Machine.execBlinkWindowEnd t s
  | .applianceFrameReceived bytes r => Sys2Proof.Machine.execApplianceFrameReceived bytes r s
  | .badFrame bytes framingError => Sys2Proof.Machine.execBadFrame bytes framingError s
  | .frameGapTimeout => Sys2Proof.Machine.execFrameGapTimeout s
  | .strayLinkByte x => Sys2Proof.Machine.execStrayLinkByte x s
  | .upwardFrameTransmit => Sys2Proof.Machine.execUpwardFrameTransmit s
  | .channelSet tag p => Sys2Proof.Machine.execChannelSet tag p s
  | .routeLoad tag p => Sys2Proof.Machine.execRouteLoad tag p s
  | .tapLoad tag p => Sys2Proof.Machine.execTapLoad tag p s
  | .gasSet tag p => Sys2Proof.Machine.execGasSet tag p s
  | .chillSet tag p => Sys2Proof.Machine.execChillSet tag p s
  | .channelSeed tag p => Sys2Proof.Machine.execChannelSeed tag p s
  | .channelSubst tag p => Sys2Proof.Machine.execChannelSubst tag p s
  | .run tag p => Sys2Proof.Machine.execRun tag p s
  | .hold tag p => Sys2Proof.Machine.execHold tag p s
  | .softReset tag p => Sys2Proof.Machine.execSoftReset tag p s
  | .kegLoad tag p => Sys2Proof.Machine.execKegLoad tag p s
  | .kegSchedule tag p => Sys2Proof.Machine.execKegSchedule tag p s
  | .kegAppend tag p => Sys2Proof.Machine.execKegAppend tag p s
  | .kegServe tag p => Sys2Proof.Machine.execKegServe tag p s
  | .kegAbort tag p => Sys2Proof.Machine.execKegAbort tag p s
  | .kegResume tag p => Sys2Proof.Machine.execKegResume tag p s
  | .kegRemove tag p => Sys2Proof.Machine.execKegRemove tag p s
  | .kegVolume tag p => Sys2Proof.Machine.execKegVolume tag p s
  | .kegLimits tag p => Sys2Proof.Machine.execKegLimits tag p s
  | .tapBind tag p => Sys2Proof.Machine.execTapBind tag p s
  | .tapLock tag p => Sys2Proof.Machine.execTapLock tag p s
  | .pour tag p => Sys2Proof.Machine.execPour tag p s
  | .pourCancel tag p => Sys2Proof.Machine.execPourCancel tag p s
  | .gasCheck tag p => Sys2Proof.Machine.execGasCheck tag p s
  | .gasUnlock tag p => Sys2Proof.Machine.execGasUnlock tag p s
  | .attnMask tag p => Sys2Proof.Machine.execAttnMask tag p s
  | .attnAck tag p => Sys2Proof.Machine.execAttnAck tag p s
  | .qStatus tag p => Sys2Proof.Machine.execQStatus tag p s
  | .qKeg tag p => Sys2Proof.Machine.execQKeg tag p s
  | .qChannel tag p => Sys2Proof.Machine.execQChannel tag p s
  | .qQueues tag p => Sys2Proof.Machine.execQQueues tag p s
  | .qTap tag p => Sys2Proof.Machine.execQTap tag p s
  | .qIdent tag p => Sys2Proof.Machine.execQIdent tag p s
  | .nodeWrite tag p => Sys2Proof.Machine.execNodeWrite tag p s
  | .nodeRead tag p => Sys2Proof.Machine.execNodeRead tag p s
  | .unknownRequest tag code => Sys2Proof.Machine.execUnknownRequest tag code s

end Sys2Proof.Machine
end

