-- ==== Sys2Proof/Machine/Step.lean ====
section
/-! DEFINITION. One step: the command at the front of the queue, or what the part does while none waits. -/

namespace Sys2Proof.Machine

/-- One step: the front command's effect with the queue's rest, and on an empty queue `idle` (log 2). -/
def step (s : State) : Host.Outcome State Fault Refusal :=
  match s.pending with
  | [] => .next (idle s)
  | c :: rest => exec c { s with pending := rest }

/-- The state with the command that a word spells at the front of its queue; unchanged where the word spells none. -/
def State.withFetchWord (s : State) (nbits w : Nat) : State :=
  match Sys2Proof.decodeTableWord nbits w with
  | some c => { s with pending := c :: s.pending }
  | none => s

end Sys2Proof.Machine
end

