-- ==== Sys2Proof/Safety.lean ====
section
/-! DEFINITION. What stays true in every step: the bounds and bookkeeping that the rules promise of the queues, the pool, the channels and the links;
and what a piece of work leaves alone: `Touches`, in which frames are said. -/

namespace Sys2Proof.Safety

open Sys2Proof.Machine

/-! ## The upward queue (R170, R173) -/

/-- The frame is a REPORT or a POUR_RECORD. -/
def isRecord (f : UpFrame) : Bool := !f.isResponse && !f.isAttention

/-- R173. At most one ATTENTION frame waits, and at most 14 REPORT and POUR_RECORD frames. -/
def RecordsOk (l : List UpFrame) : Prop := l.countP UpFrame.isAttention ≤ 1 ∧ l.countP isRecord ≤ Config.pourRecordLimit

/-- R173. At most one RESPONSE and one ATTENTION frame wait, beside at most 14 REPORT and POUR_RECORD frames; so at most 16 frames wait. -/
def UpQueueOk (s : State) : Prop := s.mgp.up.countP UpFrame.isResponse ≤ 1 ∧ RecordsOk s.mgp.up

/-! ## The receiver, the gas queue and the urgent list (R169, R125, R5) -/

/-- R169. The receiver queue holds at most 4 frames. -/
def ReceiverOk (s : State) : Prop := s.mgp.receiver.length ≤ Config.receiverLimit

/-- R125. The gas request queue holds at most 8 entries. -/
def GasQueueOk (s : State) : Prop := s.man.queue.length ≤ Config.gasQueueLimit

/-- R5. The urgent list holds each node at most once. -/
def UrgentOk (s : State) : Prop := s.blc.urgent.Nodup

/-! ## Node records and the exchange (R1, R12, R13) -/

/-- R1, R13. A node is LOST exactly when its failure count stands at 3, its largest value. -/
def NodeOk (r : NodeRecord) : Prop := r.failures ≤ 3 ∧ (r.state = .lost ↔ r.failures = 3)

/-- R1, R12, R13. Every node record is in order, and the busy count of an exchange is at most 3. -/
def LinkOf (x : Blc) : Prop := (∀ n : Node, NodeOk x.nodes[n]) ∧ ∀ e, x.exchange = some e → e.busyCount ≤ 3

/-- R1, R12, R13. The link is in order. -/
def LinkOk (s : State) : Prop := LinkOf s.blc

/-! ## The step pool (R80 to R82) -/

/-- The entries of all chains, bay after bay. -/
def chainEntries (s : State) : List PoolIx := allBays.flatMap fun b => (s.keg b).chain

/-- R80 to R82. Every entry stands once, on the free list when it is free and in its bay's chain when it is in use; a VACANT keg has no chain. -/
def PoolOk (s : State) : Prop :=
  (s.sch.freeList ++ chainEntries s).Nodup ∧
  (∀ i : PoolIx, i ∈ s.sch.freeList ↔ s.sch.pool[i] = none) ∧
  (∀ (i : PoolIx) (b : Bay), i ∈ (s.keg b).chain ↔ s.sch.pool[i].map (·.bay) = some b) ∧
  (∀ b : Bay, (s.keg b).phase = .vacant → (s.keg b).chain = [])

/-! ## Channels (R20, R24, R27) -/

/-- R20 Table 2-3. The window goes with the state, and the counts stay in their ranges. -/
def ChannelOk (ch : Channel) : Prop :=
  1 ≤ ch.record.window ∧ ch.record.window ≤ 8 ∧ 1 ≤ ch.record.decimation ∧
  ch.rejectRun ≤ 2 ∧ ch.decimationCount < ch.record.decimation ∧
  (ch.state ≠ .live → ch.decimationCount = 0) ∧ (ch.state.takes = false → ch.rejectRun = 0) ∧
  (ch.state = .off ↔ ch.record.enabled = false) ∧
  (match ch.state with
   | .off | .stale => ch.window = []
   | .priming => ch.window.length < ch.record.window
   | .live => ch.window.length = ch.record.window)

/-- R20. Every channel is in order. -/
def ChannelsOk (s : State) : Prop := ∀ c : Chan, ChannelOk (s.chan c)

/-! ## Kegs (R66, R72) -/

/-- R66, R72. The volume remaining lies between 0 and the volume loaded, and no vent count passes 255. -/
def KegOk (k : Keg) : Prop := k.remaining ≤ k.loaded ∧ ∀ i : Fin 6, k.buckets[i] ≤ 255

/-- R66, R72. Every keg record is in order. -/
def KegsOk (s : State) : Prop := ∀ b : Bay, KegOk (s.keg b)

/-! ## Outputs that follow the state (R103, R160) -/

/-- R103, R160. The pump is ON exactly while a slot is held, and each owned cue shows its derived value. -/
def ShownOk (s : State) : Prop :=
  (owner .pump s = some .chl → s.out .pump = if s.chl.holders.isEmpty then 0 else 1) ∧
  ∀ t : Tap, owner (.cue t) s = some .tap → s.out (.cue t) = derivedCue t s

/-! ## The chiller arbiter (R99 to R108) -/

/-- R99, R114, R115. The limit in force is the configured limit, at least 1, in NORMAL and 1 in HOT, and the holders number no more. -/
def SlotsOk (c : Chl) : Prop :=
  1 ≤ c.configured ∧ c.limit = (if c.guardState = .hot then 1 else c.configured) ∧ c.holders.length ≤ c.limit

/-- R99, R100. No requester holds twice, waits twice, or holds and waits; and no keg waits ahead of a line. -/
def RequestersOk (c : Chl) : Prop :=
  (c.holders.map (·.who) ++ c.queue).Nodup ∧ c.queue = c.queue.filter (·.isLine) ++ c.queue.filter (!·.isLine)

/-- R101, R105, R109. The thermostats in COOLING are those that hold a slot, and those in WANT_COOL those that wait. -/
def DemandsOk (c : Chl) : Prop :=
  (∀ b : Bay, (.keg b ∈ c.holders.map (·.who) ↔ c.thermos[b].map (·.state) = some .cooling) ∧
    (.keg b ∈ c.queue ↔ c.thermos[b].map (·.state) = some .wantCool)) ∧
  ∀ t : Tap, (.line t ∈ c.holders.map (·.who) ↔ c.lines[t].state = .cooling) ∧ (.line t ∈ c.queue ↔ c.lines[t].state = .wantCool)

/-- R104, R108, R119. Only a keg under control has a thermostat, and only a SCHEDULED or SERVING keg in RUNNING is under control;
a line is active exactly while its tap is bound to a bay whose keg is under control in SERVING, and rests otherwise. -/
def ControlOk (s : State) : Prop :=
  (∀ b : Bay, (s.thermo b ≠ none → (s.keg b).underControl = true) ∧
    ((s.keg b).underControl = true → s.mgp.part = .running ∧ ((s.keg b).phase = .scheduled ∨ (s.keg b).phase = .serving))) ∧
  ∀ t : Tap, (s.line t).active = lineServed t s ∧ ((s.line t).active = false → (s.line t).state = .rest)

/-- R99, R100, R104, R108. The chiller arbiter is in order. -/
def ChillerOk (s : State) : Prop := SlotsOk s.chl ∧ RequestersOk s.chl ∧ DemandsOk s.chl ∧ ControlOk s

/-! ## Flags (R178) -/

/-- R178. A clear flag has an empty index set, and an index set is in strictly ascending order. -/
def FlagOk (r : FlagRecord) : Prop := (r.pending = false → r.index = []) ∧ r.index.Pairwise (· < ·)

/-- R178. Every flag is in order. -/
def FlagsOk (s : State) : Prop := ∀ i : Fin 12, FlagOk s.atn[i]

/-! ## What a piece of work leaves alone -/

/-- A node record but for its due mark. -/
def undue (r : NodeRecord) : NodeRecord := { r with due := false }

/-- A tap record but for its purge retry timer. -/
def untimed (r : TapRecord) : TapRecord := { r with purgeRetry := none }

/-- The parts of the state that frames speak of; `Same` says what each is.
Some overlap: `chains` is a projection of `kegs`, and a work that changes keg records but no chain lists `kegs` alone.
Those from `flags` on are relations, not fields: for them, to be untouched is to have the relation between the two states. -/
inductive Part
  | control | line | nodes | image
  | records | chans
  | routes | slots | drawn | counts
  | chains | phases | volumes | kegs
  | sch
  | chlSettings | chl
  | manSettings | latches | man
  | tapSettings | taps | retry
  | port | receiver | responses | up
  | masks | atn
  | free
  | flags | sentOn | pourless | released
  | linkOk | urgentOk | chansOk | poolOk | kegsOk | gasOk | upOk | atnOk
  deriving DecidableEq, Repr

/-- The part is the same in both states. -/
def Same (p : Part) (s t : State) : Prop :=
  match p with
  | .control => t.pending = s.pending ∧ t.inReset = s.inReset
  /- the Bay Link Controller but for the output images and the urgent list -/
  | .line => { t.blc with outs := s.blc.outs, urgent := s.blc.urgent } = s.blc
  /- the node records but for their due marks -/
  | .nodes => t.blc.nodes.map undue = s.blc.nodes.map undue
  /- the output images and the urgent list -/
  | .image => t.blc.outs = s.blc.outs ∧ t.blc.urgent = s.blc.urgent
  | .records => t.ccu.map (·.record) = s.ccu.map (·.record)
  | .chans => t.ccu = s.ccu
  | .routes => t.rte.routes = s.rte.routes
  | .slots => t.rte.slots = s.rte.slots
  | .drawn => t.rte.lastControl = s.rte.lastControl
  | .counts => t.rte.counts = s.rte.counts
  | .chains => t.kegs.map (·.chain) = s.kegs.map (·.chain)
  | .phases => t.kegs.map (·.phase) = s.kegs.map (·.phase)
  | .volumes => t.kegs.map (fun k => (k.loaded, k.remaining)) = s.kegs.map (fun k => (k.loaded, k.remaining))
  | .kegs => t.kegs = s.kegs
  | .sch => t.sch = s.sch
  | .chlSettings => (t.chl.configured, t.chl.policy, t.chl.quantum, t.chl.glycolLimit) = (s.chl.configured, s.chl.policy, s.chl.quantum, s.chl.glycolLimit)
  | .chl => t.chl = s.chl
  | .manSettings =>
    (t.man.settleTolerance, t.man.pulseLength, t.man.checkPressure, t.man.checkWindow, t.man.leakLimit, t.man.lowThreshold, t.man.checkInterval)
      = (s.man.settleTolerance, s.man.pulseLength, s.man.checkPressure, s.man.checkWindow, s.man.leakLimit, s.man.lowThreshold, s.man.checkInterval)
  | .latches => (t.man.leak, t.man.supplyLow, t.man.result) = (s.man.leak, s.man.supplyLow, s.man.result)
  | .man => t.man = s.man
  | .tapSettings => t.tap.taps.map (·.set) = s.tap.taps.map (·.set)
  /- the tap records but for their purge retry timers, and the pour number counter -/
  | .taps => t.tap.taps.map untimed = s.tap.taps.map untimed ∧ t.tap.pourNumber = s.tap.pourNumber
  | .retry => t.tap.taps.map (·.purgeRetry) = s.tap.taps.map (·.purgeRetry)
  /- the Management Port but for the upward queue and the sequence count -/
  | .port => { t.mgp with up := s.mgp.up, seq := s.mgp.seq } = s.mgp
  | .receiver => t.mgp.receiver = s.mgp.receiver
  | .responses => t.mgp.up.filter UpFrame.isResponse = s.mgp.up.filter UpFrame.isResponse
  | .up => t.mgp.up = s.mgp.up ∧ t.mgp.seq = s.mgp.seq
  | .masks => t.atn.map (·.masked) = s.atn.map (·.masked)
  | .atn => t.atn = s.atn
  | .free => t.free = s.free
  /- a pending flag stays pending, and its index set loses nothing -/
  | .flags => ∀ i : Fin 12, s.atn[i].pending = true → t.atn[i].pending = true ∧ ∀ n ∈ s.atn[i].index, n ∈ t.atn[i].index
  /- the upward queue loses nothing: frames only join at its tail -/
  | .sentOn => s.mgp.up <+: t.mgp.up
  /- no pour begins -/
  | .pourless => ∀ x : Tap, (s.tapRec x).pour = none → (t.tapRec x).pour = none
  /- no keg comes under control -/
  | .released => ∀ b : Bay, (s.keg b).underControl = false → (t.keg b).underControl = false
  | .linkOk => LinkOk s → LinkOk t
  | .urgentOk => UrgentOk s → UrgentOk t
  | .chansOk => ChannelsOk s → ChannelsOk t
  | .poolOk => PoolOk s → PoolOk t
  | .kegsOk => KegsOk s → KegsOk t
  | .gasOk => GasQueueOk s → GasQueueOk t
  | .upOk => RecordsOk s.mgp.up → RecordsOk t.mgp.up
  | .atnOk => FlagsOk s → FlagsOk t

/-- `Touches l s t`: every part outside `l` is in `t` as it is in `s`. -/
def Touches (l : List Part) (s t : State) : Prop := ∀ p, p ∉ l → Same p s t

end Sys2Proof.Safety
end

