-- ==== Sys2Proof/Certificates/Slice0/Obligations.lean ====
section
/-! DEFINITION. The statements for the provers.

Each statement stands as `def Obligations.<Name> : Prop`; the vocabulary they share stands first.
Numbers of bays, taps, nodes and channels as the manual gives them are `bayNum b`, `tapNum t`, `nodeNum n` and `c.val`. -/

namespace Sys2Proof.Claims

open Sys2Proof.Machine Sys2Proof.Safety

/-! ## Vocabulary: events -/

/-- What the end of any event may reach: the line, where the next exchange may begin (R6), the images, for the pump and the cues (R103, R160),
and the purge retry timers (R159). -/
def eventParts : List Part := [.line, .image, .retry]

/-- The command gives a next state, of which `post` holds. -/
def Leads (i : Instr) (s : State) (post : State → Prop) : Prop := ∃ t, exec i s = .next t ∧ post t

/-- No hardware reset lasts. -/
abbrev Awake (s : State) : Prop := s.inReset = false

/-! ## Vocabulary: requests and their answers (R170, R171) -/

/-- What the answer to a request reaches: the receiver queue, and the upward queue. -/
def answerParts : List Part := [.port, .receiver, .responses, .up]

/-- R170. The request is taken now: no reset lasts, its frame is the oldest in the receiver queue, and no RESPONSE waits untransmitted. -/
def Taken (tag : Byte) (r : Request) (s : State) : Prop :=
  Awake s ∧ s.mgp.receiver.head? = some { tag := tag, request := r } ∧ ∀ f ∈ s.mgp.up, f.isResponse = false

/-- The state once a request has been answered, with nothing else changed. -/
def answeredOnly (tag : Byte) (code : Option Byte) (st : Status) (x : Result) (s : State) : State :=
  { s with mgp := { s.mgp with
      receiver := s.mgp.receiver.tail
      up := s.mgp.up ++ [.response { tag := tag, code := code, status := st, part := s.mgp.part, result := x }] } }

/-- The request of code `code` is carried out: it is answered OK with the result `x`, the Management Port's own fields change by `port` alone,
nothing changes outside the parts named, and `post` holds of the state left. -/
def CarriedOut (tag : Byte) (r : Request) (code : Byte) (x : Result) (port : Mgp → Mgp) (parts : List Part) (s : State) (post : State → Prop) : Prop :=
  Taken tag r s → ∃ t, exec (frameCommand { tag := tag, request := r }) s = .next t ∧
    { t.mgp with up := s.mgp.up, seq := s.mgp.seq } = port { s.mgp with receiver := s.mgp.receiver.tail } ∧
    t.mgp.up.getLast? = some (.response { tag := tag, code := some code, status := .ok, part := t.mgp.part, result := x }) ∧
    Touches (parts ++ eventParts ++ answerParts) s t ∧ post t

/-- The request of code `code` is refused: it is answered with `st` and `x`, and nothing else changes. -/
def RefusedWith (tag : Byte) (r : Request) (code : Byte) (st : Status) (x : Result) (s : State) : Prop :=
  Taken tag r s → exec (frameCommand { tag := tag, request := r }) s = .next (answeredOnly tag (some code) st x s)

/-! ## Vocabulary: timers -/

/-- The state with every timer that the timebase counts set to 0: what one second may not change. The mark of log 17 counts as one. -/
def timersZeroed (s : State) : State :=
  { s with
    kegs := s.kegs.map fun k =>
      { k with elapsed := 0, activity := 0, ramp := k.ramp.map fun _ => 0, settle := k.settle.map fun _ => 0, counted := false }
    chl := { s.chl with holders := s.chl.holders.map fun h => { h with turn := h.turn.map fun _ => 0 } }
    man := { s.man with op := s.man.op.map fun op => { op with settle := 0, work := op.work.map fun _ => 0 }, intervalTimer := 0 }
    tap := { s.tap with taps := s.tap.taps.map fun r =>
      { r with
        purgeSeconds := 0, purgeRetry := r.purgeRetry.map fun _ => 0, blink := r.blink.map fun _ => 0
        pour := r.pour.map fun p => { p with wait := 0, stall := 0 } } } }

/-- R136. The check interval timer counts. -/
def IntervalRuns (s : State) : Prop := s.mgp.part = .running ∧ s.man.checkInterval ≠ 0

/-- R158. The purge timer of tap `y` counts. -/
def PurgeTimerRuns (y : Tap) (s : State) : Prop :=
  (s.tapRec y).set.binding.isSome ∧ s.mgp.part = .running ∧ (s.tapRec y).set.purgeInterval ≠ 0 ∧
  (s.tapRec y).purgeMinutes < (s.tapRec y).set.purgeInterval + (s.tapRec y).set.purgeGrace

end Sys2Proof.Claims

open Sys2Proof Sys2Proof.Machine Sys2Proof.Safety Sys2Proof.Claims

/-! ## The queue, and what runs -/

/-- Log 10, log 2: a step takes the command at the front of the queue. -/
def Obligations.StepRunsTheFrontCommand : Prop :=
  ∀ (c : Instr) (s : State), step { s with pending := c :: s.pending } = exec c s

/-- Log 2 (the model's choice): while no command waits, the part takes the request at the head of the receiver queue, or else counts one second.
One second of the timebase changes nothing but timers, and each timer that runs rises by one, up to its limit where its rule gives one: of a keg under control in
SCHEDULED, the activity, step, ramp and settle timers; the turn timers; the settle timer of a SETTLING and the work timer of an ACTIVE operation; the check interval
timer; and of a tap, its pour's wait or stall timer, the purge timer and the retry and blink timers. A timer that does not run keeps its value. -/
def Obligations.TheTimebaseRunsOnAnEmptyQueue : Prop :=
  (∀ s : State, s.pending = [] →
     (s.inReset = true → step s = .next s) ∧
     (Awake s → ∀ f rest, s.mgp.receiver = f :: rest → (∀ u ∈ s.mgp.up, u.isResponse = false) →
       step s = .next { s with pending := [frameCommand f] }) ∧
     (Awake s → (s.mgp.receiver = [] ∨ ∃ u ∈ s.mgp.up, u.isResponse = true) →
       ∃ l free, l.Perm (dueCommands (countSecond s)) ∧ step s = .next { countSecond s with pending := l, free := free })) ∧
  (∀ s : State,
     let t := countSecond s
     timersZeroed t = timersZeroed s ∧
     (∀ b : Bay, (s.keg b).underControl = false ∨ (s.keg b).phase ≠ .scheduled → t.keg b = s.keg b) ∧
     (∀ b : Bay, (s.keg b).underControl = true → (s.keg b).phase = .scheduled → t.keg b = { s.keg b with
       activity := min ((s.keg b).activity + 1) 600
       elapsed := if (s.keg b).chain = [] then (s.keg b).elapsed else (s.keg b).elapsed + 1
       ramp := (s.keg b).ramp.map fun c => min (c + 1) 360
       settle := if (s.keg b).chargePending = true then (s.keg b).settle else (s.keg b).settle.map (· + 1)
       counted := true }) ∧
     t.chl = { s.chl with holders := s.chl.holders.map fun h => { h with turn := h.turn.map (· + 1) } } ∧
     (∀ op, s.man.op = some op →
       (op.sub = .settling → t.man.op = some { op with settle := min (op.settle + 1) 30 }) ∧
       (op.sub = .active → t.man.op = some { op with work := op.work.map (· + 1) })) ∧
     (IntervalRuns s → t.man.intervalTimer = min (s.man.intervalTimer + 1) (s.man.checkInterval * 3600)) ∧
     (¬ IntervalRuns s → t.man.intervalTimer = s.man.intervalTimer) ∧
     (∀ y : Tap,
       (∀ p, (s.tapRec y).pour = some p → (t.tapRec y).pour = some (if p.pouring = true then { p with stall := min (p.stall + 1) (s.tapRec y).set.stallTime }
         else { p with wait := min (p.wait + 1) 60 })) ∧
       (PurgeTimerRuns y s → (t.tapRec y).purgeSeconds = (s.tapRec y).purgeSeconds + 1) ∧
       (¬ PurgeTimerRuns y s → (t.tapRec y).purgeSeconds = (s.tapRec y).purgeSeconds) ∧
       (t.tapRec y).purgeRetry = ((s.tapRec y).purgeRetry.map fun c => min (c + 1) 60) ∧
       (t.tapRec y).blink = ((s.tapRec y).blink.map fun c => min (c + 1) 5)) ∧
     Touches [.kegs, .chl, .man, .taps, .retry] s t)

/-- Every command gives a next state: the part has no fault, and no command is refused by the model (log 1). -/
def Obligations.EveryCommandGivesANextState : Prop := ∀ (c : Instr) (s : State), ∃ t, exec c s = .next t

/-! ## Hardware reset -/

/-- R144. A hardware reset sets every field of the MAN to its value of Table 7-1, and the regulator, the supply valve, the gas-in valves and the
purge valves to their safe value with owner NONE, and no flag is pending. -/
def Obligations.HardwareResetOfTheManifold : Prop :=
  ∀ s : State, Leads .hardwareReset s fun t =>
    t.man = { state := .idle, op := none, queue := [], leak := false, supplyLow := false, result := none, intervalTimer := 0,
              settleTolerance := 50, pulseLength := 10, checkPressure := 1500, checkWindow := 60, leakLimit := 100,
              lowThreshold := 8000, checkInterval := 24, nodeOnline := false } ∧
    (∀ o : Output, (o = .regulator ∨ o = .supply ∨ (∃ b, o = .gasIn b) ∨ ∃ x, o = .purge x) → t.out o = 0 ∧ owner o t = none) ∧
    ∀ i : Fin 12, t.atn[i].pending = false

/-- R40. A hardware reset gives every channel the defaults of Table 2-1, state OFF, an empty window, counts of 0 and substitution OFF;
the readings of any reply then change nothing. -/
def Obligations.HardwareResetOfTheChannels : Prop :=
  ∀ s : State, Leads .hardwareReset s fun t =>
    (∀ c : Chan, t.chan c =
      { record := { enabled := false, node := 0, input := 0, kind := .temp, gain := 1000, offset := 0, spike := 0, filter := .plain,
                    window := 1, weights := none, decimation := 1 }
        state := .off, window := [], rejectRun := 0, decimationCount := 0, subst := .off }) ∧
    ∀ (n : Node) (r : Reply), takeReadings n r t = t

/-- R98. A hardware reset makes every pool entry free, the free list 0 to 47 in index order, every chain empty and every step timer clear,
and no flag is pending. -/
def Obligations.HardwareResetOfTheStepPool : Prop :=
  ∀ s : State, Leads .hardwareReset s fun t =>
    (∀ i : PoolIx, t.sch.pool[i] = none) ∧ t.sch.freeList = List.finRange 48 ∧
    (∀ b : Bay, (t.keg b).chain = [] ∧ (t.keg b).elapsed = 0 ∧ (t.keg b).ramp = none ∧ (t.keg b).settle = none ∧ (t.keg b).activity = 0) ∧
    ∀ i : Fin 12, t.atn[i].pending = false

/-- R53, R79, R121, R145, R164, R165, R176, R182. A hardware reset of the other blocks: routes, slots and counts, kegs, the chiller (but for the line
limits, log 18), taps, the port and the flags, a keg's charge-pending mark clear (log 38, the model's choice); the commands that wait are kept (log 10).
R18. While the reset lasts the driver is disabled and nothing is on the line, and no command but the reset's own two has any effect (log 10);
when it ends, the first round begins with the exchange with node 1, which carries the safe image. -/
def Obligations.HardwareResetOfTheRest : Prop :=
  (∀ s : State, Leads .hardwareReset s fun t =>
     t.pending = s.pending ∧ t.inReset = true ∧
     (∀ c : Chan, t.rte.routes[c] = { dest := none, divider := 0 } ∧ t.rte.counts[c] = 0) ∧
     (∀ i : Fin 24, t.rte.slots[i] = none) ∧ (∀ b : Bay, t.rte.lastControl[b] = none) ∧
     (∀ b : Bay, t.keg b =
       { phase := .vacant, prior := none, haltReason := none, loaded := 0, remaining := 0, mode := .core, band := 50, maxPressure := 3000,
         setpoint := none, serveTemp := none, servePressure := none, ventLimit := none, ventOpen := false, relief := false,
         buckets := #v[0, 0, 0, 0, 0, 0], activity := 0, pours := 0, chain := [], elapsed := 0, ramp := none, settle := none,
         chargePending := false, counted := false, sensedTemp := none, sensedPressure := none, underControl := false } ∧
       owner (.heater b) t = none ∧ owner (.cool b) t = none ∧ owner (.vent b) t = none) ∧
     { t.chl with lines := s.chl.lines } =
       { configured := 3, policy := .hold, quantum := 15, glycolLimit := 300, guardState := .normal, limit := 3, nodeLost := false,
         holders := [], queue := [], thermos := .replicate 6 none, lines := s.chl.lines } ∧
     (∀ x : Tap, (t.line x).bay = none ∧ (t.line x).active = false ∧ (t.line x).state = .rest) ∧
     (∀ x : Tap, t.tapRec x =
       { set := { binding := none, locked := false, pulsesPerLitre := 4000, smallVolume := 200, largeVolume := 400, lineLimit := 400,
                  purgeInterval := 240, purgeGrace := 30, purgeDuration := 10, purgePressure := 800, stallTime := 5 }
         state := .idle, purgeStatus := .clean, purgeMinutes := 0, purgeSeconds := 0, purgeRequest := .none, purgeRetry := none,
         lastFlow := none, lastPresses := none, pour := none, blink := none }) ∧
     t.tap.pourNumber = 0 ∧
     t.mgp.part = .held ∧ t.mgp.routeHalf = false ∧ t.mgp.tapHalf = false ∧ t.mgp.receiver = [] ∧ t.mgp.partialFrame = [] ∧
     t.mgp.up = [] ∧ t.mgp.seq = 0 ∧
     ∀ i : Fin 12, t.atn[i] = { pending := false, index := [], masked := true }) ∧
  ((∀ s : State, Leads .hardwareReset s fun t =>
     t.blc = { nodes := .replicate 9 { state := .unseen, failures := 0, lastReply := none, due := true }, outs := .replicate 35 0, urgent := [],
               exchange := none, roundOpen := false, roundTimer := false, overrun := false, discard := .none, driver := false, txFrame := [] } ∧
     Leads .hardwareResetEnd t fun u =>
       u.inReset = false ∧
       u.blc = { nodes := upd (.replicate 9 { state := .unseen, failures := 0, lastReply := none, due := true }) 0 fun r => { r with due := false }
                 outs := .replicate 35 0, urgent := []
                 exchange := some { node := 0, imageSent := [0, 0, 0, 0], busyCount := 0, phase := .sending }
                 roundOpen := true, roundTimer := true, overrun := false, discard := .none, driver := true
                 txFrame := [0x101, 0x000, 0x0FF] } ∧
       Touches [.control, .line] t u) ∧
   ∀ (c : Instr) (s : State), s.inReset = true → c ≠ .hardwareReset → c ≠ .hardwareResetEnd → exec c s = .next s)

namespace Sys2Proof.Claims

open Sys2Proof.Machine Sys2Proof.Safety

/-! ## Vocabulary: the line -/

/-- R6, R8. The exchange that begins on an idle line, `image n` being node `n`'s output image: with the head of the urgent list,
otherwise with the lowest-numbered due node, and otherwise with none. -/
def withNextExchange (image : Node → List Nat) (x : Blc) : Blc :=
  match x.urgent.head? <|> allNodes.find? (fun n => x.nodes[n].due) with
  | none => x
  | some n =>
    { x with
      exchange := some { node := n, imageSent := image n, busyCount := 0, phase := .sending }
      urgent := x.urgent.filter (fun m => decide (m ≠ n))
      nodes := upd x.nodes n fun r => { r with due := false }
      driver := true
      txFrame := exchangeChars n (image n) }

/-- R7. A round that begins: every node is due, and the round timer starts. -/
def withNewRound (x : Blc) : Blc :=
  { x with nodes := x.nodes.map fun r => { r with due := true }, roundOpen := true, roundTimer := true, overrun := false }

/-- R7, R11, R13. An exchange ends: the record becomes absent; the round ends with it when no node is due, and the next one follows at once
when the round timer has expired already. -/
def withoutExchange (x : Blc) : Blc :=
  let y := { x with exchange := none }
  if y.roundOpen = true ∧ ∀ n : Node, y.nodes[n].due = false then
    if y.roundTimer = true then { y with roundOpen := false } else withNewRound y
  else y

/-- What a failed exchange may reach when its node becomes LOST by it (R13, R14). -/
def lossParts : List Part := [.nodes, .chans, .slots, .drawn, .kegs, .phases, .chl, .man, .taps, .up, .atn, .free]

/-- What a successful exchange may reach: settings, masks, routes and queued requests are none of it (R11, R14, R15). -/
def successParts : List Part := lossParts ++ [.counts, .volumes, .pourless]

end Sys2Proof.Claims

/-! ## The Bay Link -/

/-- R6, R8. When a discard interval ends, the next exchange begins: with the head of the urgent list, otherwise with the lowest-numbered due node.
R7. The round timer's expiry begins the next round when the round has ended, and otherwise overruns it, during an exchange and during a discard interval. -/
def Obligations.RoundsAndTheNextExchange : Prop :=
  (∀ s : State, Awake s → ShownOk s → s.blc.discard = .running → s.blc.exchange = none →
     Leads .discardIntervalEnd s fun t =>
       t.blc = withNextExchange (fun n => imageOf n s) { s.blc with discard := .none } ∧ Touches eventParts s t) ∧
  (∀ s : State, Awake s → ShownOk s → s.blc.roundTimer = true →
     (s.blc.roundOpen = true → (s.blc.exchange ≠ none ∨ s.blc.discard ≠ .none) →
       Leads .roundTimerExpiry s fun t => t.blc = { s.blc with roundTimer := false, overrun := true } ∧ Touches eventParts s t) ∧
     (s.blc.roundOpen = false → (s.blc.exchange ≠ none ∨ s.blc.discard ≠ .none) →
       Leads .roundTimerExpiry s fun t => t.blc = withNewRound s.blc ∧ Touches eventParts s t) ∧
     (s.blc.roundOpen = false → s.blc.exchange = none → s.blc.discard = .none →
       Leads .roundTimerExpiry s fun t =>
         t.blc = withNextExchange (fun n => imageOf n s) (withNewRound s.blc) ∧ Touches eventParts s t))

/-- R8, R12, R17. The frame leaves the line, and the reply window opens; after a BUSY the same image is sent again;
an abandoned frame's discard interval runs from its end. -/
def Obligations.AttemptsSendTheImageSent : Prop :=
  (∀ s x, Awake s → s.blc.exchange = some x → x.phase = .sending → s.blc.discard = .none →
    exec .exchangeFrameSent s = .next { s with blc := { s.blc with driver := false, exchange := some { x with phase := .awaiting } } }) ∧
  (∀ s, Awake s → s.blc.exchange = none → s.blc.discard = .finishing →
    exec .exchangeFrameSent s = .next { s with blc := { s.blc with driver := false, discard := .running } }) ∧
  (∀ s x, Awake s → s.blc.exchange = some x → x.phase = .retryWait →
    exec .retryTimerExpiry s = .next { s with blc := { s.blc with
      exchange := some { x with phase := .sending }, driver := true, txFrame := exchangeChars x.node x.imageSent } }) ∧
  (∀ s x chars, Awake s → ShownOk s → s.blc.exchange = some x → x.phase = .awaiting → x.busyCount < 3 → judgeReply x.node chars = .busy →
    Leads (.busyReply chars) s fun t =>
      t.blc = { s.blc with exchange := some { x with busyCount := x.busyCount + 1, phase := .retryWait } } ∧ Touches eventParts s t)

/-- R11, R14, R15. A valid READY reply: the node is ONLINE with failure count 0 and this last reply, and no other node's record changes;
from an ONLINE node its readings are handed to the channels, and the tap panel's data to the TAP before, after or between the publications that the readings
cause, themselves in any order (R21, log 6), and nothing else comes of it but what ends every event. From one that no channel reads and that is not the tap panel, nothing comes of it but that. -/
def Obligations.AReadyReplySucceeds : Prop :=
  ∀ (s : State) (x : Exchange) (chars : List Char9) (r : Reply), Awake s → s.blc.exchange = some x → x.phase = .awaiting →
    judgeReply x.node chars = .ready r →
    Leads (.readyReply chars) s fun t =>
      undue (t.node x.node) = { state := .online, failures := 0, lastReply := some r, due := false } ∧
      (∀ m : Node, m ≠ x.node → undue (t.node m) = undue (s.node m)) ∧
      Touches (successParts ++ eventParts) s t ∧
      ((s.node x.node).state = .online →
        let heard : Free → State := fun free => { s with
          free := free
          blc := { s.blc with nodes := upd s.blc.nodes x.node fun n => { n with state := .online, failures := 0, lastReply := some r } } }
        (r.panel = none → Touches eventParts (takeReadings x.node r (heard s.free)) t) ∧
        (∀ v, r.panel = some v → ∃ free before after, (before ++ after).Perm (publishers x.node r s) ∧
          Touches eventParts
            (forAll after publish (panelData false v (forAll before publish (conditionReadings x.node r (heard free))))) t)) ∧
      ((s.node x.node).state = .online → x.node ≠ panelNode → (∀ c : Chan, (s.chan c).record.node ≠ x.node) →
        Touches (.nodes :: eventParts) s t ∧
        (ShownOk s → s.blc.discard = .none →
          t.blc = withNextExchange (fun n => imageOf n s) (withoutExchange { s.blc with
            nodes := upd s.blc.nodes x.node fun n => { n with state := .online, failures := 0, lastReply := some r } })))

/-- R3, R5. A write by a block that does not own the output is discarded; one that gives the value already held changes nothing;
any other changes that output alone, and its node joins the tail of the urgent list or keeps its place on it.
R3, R164. With the part state, the outputs that pass between a block and NONE go to their safe value 0, and no other output changes. -/
def Obligations.OutputsFollowTheirOwners : Prop :=
  (∀ (w : Owner) (o : Output) (v : Nat) (s : State),
     (owner o s ≠ some w → write w o v s = s) ∧
     (s.out o = v → write w o v s = s) ∧
     (owner o s = some w → s.out o ≠ v →
       (write w o v s).out o = v ∧ (∀ p : Output, p ≠ o → (write w o v s).out p = s.out p) ∧
       (write w o v s).blc.urgent = (if outNode o ∈ s.blc.urgent then s.blc.urgent else s.blc.urgent ++ [outNode o]) ∧
       Touches [.image] s (write w o v s))) ∧
  (∀ (p : PartState) (s : State),
     (setPart p s).mgp = { s.mgp with part := p } ∧
     (∀ o : Output, (setPart p s).out o = if (owner o s).isNone = (owner o (setPart p s)).isNone then s.out o else 0) ∧
     Touches [.image, .port] s (setPart p s))

namespace Sys2Proof.Claims

open Sys2Proof.Machine Sys2Proof.Safety

/-! ## Vocabulary: outputs -/

/-- The name by which NODE_WRITE names an output of its node (Table 1-3). -/
def nameOf : Output → OutputCode
  | .heater _ => .heater
  | .cool _ => .cool
  | .gasIn _ => .gasIn
  | .vent _ => .vent
  | .pump => .pump
  | .lineValve t => .lineValve (tapNum t)
  | .regulator => .regulator
  | .supply => .supply
  | .purge t => .purge (tapNum t)
  | .tapValve t => .tapValve (tapNum t)
  | .cue t => .cue (tapNum t)

/-- Table 1-3, Table 10-4. The largest value of an output. -/
def largestValue : Output → Int
  | .regulator => 4000
  | .cue _ => 3
  | _ => 1

end Sys2Proof.Claims

/-- R4. NODE_WRITE: BAD_VALUE for what names no output of the node or lies out of its range, then OWNED, and otherwise the value is written. -/
def Obligations.NodeWriteWritesWhatNoBlockOwns : Prop :=
  (∀ tag p s, (∀ (o : Output) (v : Nat), p ≠ { node := nodeNum (outNode o), output := nameOf o, value := v } ∨ largestValue o < v) →
    RefusedWith tag (.nodeWrite (.params p)) 34 .badValue .nothing s) ∧
  (∀ tag o (v : Nat) s, (v : Int) ≤ largestValue o → owner o s ≠ none →
    RefusedWith tag (.nodeWrite (.params { node := nodeNum (outNode o), output := nameOf o, value := v })) 34 .owned .nothing s) ∧
  ∀ tag o (v : Nat) s, (v : Int) ≤ largestValue o → owner o s = none → ShownOk s →
    CarriedOut tag (.nodeWrite (.params { node := nodeNum (outNode o), output := nameOf o, value := v })) 34 .nothing id [] s fun t =>
      (∀ p : Output, t.out p = if p = o then v else s.out p) ∧
      (s.blc.exchange ≠ none → s.out o ≠ v → t.blc.urgent = if outNode o ∈ s.blc.urgent then s.blc.urgent else s.blc.urgent ++ [outNode o]) ∧
      (s.blc.exchange ≠ none → s.out o = v → t.blc.urgent = s.blc.urgent)

namespace Sys2Proof.Claims

open Sys2Proof.Machine Sys2Proof.Safety

/-! ## Vocabulary: what the queries show -/

/-- Table 5-2. The kind of a step. -/
def kindOfStep : Step → StepKind
  | .hold _ _ _ => .hold
  | .ramp _ _ _ => .ramp
  | .quiet _ _ _ _ => .quiet
  | .carb _ _ _ => .carb
  | .serve _ _ => .serve
  | .endStep => .endStep

/-- R125. A gas need's kind and requester, a pour's with the bay of its keg. -/
def kindAndRequester : GasNeed → NeedKind × GasParty
  | .charge b => (.charge, .bay b)
  | .pour t b => (.pour, .tapAndBay t b)
  | .purge t _ => (.purge, .tap t)
  | .check => (.check, .part)

/-- Table 7-2. The beneficiary of an operation; of a POUR, the tap of the pour it was started for. -/
def beneficiaryOf : GasNeed → GasParty
  | .charge b => .bay b
  | .pour t _ => .tap t
  | .purge t _ => .tap t
  | .check => .part

end Sys2Proof.Claims

/-- R4, R38. NODE_READ and Q_CHANNEL answer the node's record and image, and the channel with its live window; nothing else changes.
R76. Q_KEG answers the keg: prior phase and halt reason when HALTED alone, the setpoint under control alone, the vent ON while relief or the phase wants it,
the buckets with their total, the kinds of the chain, and the elapsed time in whole minutes.
R163. Q_TAP answers the tap: the cue OFF while not owned, and a pour in flight with every field of Table 8-2.
R183. Q_QUEUES and Q_STATUS answer what each block supplies (the pours of a pour set as they came into it, log 40,
and an index set in ascending order, log 41, the model's choices). A query's answer is all that changes. -/
def Obligations.QueriesAnswerAndChangeNothing : Prop :=
  ∀ (tag : Byte) (s : State),
    (∀ n : Node, Taken tag (.nodeRead (.params { node := nodeNum n })) s → exec (.nodeRead tag (.params { node := nodeNum n })) s =
      .next (answeredOnly tag (some 35) .ok (.node
      { state := (s.node n).state, failures := (s.node n).failures,
        image := (outputsOf n).map s.out, lastReply := (s.node n).lastReply }) s)) ∧
    (∀ c : Chan, Taken tag (.qChannel (.params { channel := c.val })) s → exec (.qChannel tag (.params { channel := c.val })) s =
      .next (answeredOnly tag (some 30) .ok (.channel
      { record := (s.chan c).record, state := (s.chan c).state, window := (s.chan c).window,
        filtered := (s.chan c).filtered, rejectRun := (s.chan c).rejectRun, decimationCount := (s.chan c).decimationCount,
        subst := (s.chan c).subst, nodeState := (s.node (s.chan c).record.node).state }) s)) ∧
    (∀ b : Bay, Taken tag (.qKeg (.params { bay := bayNum b })) s → exec (.qKeg tag (.params { bay := bayNum b })) s =
      .next (answeredOnly tag (some 29) .ok (.keg (
      let k := s.keg b
      { phase := k.phase
        prior := if k.phase = .halted then k.prior else none
        haltReason := if k.phase = .halted then k.haltReason else none
        loaded := k.loaded, remaining := k.remaining, pours := k.pours, mode := k.mode, band := k.band, maxPressure := k.maxPressure
        effectiveSetpoint := if k.underControl then k.setpoint else none
        thermostat := (s.chl.thermos[b]).map (·.state)
        serveTemp := k.serveTemp, servePressure := k.servePressure, sensedTemp := k.sensedTemp, sensedPressure := k.sensedPressure
        ventCommanded := k.relief || k.ventOpen, ventOpen := k.ventOpen, relief := k.relief, ventLimit := k.ventLimit
        buckets := [k.buckets[0], k.buckets[1], k.buckets[2], k.buckets[3], k.buckets[4], k.buckets[5]]
        bucketTotal := k.buckets[0] + k.buckets[1] + k.buckets[2] + k.buckets[3] + k.buckets[4] + k.buckets[5]
        activity := k.activity
        chain := k.chain.map fun i => (i, s.sch.pool[i].map fun e => kindOfStep e.step)
        elapsedMinutes := k.elapsed / 60 })) s)) ∧
    (∀ x : Tap, Taken tag (.qTap (.params { tap := tapNum x })) s → exec (.qTap tag (.params { tap := tapNum x })) s =
      .next (answeredOnly tag (some 32) .ok (.tap (
      let r := s.tapRec x
      { settings := r.set, state := r.state, locked := r.set.locked, purgeStatus := r.purgeStatus, purgeMinutes := r.purgeMinutes
        purgeRequest := r.purgeRequest
        cue := if s.mgp.part = .running ∧ r.set.binding ≠ none then s.out (.cue x) else 0
        lastFlow := r.lastFlow, lastPresses := r.lastPresses
        pour := r.pour.map fun p =>
          { number := p.number, tap := x, bay := p.bay, source := p.source, target := p.target, metered := p.metered
            state := if p.pouring then .pouring else .pending
            reason := none, granted := p.granted, wait := p.wait, stall := p.stall, baseline := p.baseline, carry := p.carry } })) s)) ∧
    (Taken tag (.qQueues (.params ())) s → exec (.qQueues tag (.params ())) s =
      .next (answeredOnly tag (some 31) .ok (.queues
      { waitQueue := s.chl.queue
        gasQueue := s.man.queue.map fun e =>
          { kind := (kindAndRequester e.need).1, requester := (kindAndRequester e.need).2, pressure := e.pressure }
        freeLength := s.sch.freeList.length }) s)) ∧
    (Taken tag (.qStatus (.params ())) s → exec (.qStatus tag (.params ())) s =
      .next (answeredOnly tag (some 28) .ok (.status
      { routeHalf := s.mgp.routeHalf, tapHalf := s.mgp.tapHalf,
        nodes := allNodes.map fun n => ((s.node n).state, (s.node n).failures), manifold := s.man.state,
        operation := s.man.op.map fun op =>
          { kind := (kindAndRequester op.need).1, beneficiary := beneficiaryOf op.need, pressure := op.pressure, sub := op.sub, pours := op.pours }
        leak := s.man.leak, supplyLow := s.man.supplyLow, check := s.man.result, limit := s.chl.limit, guardState := s.chl.guardState,
        holders := s.chl.holders.map (·.who), taps := allTaps.map fun x => ((s.tapRec x).state, (s.tapRec x).purgeStatus),
        flags := ((List.finRange 12).filter fun i => s.atn[i].pending).map fun i =>
          { code := i.val + 1, masked := s.atn[i].masked, index := s.atn[i].index },
        masks := (List.finRange 12).map fun i => s.atn[i].masked }) s))

/-- R175. Q_IDENT answers vendor code 0x41, part code 820 and revision 1. -/
def Obligations.QIdentAnswersThePart : Prop :=
  ∀ tag s, Taken tag (.qIdent (.params ())) s →
    exec (.qIdent tag (.params ())) s = .next (answeredOnly tag (some 33) .ok (.ident 0x41 820 1) s)

namespace Sys2Proof.Claims

open Sys2Proof.Machine Sys2Proof.Safety

/-! ## Vocabulary: characters and bytes -/

/-- Table 1-3. The image is one that node `n` can have. -/
def ImageLegal (n : Node) (image : List Nat) : Prop :=
  image.length = (outputsOf n).length ∧
  ∀ (i : Nat) (o : Output), (outputsOf n)[i]? = some o → ∀ v, image[i]? = some v → (v : Int) ≤ largestValue o

/-- A twelve-bit value as two characters, the high 4 bits first. -/
def chars12 (v : BitVec 12) : List Char9 := [BitVec.ofNat 9 (v.toNat / 256), BitVec.ofNat 9 (v.toNat % 256)]

/-- A sixteen-bit value as two characters, the high 8 bits first. -/
def chars16 (v : BitVec 16) : List Char9 := [BitVec.ofNat 9 (v.toNat / 256), BitVec.ofNat 9 (v.toNat % 256)]

/-- Table 10-4. The code of a pressed choice. -/
def pressCode : Press → Nat
  | .small => 1
  | .large => 2
  | .stop => 3

/-- Table 10-4. The four characters of one tap's panel data. -/
def panelChars (x : PanelTap) : List Char9 := chars16 x.flow ++ [x.presses.setWidth 9, BitVec.ofNat 9 (pressCode x.choice)]

/-- Table 1-3. Every output has a value that its image can carry. -/
def OutputsLegal (s : State) : Prop := ∀ o : Output, (s.out o : Int) ≤ largestValue o

/-- Characters followed by the checksum that makes the sum of all data bits 0 modulo 256. -/
def withChecksum (l : List Char9) : List Char9 := l ++ [BitVec.ofNat 9 ((256 - dataSum l % 256) % 256)]

/-- Table 10-4. An EXCHANGE frame to node `n`: the address with the marker, the output characters, and the checksum. -/
def exchangeOf (n : Node) (outputs : List Nat) : List Char9 :=
  withChecksum (BitVec.ofNat 9 (256 + nodeNum n) :: outputs.map fun v => BitVec.ofNat 9 v)

/-- Table 10-4. A READY reply of node `n`. -/
def readyChars (n : Node) (r : Reply) : List Char9 :=
  withChecksum ([BitVec.ofNat 9 (nodeNum n), 0x001] ++ r.inputs.toList.flatMap chars12 ++
    match r.panel with
    | some x => panelChars x[0] ++ panelChars x[1]
    | none => [])

/-- Table 10-4. A BUSY reply of node `n`. -/
def busyChars (n : Node) : List Char9 := withChecksum [BitVec.ofNat 9 (nodeNum n), 0x002]

/-- Table 10-3. A REQUEST frame: start, length, kind, tag, the payload, and the CRC high byte first. -/
def requestBytes (tag : Byte) (payload : List Byte) : List Byte :=
  let covered := BitVec.ofNat 8 payload.length :: 0x01 :: tag :: payload
  0xC3 :: covered ++ [(crc16 covered).extractLsb' 8 8, (crc16 covered).extractLsb' 0 8]

/-- Table 10-3. A frame of kind `kind`: start, length, kind, tag, the payload, and the CRC high byte first. -/
def frameOf (kind tag : Byte) (payload : List Byte) : List Byte :=
  let covered := BitVec.ofNat 8 payload.length :: kind :: tag :: payload
  0xC3 :: covered ++ [(crc16 covered).extractLsb' 8 8, (crc16 covered).extractLsb' 0 8]

/-- R171, Table 10-1. A request without parameters has a payload of its code alone, and has the wrong length with any other;
an unknown request has no code of Table 10-1. -/
def PayloadFits (n : Nat) : Request → Prop
  | .run p | .hold p | .softReset p | .gasCheck p | .gasUnlock p | .qStatus p | .qQueues p | .qIdent p => p = .params () ↔ n = 1
  | .unknown code => ∀ c : Byte, code = some c → c.toNat = 0 ∨ 35 < c.toNat
  | _ => True

end Sys2Proof.Claims

/-! ## The layouts of the links (R177) -/

/-- R177, Table 10-4. An EXCHANGE frame opens with its address and the marker, no other character has the marker, its data bits sum to 0 modulo 256,
and no two legal images of a node, nor two nodes, have the same frame. Its output characters carry the outputs by name: a bay node's heater, cool valve, gas-in valve
and vent valve in bits 0 to 3; node 7's pump and line valves in bits 0 to 2; node 8's regulator setpoint in two characters, the high 4 bits first, and then its supply and purge
valves in bits 0 to 2; node 9's tap valves in bits 0 and 1, and its cues in bits 2 to 3 and 4 to 5.
R9, R177, Table 10-4. A READY reply is read back as its contents and a BUSY reply as BUSY, whatever characters follow it, every unfinished beginning of one is waited out,
and one with a wrong checksum, or from another node, is bad.
R169, R177, Table 10-3. A REQUEST frame is judged good with its tag and code (no code where the payload is empty, log 9), every proper beginning of it is
held as unfinished, and one with another kind byte or a wrong CRC is bad; a length above 120 is bad as soon as its byte is there. -/
def Obligations.LinkFramesAreReadBack : Prop :=
  (((∀ (n : Node) (image : List Nat), (exchangeChars n image).length = (if n = manifoldNode then 5 else 3) ∧
      (exchangeChars n image).head? = some (BitVec.ofNat 9 (256 + nodeNum n)) ∧
      (∀ c ∈ (exchangeChars n image).tail, c.toNat < 256) ∧ dataSum (exchangeChars n image) % 256 = 0) ∧
    ∀ (n m : Node) (a b : List Nat), ImageLegal n a → ImageLegal m b → exchangeChars n a = exchangeChars m b → n = m ∧ a = b) ∧
   (∀ s : State, OutputsLegal s →
      (∀ b : Bay, exchangeChars (bayNode b) (imageOf (bayNode b) s) = exchangeOf (bayNode b)
        [s.out (.heater b) + 2 * s.out (.cool b) + 4 * s.out (.gasIn b) + 8 * s.out (.vent b)]) ∧
      exchangeChars chillerNode (imageOf chillerNode s) = exchangeOf chillerNode
        [s.out .pump + 2 * s.out (.lineValve 0) + 4 * s.out (.lineValve 1)] ∧
      exchangeChars manifoldNode (imageOf manifoldNode s) = exchangeOf manifoldNode
        [s.out .regulator / 256, s.out .regulator % 256, s.out .supply + 2 * s.out (.purge 0) + 4 * s.out (.purge 1)] ∧
      exchangeChars panelNode (imageOf panelNode s) = exchangeOf panelNode
        [s.out (.tapValve 0) + 2 * s.out (.tapValve 1) + 4 * s.out (.cue 0) + 16 * s.out (.cue 1)]) ∧
   (∀ (n : Node) (r : Reply), r.panel.isSome = decide (n = panelNode) →
      judgeReply n (readyChars n r) = .ready r ∧ judgeReply n (busyChars n) = .busy ∧
      (∀ extra : List Char9, judgeReply n (readyChars n r ++ extra) = .ready r ∧ judgeReply n (busyChars n ++ extra) = .busy) ∧
      (∀ k, k < (readyChars n r).length → judgeReply n ((readyChars n r).take k) = .unfinished) ∧
      (∀ k, k < 3 → judgeReply n ((busyChars n).take k) = .unfinished) ∧
      (∀ c : Char9, dataOf c ≠ dataOf ((readyChars n r).getLast!) → judgeReply n ((readyChars n r).dropLast ++ [c]) = .bad) ∧
      (∀ (c : Char9) (rest : List Char9), dataOf c ≠ BitVec.ofNat 8 (nodeNum n) → judgeReply n (c :: rest) = .bad))) ∧
  ((∀ (tag : Byte) (payload : List Byte), payload.length ≤ 120 →
      judgeFrame (requestBytes tag payload) = .good tag payload.head? ∧
      (∀ k, 0 < k → k < payload.length + 6 → judgeFrame ((requestBytes tag payload).take k) = .unfinished) ∧
      (∀ c : BitVec 16, c ≠ crc16 (((requestBytes tag payload).drop 1).take (payload.length + 3)) →
        judgeFrame ((requestBytes tag payload).take (payload.length + 4) ++ [c.extractLsb' 8 8, c.extractLsb' 0 8]) = .bad)) ∧
   (∀ (kind : Byte) (rest : List Byte) (n : Byte), kind ≠ 0x01 → rest.length = n.toNat + 3 → n.toNat ≤ 120 →
      judgeFrame (0xC3 :: n :: kind :: rest) = .bad) ∧
   ∀ (n : Byte) (rest : List Byte), 120 < n.toNat → judgeFrame (0xC3 :: n :: rest) = .bad)

/-! ## The Management Port -/

/-- R9, R169. Characters outside a reply window, and bytes between frames that are not the start byte, are discarded without effect.
R169. A good frame joins the tail of the receiver queue, or is discarded with LINK_ERROR when 4 frames are held;
the bytes of an unfinished frame are held.
R169, R171. Bytes whose payload cannot spell the request named are not that request's frame (log 1).
R169. A bad frame is discarded and a stalled one abandoned, each raising LINK_ERROR once; behind a length above 120 the receiver looks for a start byte again,
and a framing error makes the frame at hand a bad one (what follows it: log 35). -/
def Obligations.WhatArrivesOnTheLinks : Prop :=
  ((∀ c s, exec (.strayBayCharacter c) s = .next s) ∧ (∀ x s, exec (.strayLinkByte x) s = .next s) ∧
   ∀ s chars, (∀ x, s.blc.exchange = some x → x.phase ≠ .awaiting) →
     exec (.readyReply chars) s = .next s ∧ exec (.busyReply chars) s = .next s ∧ exec (.badReply chars) s = .next s ∧
     exec .replyTimeout s = .next s) ∧
  (∀ (bytes : List Byte) (r : Request) (s : State), Awake s →
     let f := s.mgp.partialFrame ++ bytes
     (∀ tag, judgeFrame f = .good tag (requestCode r) → PayloadFits (f.getD 1 0).toNat r →
       (s.mgp.receiver.length < 4 → exec (.applianceFrameReceived bytes r) s =
         .next { s with mgp := { s.mgp with partialFrame := [], receiver := s.mgp.receiver ++ [{ tag := tag, request := r }] } }) ∧
       (4 ≤ s.mgp.receiver.length → exec (.applianceFrameReceived bytes r) s =
         .next (raise .linkError none { s with mgp := { s.mgp with partialFrame := [] } }))) ∧
     (∀ tag code, judgeFrame f = .good tag code → (code ≠ requestCode r ∨ ¬ PayloadFits (f.getD 1 0).toNat r) →
       exec (.applianceFrameReceived bytes r) s = .next s) ∧
     (judgeFrame f = .unfinished → exec (.applianceFrameReceived bytes r) s =
       .next { s with mgp := { s.mgp with partialFrame := f } })) ∧
  (∀ (s : State), Awake s →
     (∀ bytes framingError,
       let f := s.mgp.partialFrame ++ bytes
       (bytes ≠ [] ∧ judgeFrame f = .bad ∧ (f.length = 2 ∨ (f.getD 1 0).toNat ≤ 120 ∧ f.length = (f.getD 1 0).toNat + 6)) ∨
         (framingError = true ∧ (judgeFrame f = .unfinished ∨ ∃ tag code, judgeFrame f = .good tag code)) →
       exec (.badFrame bytes framingError) s = .next (raise .linkError none { s with mgp := { s.mgp with partialFrame := [] } })) ∧
     (∀ (n : Byte) (strays : List Byte), s.mgp.partialFrame = [] → 120 < n.toNat → 0xC3 ∉ strays →
       exec (.badFrame (0xC3 :: n :: strays) false) s = .next (raise .linkError none s) ∧
       ∀ more, judgeFrame (0xC3 :: more) = .unfinished →
         exec (.badFrame (0xC3 :: n :: strays ++ 0xC3 :: more) false) s =
           .next (raise .linkError none { s with mgp := { s.mgp with partialFrame := 0xC3 :: more } })) ∧
     (s.mgp.partialFrame ≠ [] →
       exec .frameGapTimeout s = .next (raise .linkError none { s with mgp := { s.mgp with partialFrame := [] } })))

/-- R173, R179. The oldest upward frame leaves the queue as its transmission begins; an ATTENTION frame then shows the highest-ranked flag
that is pending and unmasked, and every pending flag in rank order.
R177, Table 10-3. The bytes of the frame are start, length, kind, tag, payload and CRC; a RESPONSE's payload is the code, the status with 0 for OK, the part state
and the results. The bytes of contents are free values (log 20).
R173. A REPORT and a POUR_RECORD take the sequence count as tag; each joins while the queue holds fewer than 8 or 14 frames,
and is otherwise discarded with LINK_ERROR, its number taken. -/
def Obligations.TheUpwardQueueIsFirstInFirstOut : Prop :=
  (∀ (s : State) (f : UpFrame) (rest : List UpFrame), Awake s → s.mgp.up = f :: rest →
     ∃ payload : List Byte, payload.length ≤ 120 ∧
       (∀ r, f = .response r → ∃ code status results, payload = code :: status :: (if r.part = .running then 0x01 else 0x00) :: results ∧
         (∀ c, r.code = some c → code = c) ∧ (status = 0 ↔ r.status = .ok) ∧ (r.result = .nothing → results = [])) ∧
       exec .upwardFrameTransmit s = .next { s with mgp := { s.mgp with
         up := rest
         sent := some (match f with
           | .response r => .response r
           | .report r => .report r
           | .pourRecord r => .pourRecord r
           | .attention tag => .attention tag
               { leading := ((List.finRange 12).find? fun i => s.atn[i].pending && !s.atn[i].masked).map fun i => i.val + 1
                 flags := ((List.finRange 12).filter fun i => s.atn[i].pending).map fun i =>
                   { code := i.val + 1, masked := s.atn[i].masked, index := s.atn[i].index } })
         sentBytes := match f with
           | .response r => frameOf 0x02 r.tag payload
           | .report r => frameOf 0x03 r.tag payload
           | .attention tag => frameOf 0x04 tag payload
           | .pourRecord r => frameOf 0x05 r.tag payload } }) ∧
  (∀ (s : State) (f : Byte → Report) (g : Byte → PourReport),
     handReport f s = (if s.mgp.up.length < 8 then
         { s with mgp := { s.mgp with up := s.mgp.up ++ [.report (f s.mgp.seq)], seq := s.mgp.seq + 1 } }
       else raise .linkError none { s with mgp := { s.mgp with seq := s.mgp.seq + 1 } }) ∧
     handPourRecord g s = (if s.mgp.up.length < 14 then
         { s with mgp := { s.mgp with up := s.mgp.up ++ [.pourRecord (g s.mgp.seq)], seq := s.mgp.seq + 1 } }
       else raise .linkError none { s with mgp := { s.mgp with seq := s.mgp.seq + 1 } }))

/-! ## The Attention Unit -/

/-- R178, R179. A raise makes its flag pending and adds the index; it hands over an ATTENTION frame when it moves an unmasked flag
from clear to pending, and the frame is merged into one that waits. -/
def Obligations.ARaiseLatchesItsFlag : Prop :=
  ∀ (f : Flag) (i : Option Nat) (s : State),
    let t := raise f i s
    t.atn[f.idx].pending = true ∧ t.atn[f.idx].masked = s.atn[f.idx].masked ∧
    (∀ n, n ∈ t.atn[f.idx].index ↔ n ∈ s.atn[f.idx].index ∨ i = some n) ∧
    (∀ j : Fin 12, j ≠ f.idx → t.atn[j] = s.atn[j]) ∧
    { t with atn := s.atn } =
      (if s.atn[f.idx].pending = false ∧ s.atn[f.idx].masked = false ∧ (∀ u ∈ s.mgp.up, u.isAttention = false) then
        { s with mgp := { s.mgp with up := s.mgp.up ++ [.attention s.mgp.seq], seq := s.mgp.seq + 1 } }
      else s)

/-- R180, R181. ATTN_MASK replaces the twelve masks and ATTN_ACK clears the flags named, each with BAD_VALUE for what its rule excludes;
ATTN_ACK answers the codes of the flags still pending, which R181 gives no order and the model lists in rank order (log 36, the model's choice);
either hands over one ATTENTION frame when its occasion calls for one, ahead of the RESPONSE. -/
def Obligations.MasksAndAcknowledgements : Prop :=
  (∀ tag (l : List Bool) s, l.length = 12 →
    CarriedOut tag (.attnMask (.params (l.map some))) 26 (.masks l) id [.masks, .atn] s fun t =>
      (∀ i : Fin 12, t.atn[i] = { s.atn[i] with masked := l.getD i.val true }) ∧
      ((∃ i : Fin 12, s.atn[i].pending = true ∧ s.atn[i].masked = true ∧ l.getD i.val true = false) →
        t.mgp.up.countP UpFrame.isAttention = max 1 (s.mgp.up.countP UpFrame.isAttention)) ∧
      ((∀ i : Fin 12, s.atn[i].pending = true → s.atn[i].masked = true → l.getD i.val true = true) → t.mgp.up.length = s.mgp.up.length + 1)) ∧
  (∀ tag (l : List (Option Bool)) s, l.length = 12 → none ∈ l → RefusedWith tag (.attnMask (.params l)) 26 .badValue .nothing s) ∧
  (∀ tag (l : List Nat) s, (∀ c ∈ l, 1 ≤ c ∧ c ≤ 12) → 1 ≤ l.length → l.length ≤ 12 →
    CarriedOut tag (.attnAck (.params l)) 27
      (.pendingCodes (((List.finRange 12).filter fun i => s.atn[i].pending && decide (i.val + 1 ∉ l)).map fun i => i.val + 1))
      id [.atn, .flags] s fun t =>
      (∀ i : Fin 12, t.atn[i] = if i.val + 1 ∈ l then { s.atn[i] with pending := false, index := [] } else s.atn[i]) ∧
      ((∃ i : Fin 12, i.val + 1 ∉ l ∧ s.atn[i].pending = true ∧ s.atn[i].masked = false) →
        t.mgp.up.countP UpFrame.isAttention = max 1 (s.mgp.up.countP UpFrame.isAttention))) ∧
  (∀ tag (l : List Nat) s, (∃ c ∈ l, c = 0 ∨ 12 < c) → RefusedWith tag (.attnAck (.params l)) 27 .badValue .nothing s)

namespace Sys2Proof.Claims

open Sys2Proof.Machine Sys2Proof.Safety

/-- R171 item 2. The request's payload has not the length its code calls for. -/
def malformed : Request → Bool
  | .channelSet .wrongLength | .routeLoad .wrongLength | .tapLoad .wrongLength | .gasSet .wrongLength | .chillSet .wrongLength
  | .channelSeed .wrongLength | .channelSubst .wrongLength | .run .wrongLength | .hold .wrongLength | .softReset .wrongLength
  | .kegLoad .wrongLength | .kegSchedule .wrongLength | .kegAppend .wrongLength | .kegServe .wrongLength | .kegAbort .wrongLength
  | .kegResume .wrongLength | .kegRemove .wrongLength | .kegVolume .wrongLength | .kegLimits .wrongLength | .tapBind .wrongLength
  | .tapLock .wrongLength | .pour .wrongLength | .pourCancel .wrongLength | .gasCheck .wrongLength | .gasUnlock .wrongLength
  | .attnMask .wrongLength | .attnAck .wrongLength | .qStatus .wrongLength | .qKeg .wrongLength | .qChannel .wrongLength
  | .qQueues .wrongLength | .qTap .wrongLength | .qIdent .wrongLength | .nodeWrite .wrongLength | .nodeRead .wrongLength => true
  | _ => false

/-- R171 item 3. The request names a bay, tap, channel or node outside its numbering. -/
def misnumbered : Request → Bool
  | .channelSet (.params p) => decide (24 ≤ p.channel)
  | .channelSeed (.params p) => decide (24 ≤ p.channel)
  | .channelSubst (.params p) => decide (24 ≤ p.channel)
  | .qChannel (.params p) => decide (24 ≤ p.channel)
  | .kegLoad (.params p) => decide (p.bay = 0 ∨ 6 < p.bay)
  | .kegSchedule (.params p) => decide (p.bay = 0 ∨ 6 < p.bay)
  | .kegAppend (.params p) => decide (p.bay = 0 ∨ 6 < p.bay)
  | .kegServe (.params p) => decide (p.bay = 0 ∨ 6 < p.bay)
  | .kegAbort (.params p) => decide (p.bay = 0 ∨ 6 < p.bay)
  | .kegResume (.params p) => decide (p.bay = 0 ∨ 6 < p.bay)
  | .kegRemove (.params p) => decide (p.bay = 0 ∨ 6 < p.bay)
  | .kegVolume (.params p) => decide (p.bay = 0 ∨ 6 < p.bay)
  | .kegLimits (.params p) => decide (p.bay = 0 ∨ 6 < p.bay)
  | .qKeg (.params p) => decide (p.bay = 0 ∨ 6 < p.bay)
  | .tapBind (.params p) => decide (p.tap = 0 ∨ 2 < p.tap) || (match p.bay with | some n => decide (n = 0 ∨ 6 < n) | none => false)
  | .tapLock (.params p) => decide (p.tap = 0 ∨ 2 < p.tap)
  | .pour (.params p) => decide (p.tap = 0 ∨ 2 < p.tap)
  | .pourCancel (.params p) => decide (p.tap = 0 ∨ 2 < p.tap)
  | .qTap (.params p) => decide (p.tap = 0 ∨ 2 < p.tap)
  | .nodeWrite (.params p) => decide (p.node = 0 ∨ 9 < p.node)
  | .nodeRead (.params p) => decide (p.node = 0 ∨ 9 < p.node)
  | _ => false

/-- The parts that RUN may reach beside the part state (R166). -/
def runParts : List Part := [.chl, .man, .kegs, .phases, .taps, .up, .atn, .free, .released]

/-- The parts that HOLD may reach beside the part state (R167). -/
def holdParts : List Part := [.chl, .man, .kegs, .taps, .up, .atn, .free]

end Sys2Proof.Claims

/-! ## Requests (R170, R171) -/

/-- R170. A request is taken when its frame is the oldest held and no RESPONSE waits; it is then answered once, its tag and code echoed,
with the part state as it stands afterwards, its RESPONSE behind whatever it put in the upward queue, and its frame gone.
A request that is not taken, being none that the part holds as its oldest or coming while a RESPONSE waits or a reset lasts, changes nothing: that is
the model's choice (log 1, and log 10 for the reset). -/
def Obligations.EveryTakenRequestIsAnsweredOnce : Prop :=
  ∀ (tag : Byte) (r : Request) (s : State),
    (Taken tag r s → ∃ t sent st x, exec (frameCommand { tag := tag, request := r }) s = .next t ∧
      t.mgp.up = s.mgp.up ++ sent ++ [.response { tag := tag, code := requestCode r, status := st, part := t.mgp.part, result := x }] ∧
      (∀ f ∈ sent, f.isResponse = false) ∧
      t.mgp.receiver = (if r = .softReset (.params ()) then [] else s.mgp.receiver.tail) ∧
      t.mgp.partialFrame = s.mgp.partialFrame) ∧
    (¬ Taken tag r s → exec (frameCommand { tag := tag, request := r }) s = .next s)

/-- R171. A refused request changes no state anywhere in the part.
R171, items 1 to 3: an unknown code, then a payload of the wrong length, then a number outside its numbering: each is refused whatever the state. -/
def Obligations.RefusedRequestsChangeNothing : Prop :=
  (∀ (tag : Byte) (r : Request) (s t : State) (f : Response), Taken tag r s →
     exec (frameCommand { tag := tag, request := r }) s = .next t → t.mgp.up.getLast? = some (.response f) → f.status ≠ .ok →
     t = answeredOnly tag (requestCode r) f.status f.result s) ∧
  (∀ (tag : Byte) (s : State),
     (∀ code, Taken tag (.unknown code) s →
       exec (.unknownRequest tag code) s = .next (answeredOnly tag code .unknownRequest .nothing s)) ∧
     (∀ r, malformed r = true → Taken tag r s →
       exec (frameCommand { tag := tag, request := r }) s = .next (answeredOnly tag (requestCode r) .badLength .nothing s)) ∧
     (∀ r, misnumbered r = true → Taken tag r s →
       exec (frameCommand { tag := tag, request := r }) s = .next (answeredOnly tag (requestCode r) .badValue .nothing s)))

/-! ## Run control (R164 to R168) -/

/-- R166, R77, R142. RUN: NOT_AVAILABLE in RUNNING, GATE_CLOSED with the two halves while the gate is not open; otherwise the part is RUNNING,
each SCHEDULED or SERVING keg that is not blind (R63, log 15) is under control and each blind one HALTED, the supply valve is open, and the
manifold without complete sensing is DOWN.
R167, R77, R119, R142, R161. HOLD: NOT_AVAILABLE in HELD; otherwise no pour, no blink window, no keg under control, no waiting requester
and no operation is left, every phase is kept, and every output that passed to NONE stands at its safe value. -/
def Obligations.RunAndHold : Prop :=
  ((∀ tag s, s.mgp.part = .running → RefusedWith tag (.run (.params ())) 8 .notAvailable .nothing s) ∧
   (∀ tag s, s.mgp.part = .held → (s.mgp.routeHalf = false ∨ s.mgp.tapHalf = false) →
     RefusedWith tag (.run (.params ())) 8 .gateClosed (.gate s.mgp.routeHalf s.mgp.tapHalf) s) ∧
   ∀ tag s, s.mgp.part = .held → s.mgp.routeHalf = true → s.mgp.tapHalf = true →
     CarriedOut tag (.run (.params ())) 8 .nothing (fun m => { m with part := .running }) runParts s fun t =>
       t.out .supply = 1 ∧
       ((s.man.nodeOnline = false ∨ s.rte.slots[destIdx .manifold] = none ∨ s.rte.slots[destIdx .cylinder] = none) → t.man.state = .down) ∧
       ∀ b : Bay,
         ((s.keg b).phase ≠ .scheduled ∧ (s.keg b).phase ≠ .serving → (t.keg b).phase = (s.keg b).phase) ∧
         (((s.keg b).phase = .scheduled ∨ (s.keg b).phase = .serving) →
           ((s.node (bayNode b)).state ≠ .lost → (s.keg b).sensedTemp ≠ none → (s.keg b).sensedPressure ≠ none →
             (t.keg b).underControl = true ∧ (t.keg b).phase = (s.keg b).phase) ∧
           ((s.node (bayNode b)).state = .lost → (t.keg b).phase = .halted ∧ (t.keg b).haltReason = some .node) ∧
           ((s.node (bayNode b)).state ≠ .lost → ((s.keg b).sensedTemp = none ∨ (s.keg b).sensedPressure = none) →
             (t.keg b).phase = .halted ∧ (t.keg b).haltReason = some .sensor))) ∧
  ((∀ tag s, s.mgp.part = .held → RefusedWith tag (.hold (.params ())) 9 .notAvailable .nothing s) ∧
   ∀ tag s, s.mgp.part = .running →
     CarriedOut tag (.hold (.params ())) 9 .nothing (fun m => { m with part := .held }) holdParts s fun t =>
       (∀ x : Tap, (t.tapRec x).pour = none ∧ (t.tapRec x).blink = none) ∧
       (∀ b : Bay, (t.keg b).underControl = false ∧ ((s.keg b).underControl = true → t.thermo b = none)) ∧
       t.chl.queue = [] ∧ t.man.op = none ∧
       ∀ o : Output, owner o s ≠ none → owner o t = none → t.out o = 0)

/-- R39. A software reset of the channels: the records are kept, everything else starts again. -/
def Obligations.SoftwareResetOfTheChannels : Prop :=
  ∀ tag s, Taken tag (.softReset (.params ())) s → Leads (.softReset tag (.params ())) s fun t =>
    ∀ c : Chan, t.chan c =
      { record := (s.chan c).record
        state := if (s.chan c).record.enabled then .priming else .off
        window := [], rejectRun := 0, decimationCount := 0, subst := .off }

/-- R17, R52, R78, R97, R120, R143, R162, R168, R176, R182. A software reset of the other blocks; the upward queue is kept, and the POUR_RECORDs and
the RESPONSE join it.
R173, R176, R179, R182. Each POUR_RECORD takes a number, and joins while fewer than 14 frames are held; one that finds no room is lost and raises LINK_ERROR, which hands over an
ATTENTION frame where the flag was clear and unmasked and none waits, and nothing else of the reset does. Every flag is clear with an empty index set in the end, LINK_ERROR too, and
every mask kept: that the ATN's reset follows the TAP's is the model's reading of R173 and R182 (log 27). -/
def Obligations.SoftwareResetOfTheRest : Prop :=
  ∀ tag s, Taken tag (.softReset (.params ())) s → Leads (.softReset tag (.params ())) s fun t =>
    t.pending = s.pending ∧ t.inReset = false ∧
    t.blc = (let x : Blc :=
        { nodes := .replicate 9 { state := .unseen, failures := 0, lastReply := none, due := true }, outs := .replicate 35 0,
          urgent := [0, 1, 2, 3, 4, 5, 6, 7, 8], exchange := none, roundOpen := true, roundTimer := true, overrun := false,
          discard := (match s.blc.exchange with
            | none => s.blc.discard
            | some x => match x.phase with | .sending => .finishing | .awaiting => .running | .retryWait => .none)
          driver := s.blc.driver, txFrame := s.blc.txFrame }
      if x.discard = .none then withNextExchange (fun n => (outputsOf n).map fun _ => 0) x else x) ∧
    t.rte = { s.rte with slots := .replicate 24 none, counts := .replicate 24 0, lastControl := .replicate 6 none } ∧
    (∀ b : Bay, t.keg b = { s.keg b with
      phase := if (s.keg b).phase = .scheduled ∨ (s.keg b).phase = .serving then .halted else (s.keg b).phase
      prior := if (s.keg b).phase = .scheduled then some .scheduled else if (s.keg b).phase = .serving then some .serving else (s.keg b).prior
      haltReason := if (s.keg b).phase = .scheduled ∨ (s.keg b).phase = .serving then some .reset else (s.keg b).haltReason
      relief := false, ventOpen := false, sensedTemp := none, sensedPressure := none, pours := 0, underControl := false
      chargePending := false, counted := false }) ∧
    t.sch = s.sch ∧
    t.chl = { s.chl with
      guardState := .normal, limit := s.chl.configured, nodeLost := false, holders := [], queue := [], thermos := .replicate 6 none
      lines := s.chl.lines.map fun l => { l with active := false, state := .rest } } ∧
    t.man = { s.man with op := none, queue := [], state := if s.man.leak then .lockout else .idle, nodeOnline := false } ∧
    (∀ x : Tap, t.tapRec x = { s.tapRec x with
      state := .idle, purgeRequest := .none, purgeRetry := none, lastFlow := none, lastPresses := none, pour := none, blink := none }) ∧
    t.tap.pourNumber = s.tap.pourNumber ∧
    t.mgp.part = .held ∧ t.mgp.routeHalf = s.mgp.routeHalf ∧ t.mgp.tapHalf = s.mgp.tapHalf ∧ t.mgp.receiver = [] ∧
    t.mgp.partialFrame = s.mgp.partialFrame ∧ s.mgp.up <+: t.mgp.up ∧
    (∀ i : Fin 12, t.atn[i] = { pending := false, index := [], masked := s.atn[i].masked }) ∧
    (let ended := (List.finRange 2).countP fun x => (s.tapRec x).pour.isSome
     let raised := 14 < s.mgp.up.length + ended ∧ 0 < ended ∧ s.atn[Flag.linkError.idx].pending = false ∧ s.atn[Flag.linkError.idx].masked = false ∧
       ∀ u ∈ s.mgp.up, u.isAttention = false
     let attention := if raised then 1 else 0
     t.mgp.seq = s.mgp.seq + BitVec.ofNat 8 (ended + attention) ∧
     t.mgp.up.countP UpFrame.isAttention = s.mgp.up.countP UpFrame.isAttention + attention ∧
     t.mgp.up.length = s.mgp.up.length + min ended (14 - s.mgp.up.length) + attention + 1) ∧
    (s.mgp.up.length < 12 → ∀ x p, (s.tapRec x).pour = some p → ∃ n : Byte, UpFrame.pourRecord
      { tag := n, number := p.number, tap := x, bay := some p.bay, source := p.source, target := p.target, metered := p.metered,
        refused := false, reason := .reset } ∈ t.mgp.up)

namespace Sys2Proof.Claims

open Sys2Proof.Machine Sys2Proof.Safety

/-! ## Vocabulary: channels and routes -/

/-- Table 2-1. The record's fields lie in their values. -/
def RecordLegal (r : ChannelRecord) : Prop :=
  1 ≤ r.gain ∧ r.gain ≤ 65000 ∧ -100000 ≤ r.offset ∧ r.offset ≤ 100000 ∧ 0 ≤ r.spike ∧ r.spike ≤ 100000 ∧
  1 ≤ r.decimation ∧ r.decimation ≤ 16 ∧
  match r.filter, r.weights with
  | .plain, none => r.window = 1
  | .mean, none => 2 ≤ r.window ∧ r.window ≤ 8
  | .weighted, some w => 2 ≤ r.window ∧ r.window ≤ 8 ∧ w.length = r.window ∧ (∀ x ∈ w, x ≤ 15) ∧ 1 ≤ w.sum
  | _, _ => False

/-- The fields by which CHANNEL_SET carries a record. -/
def fieldsOf (r : ChannelRecord) : ChannelFields :=
  { enabled := some r.enabled, node := nodeNum r.node, input := r.input.val, kind := some r.kind, gain := r.gain, offset := r.offset,
    spike := r.spike, filter := some r.filter, window := r.window, weights := r.weights, decimation := r.decimation }

/-- Table 2-1. The range of a kind. -/
def rangeOf : ChanKind → Int × Int
  | .temp => (-2000, 5000)
  | .press => (-1000, 99999)

/-- R22, R34. A value as it enters a window: clamped to the range, and marked when clamping changed it. -/
def entering (k : ChanKind) (v : Int) : WindowEntry :=
  { value := max (rangeOf k).1 (min (rangeOf k).2 v), clamped := decide (v < (rangeOf k).1 ∨ (rangeOf k).2 < v) }

/-- R26. The filtered value of a full window. -/
def filteredValue (r : ChannelRecord) (w : List WindowEntry) : Int :=
  let weights := r.weights.getD (List.replicate r.window 1)
  (List.zipWith (fun (a : Nat) (e : WindowEntry) => (a : Int) * e.value) weights w).sum.tdiv weights.sum

/-- R27, R28. The channel once an accepted value has been counted; whether it publishes. -/
def counted (ch : Channel) : Channel × Bool :=
  if ch.window.length = ch.record.window then
    if ch.record.decimation ≤ ch.decimationCount + 1 then ({ ch with state := .live, decimationCount := 0 }, true)
    else ({ ch with state := .live, decimationCount := ch.decimationCount + 1 }, false)
  else (ch, false)

/-- What a departure from LIVE, or a new content of a slot, may reach through its consumers (R46, R47). -/
def slotParts : List Part := [.slots, .drawn, .kegs, .phases, .chl, .man, .taps, .up, .atn, .free]

/-- The channel feeds a keg that is SCHEDULED or SERVING (R33). -/
def FeedsActiveKeg (c : Chan) (s : State) : Prop :=
  ∃ b, (s.rte.routes[c].dest = some (.kegCore b) ∨ s.rte.routes[c].dest = some (.kegWall b) ∨ s.rte.routes[c].dest = some (.kegPress b)) ∧
    ((s.keg b).phase = .scheduled ∨ (s.keg b).phase = .serving)

/-- Table 3-1. A kind suits a route's destination; both suit NONE. -/
def Suits (k : ChanKind) : Option Dest → Prop
  | none => True
  | some (.kegPress _) | some .manifold | some .cylinder => k = .press
  | some _ => k = .temp

/-- The destination as ROUTE_LOAD names it. -/
def destCode : Option Dest → DestCode
  | none => .nowhere
  | some (.kegCore b) => .kegCore (bayNum b)
  | some (.kegWall b) => .kegWall (bayNum b)
  | some (.kegPress b) => .kegPress (bayNum b)
  | some .manifold => .manifold
  | some .cylinder => .cylinder
  | some (.line t) => .line (tapNum t)
  | some .glycol => .glycol
  | some .ambient => .ambient

/-- The entries by which ROUTE_LOAD carries a table. -/
def routeFields (v : Vector Route 24) : List RouteFields := v.toList.map fun r => { dest := destCode r.dest, divider := r.divider }

/-- R43. Channel `c` offends by DUPLICATE. -/
def Duplicate (v : Vector Route 24) (c : Chan) : Prop := ∃ d, v[c].dest = some d ∧ ∃ c' : Chan, c' < c ∧ v[c'].dest = some d

/-- R43. Channel `c` offends by KIND. -/
def WrongKind (v : Vector Route 24) (s : State) (c : Chan) : Prop := ¬ Suits (s.chan c).record.kind v[c].dest

end Sys2Proof.Claims

/-! ## Channels -/

/-- R32, R33. CHANNEL_SET: refused where it is not available, for a field that Table 2-1 does not allow, and for a kind that does not suit the route;
otherwise the record is replaced and the channel starts from an empty window, and the slot that it fed while LIVE is emptied. -/
def Obligations.ChannelSetRestartsTheChannel : Prop :=
  ∀ (tag : Byte) (c : Chan) (s : State),
    (∀ f, s.mgp.part = .running → FeedsActiveKeg c s →
      RefusedWith tag (.channelSet (.params { channel := c.val, fields := f })) 1 .notAvailable .nothing s) ∧
    (∀ f, (s.mgp.part = .held ∨ ¬ FeedsActiveKeg c s) → (∀ r, RecordLegal r → f ≠ fieldsOf r) →
      RefusedWith tag (.channelSet (.params { channel := c.val, fields := f })) 1 .badValue .nothing s) ∧
    ∀ r, RecordLegal r → (s.mgp.part = .held ∨ ¬ FeedsActiveKeg c s) →
      (¬ Suits r.kind s.rte.routes[c].dest →
        RefusedWith tag (.channelSet (.params { channel := c.val, fields := fieldsOf r })) 1 .badRoute .nothing s) ∧
      (Suits r.kind s.rte.routes[c].dest →
        CarriedOut tag (.channelSet (.params { channel := c.val, fields := fieldsOf r })) 1 .nothing id ([.records, .chans] ++ slotParts) s fun t =>
          t.chan c = { record := r, state := if r.enabled then .priming else .off, window := [], rejectRun := 0, decimationCount := 0, subst := .off } ∧
          (∀ c' : Chan, c' ≠ c → t.chan c' = s.chan c') ∧
          ((s.chan c).state ≠ .live → Touches ([.records, .chans] ++ eventParts ++ answerParts) s t) ∧
          (∀ d, (s.chan c).state = .live → s.rte.routes[c].dest = some d → t.rte.slots[destIdx d] = none))

/-- R34. CHANNEL_SEED: NOT_AVAILABLE in OFF and STALE, BAD_VALUE out of range; otherwise the window is filled with the clamped value,
the channel is LIVE, and it publishes to its slot.
R35, R36, R37. CHANNEL_SUBST: BAD_VALUE for a value outside the kind's range; otherwise the substitution is set, and CONST and ALT on a keg's core or wall
channel end every pour from that keg. A LIVE channel publishes at once: the substitute, or with OFF its filtered value; one routed to NONE fills no slot.
A channel that is not LIVE publishes nothing. -/
def Obligations.ChannelSeedAndSubst : Prop :=
  (∀ (tag : Byte) (c : Chan) (v : Int) (s : State),
     ((s.chan c).state = .off ∨ (s.chan c).state = .stale →
       RefusedWith tag (.channelSeed (.params { channel := c.val, value := v })) 6 .notAvailable .nothing s) ∧
     ((s.chan c).state = .priming ∨ (s.chan c).state = .live → v < -100000 ∨ 100000 < v →
       RefusedWith tag (.channelSeed (.params { channel := c.val, value := v })) 6 .badValue .nothing s) ∧
     ((s.chan c).state = .priming ∨ (s.chan c).state = .live → -100000 ≤ v → v ≤ 100000 → RecordLegal (s.chan c).record →
       CarriedOut tag (.channelSeed (.params { channel := c.val, value := v })) 6 .nothing id ([.chans, .counts] ++ slotParts) s fun t =>
         let e := entering (s.chan c).record.kind v
         { t.chan c with subst := (s.chan c).subst } = { s.chan c with
           state := .live, window := List.replicate (s.chan c).record.window e, rejectRun := 0, decimationCount := 0 } ∧
         (∀ c' : Chan, c' ≠ c → t.chan c' = s.chan c') ∧
         ∀ d, s.rte.routes[c].dest = some d → t.rte.slots[destIdx d] = some (match (s.chan c).subst with
           | .off => { value := e.value, marks := if e.clamped then .clamp else .none, channel := c }
           | .const x => { value := x, marks := .subst, channel := c }
           | .alt v1 v2 second => { value := if second then v2 else v1, marks := .subst, channel := c }))) ∧
  (∀ (tag : Byte) (c : Chan) (s : State),
     let inRange := fun v : Int => (rangeOf (s.chan c).record.kind).1 ≤ v ∧ v ≤ (rangeOf (s.chan c).record.kind).2
     (∀ v, ¬ inRange v → RefusedWith tag (.channelSubst (.params { channel := c.val, setting := .const v })) 7 .badValue .nothing s) ∧
     (∀ v1 v2, ¬ (inRange v1 ∧ inRange v2) →
       RefusedWith tag (.channelSubst (.params { channel := c.val, setting := .alt v1 v2 })) 7 .badValue .nothing s) ∧
     ∀ (code : SubstCode) (x : Subst),
       (code = .off ∧ x = .off ∨ (∃ v, inRange v ∧ code = .const v ∧ x = .const v) ∨
         ∃ v1 v2, inRange v1 ∧ inRange v2 ∧ code = .alt v1 v2 ∧ x = .alt v1 v2 false) →
       CarriedOut tag (.channelSubst (.params { channel := c.val, setting := code })) 7 .nothing id ([.chans, .counts] ++ slotParts) s fun t =>
         { t.chan c with subst := (s.chan c).subst } = s.chan c ∧ (∀ c' : Chan, c' ≠ c → t.chan c' = s.chan c') ∧
         ((s.chan c).state ≠ .live → (t.chan c).subst = x ∧ t.rte = s.rte) ∧
         (∀ v d, (s.chan c).state = .live → x = .const v → s.rte.routes[c].dest = some d →
           (t.chan c).subst = x ∧ t.rte.slots[destIdx d] = some { value := v, marks := .subst, channel := c }) ∧
         (∀ v1 v2 d, (s.chan c).state = .live → x = .alt v1 v2 false → s.rte.routes[c].dest = some d →
           (t.chan c).subst = .alt v1 v2 true ∧ t.rte.slots[destIdx d] = some { value := v1, marks := .subst, channel := c }) ∧
         (∀ d, (s.chan c).state = .live → x = .off → s.rte.routes[c].dest = some d → RecordLegal (s.chan c).record →
           (s.chan c).window.length = (s.chan c).record.window →
           (t.chan c).subst = .off ∧ t.rte.slots[destIdx d] = some
             { value := filteredValue (s.chan c).record (s.chan c).window
               marks := if ∃ e ∈ (s.chan c).window, e.clamped = true then .clamp else .none, channel := c }) ∧
         ((s.chan c).state = .live → s.rte.routes[c].dest = none →
           { t.rte with counts := s.rte.counts } = s.rte ∧
           (t.chan c).subst = match x with
             | .alt v1 v2 _ => .alt v1 v2 true
             | y => y) ∧
         (∀ b, x ≠ .off → (s.rte.routes[c].dest = some (.kegCore b) ∨ s.rte.routes[c].dest = some (.kegWall b)) →
           ∀ y : Tap, ∀ p, (t.tapRec y).pour = some p → p.bay ≠ b))

/-- R22 to R28. A reading is scaled, rounded toward zero and clamped; the third stray in a row reseeds the window, the first two are rejected, and any other
value joins the window; an accepted value in a full window counts toward decimation; a publication carries the substitute or the filtered value. -/
def Obligations.AReadingIsConditioned : Prop :=
  ∀ (ch : Channel) (raw : Nat), RecordLegal ch.record →
    let e := entering ch.record.kind (((raw * ch.record.gain / 1000 : Nat) : Int) + ch.record.offset)
    let full := ch.window.length = ch.record.window
    let strays := ch.record.spike ≠ 0 ∧ full ∧
      (ch.record.spike < e.value - filteredValue ch.record ch.window ∨ ch.record.spike < filteredValue ch.record ch.window - e.value)
    (strays → ch.rejectRun < 2 → ch.condition raw = ({ ch with rejectRun := ch.rejectRun + 1 }, false)) ∧
    (strays → 2 ≤ ch.rejectRun → ch.condition raw = counted { ch with window := ch.window.map fun _ => e, rejectRun := 0 }) ∧
    (¬ strays → full → ch.condition raw = counted { ch with window := ch.window.drop 1 ++ [e], rejectRun := 0 }) ∧
    (¬ strays → ¬ full → ch.condition raw = counted { ch with window := ch.window ++ [e], rejectRun := 0 }) ∧
    (full → ch.publication = match ch.subst with
      | .off => (filteredValue ch.record ch.window, if ∃ x ∈ ch.window, x.clamped = true then .clamp else .none)
      | .const v => (v, .subst)
      | .alt v1 v2 second => (if second then v2 else v1, .subst))

/-- R15, R21. A reply's readings are conditioned by the PRIMING and LIVE channels of its node, each by its own input, and by no other channel;
what a channel publishes is stored in the slot of its route. This holds whether or not the reply hands over tap-panel data as well, wherever among
the publications that is taken (log 6). -/
def Obligations.ReadingsReachTheirChannels : Prop :=
  ∀ (n : Node) (r : Reply) (s : State),
    Touches ([.chans, .counts] ++ slotParts ++ [.image]) s (takeReadings n r s) ∧
    (∀ first, Touches ([.chans, .counts, .volumes, .pourless] ++ slotParts ++ [.image]) s (handOver n r first s) ∧
      (r.panel = none → handOver n r first s = takeReadings n r s)) ∧
    ∀ t : State, (t = takeReadings n r s ∨ ∃ first, t = handOver n r first s) → ∀ c : Chan,
      ((s.chan c).record.node ≠ n ∨ (s.chan c).state = .off ∨ (s.chan c).state = .stale → t.chan c = s.chan c) ∧
      ((s.chan c).record.node = n → ((s.chan c).state = .priming ∨ (s.chan c).state = .live) →
        let next := (s.chan c).condition (r.inputs[(s.chan c).record.input]).toNat
        (next.2 = false → t.chan c = next.1) ∧
        (next.2 = true → t.chan c = { next.1 with subst := next.1.subst.next } ∧
          ∀ d, s.rte.routes[c].dest = some d → (∀ c' : Chan, c' ≠ c → s.rte.routes[c'].dest ≠ some d) →
            t.rte.slots[destIdx d] = some { value := next.1.publication.1, marks := next.1.publication.2, channel := c }))

/-! ## Routes -/

/-- R43. ROUTE_LOAD in HELD with valid fields: a table in which some channel offends is refused with BAD_ROUTE, naming the lowest-numbered
offending channel and its case, DUPLICATE before KIND; nothing changes.
R42, R44, R165. ROUTE_LOAD: NOT_AVAILABLE in RUNNING, BAD_VALUE for an unknown destination; a table without an offence replaces the routes,
empties every slot with its delivery, so that a SCHEDULED or SERVING keg whose pressure or whose control temperature goes is halted for a sensor (R63),
and a manifold whose sensing goes is DOWN, clears the report counts, and sets the route half of the run gate and clears the tap half. -/
def Obligations.RouteLoadJudgesAndReplacesTheTable : Prop :=
  (∀ (tag : Byte) (v : Vector Route 24) (s : State) (c : Chan), s.mgp.part = .held →
     (∀ c' : Chan, c' < c → ¬ Duplicate v c' ∧ ¬ WrongKind v s c') →
     (Duplicate v c → RefusedWith tag (.routeLoad (.params (routeFields v))) 2 .badRoute (.badRoute c .duplicate) s) ∧
     (¬ Duplicate v c → WrongKind v s c → RefusedWith tag (.routeLoad (.params (routeFields v))) 2 .badRoute (.badRoute c .kind) s)) ∧
  ((∀ tag l s, l.length = 24 → s.mgp.part = .running → RefusedWith tag (.routeLoad (.params l)) 2 .notAvailable .nothing s) ∧
   (∀ tag l s, l.length = 24 → s.mgp.part = .held → (∃ f ∈ l, ∀ d, f.dest ≠ destCode d) →
     RefusedWith tag (.routeLoad (.params l)) 2 .badValue .nothing s) ∧
   ∀ (tag : Byte) (v : Vector Route 24) (s : State), s.mgp.part = .held → (∀ c : Chan, ¬ Duplicate v c ∧ ¬ WrongKind v s c) →
     CarriedOut tag (.routeLoad (.params (routeFields v))) 2 .nothing (fun m => { m with routeHalf := true, tapHalf := false })
       ([.routes, .counts] ++ slotParts) s fun t =>
       t.rte.routes = v ∧ (∀ i : Fin 24, t.rte.slots[i] = none ∧ t.rte.counts[i] = 0) ∧
       (∀ (b : Bay) (ph : ActivePhase), (s.keg b).phase = ph.phase →
         (s.rte.slots[destIdx (.kegPress b)] ≠ none ∨
           (s.rte.lastControl[b] ≠ none ∧ (s.rte.slots[destIdx (.kegCore b)] ≠ none ∨ s.rte.slots[destIdx (.kegWall b)] ≠ none))) →
         (t.keg b).phase = .halted ∧ (t.keg b).prior = some ph ∧ (t.keg b).haltReason = some .sensor ∧ (t.keg b).underControl = false ∧
         t.atn[Flag.kegHalted.idx].pending = true ∧ bayNum b ∈ t.atn[Flag.kegHalted.idx].index) ∧
       (∀ b : Bay, (s.keg b).phase ≠ .vacant →
         (s.rte.slots[destIdx (.kegPress b)] ≠ none → (t.keg b).sensedPressure = none) ∧
         (s.rte.lastControl[b] ≠ none → (s.rte.slots[destIdx (.kegCore b)] ≠ none ∨ s.rte.slots[destIdx (.kegWall b)] ≠ none) →
           (t.keg b).sensedTemp = none ∧ t.rte.lastControl[b] = none)) ∧
       ((s.rte.slots[destIdx .manifold] ≠ none ∨ s.rte.slots[destIdx .cylinder] ≠ none) → t.man.state = .down))

/-- R49. The control temperature of a bay by its keg's sense mode and its two slots; nothing is delivered about a VACANT bay,
whose slots still take publications. -/
def Obligations.TheControlTemperatureIsDerived : Prop :=
  ∀ (b : Bay) (s : State),
    let core := s.rte.slots[destIdx (.kegCore b)]
    let wall := s.rte.slots[destIdx (.kegWall b)]
    let mode := (s.keg b).mode
    ((s.keg b).phase = .vacant → controlTemp b s = none ∧ (∀ draws, deliverControl b draws s = s) ∧
      ∀ (c : Chan) (v : Int) (m : Marks) (d : Dest), s.rte.routes[c].dest = some d → (d = .kegCore b ∨ d = .kegWall b ∨ d = .kegPress b) →
        (storePublication c v m s).rte.slots[destIdx d] = some { value := v, marks := m, channel := c }) ∧
    ((s.keg b).phase ≠ .vacant →
      (∀ c, core = some c → (mode = .core ∨ (mode = .mean ∧ wall = none)) →
        controlTemp b s = some { value := c.value, substituted := decide (c.marks = .subst) }) ∧
      (∀ w, wall = some w → (mode = .wall ∨ (mode = .mean ∧ core = none)) →
        controlTemp b s = some { value := w.value, substituted := decide (w.marks = .subst) }) ∧
      (∀ c w, core = some c → wall = some w → mode = .mean →
        controlTemp b s = some { value := (c.value + w.value).tdiv 2, substituted := decide (c.marks = .subst ∨ w.marks = .subst) }) ∧
      ((mode = .core → core = none) → (mode = .wall → wall = none) → (mode = .mean → core = none ∧ wall = none) → controlTemp b s = none))

namespace Sys2Proof.Claims

open Sys2Proof.Machine Sys2Proof.Safety

/-! ## Vocabulary: deliveries -/

/-- R50. The control temperature of bay `b` has been derived afresh from `s`, the change at hand being one that an available result draws on when `draws` holds:
a new control temperature, unavailability after an available delivery, or nothing. -/
def ControlDelivered (b : Bay) (draws : Prop) (s t : State) : Prop :=
  let told := fun x : Option ControlTemp => { s with rte := { s.rte with lastControl := upd s.rte.lastControl b fun _ => x } }
  ((s.keg b).phase = .vacant → t = s) ∧
  ((s.keg b).phase ≠ .vacant →
    (∀ x, controlTemp b s = some x → (draws → t = controlValue b x (told (some x))) ∧ (¬ draws → t = s)) ∧
    (controlTemp b s = none → (s.rte.lastControl[b] ≠ none → t = controlLost b (told none)) ∧ (s.rte.lastControl[b] = none → t = s)))

/-- R46, Table 3-1. The new value `v` of destination `d`, stored in `s`, has been delivered to its consumers. A LINE value reaches the CHL before the TAP (log 5). -/
def Delivered (d : Dest) (v : Int) (s t : State) : Prop :=
  match d with
  | .kegCore b => ControlDelivered b ((s.keg b).mode = .core ∨ (s.keg b).mode = .mean) s t
  | .kegWall b => ControlDelivered b ((s.keg b).mode = .wall ∨ (s.keg b).mode = .mean) s t
  | .kegPress b => t = pressureValue b v s
  | .manifold => t = sensingTest (settleTest v s)
  | .cylinder => t = sensingTest s
  | .line y => t = tryStart y (lineEval y v s)
  | .glycol => t = guardEval v s
  | .ambient => t = s

/-- The parts that the report count of R51 may reach. -/
def reportParts : List Part := [.counts, .up, .atn]

end Sys2Proof.Claims

/-- R46, R50, R51, Table 3-1. A publication is stored in the slot of its route and in no other, delivered to the slot's consumers, and then counted: the divider's count
is reached with a REPORT frame, handed over behind whatever the delivery put in the upward queue, and starts again from 0.
That a LINE value reaches the CHL before the TAP is the model's choice (log 5).
R50. A new control temperature is kept by the keg and evaluated by its thermostat, and a substituted one then ends the keg's pours (log 5); one that goes halts a
SCHEDULED or SERVING keg (R63).
R124. Sensing complete again, the manifold leaves DOWN, for LOCKOUT with LEAK latched. R152, R153. A line value that is cold starts a granted pour that waits; its wait timer
keeps its last count (log 37, the model's choice). -/
def Obligations.APublicationIsStoredDeliveredAndCounted : Prop :=
  (∀ (c : Chan) (v : Int) (m : Marks) (s : State),
    let t := storePublication c v m s
    let k := s.rte.routes[c].divider.toNat
    Touches (.counts :: .image :: slotParts) s t ∧
    (∀ i : Fin 24, t.rte.slots[i] =
      if s.rte.routes[c].dest.map destIdx = some i then some { value := v, marks := m, channel := c } else s.rte.slots[i]) ∧
    (∀ c' : Chan, c' ≠ c → t.rte.counts[c'] = s.rte.counts[c']) ∧
    (k = 0 → t.rte.counts[c] = s.rte.counts[c]) ∧
    (k ≠ 0 → s.rte.counts[c] + 1 ≠ k → t.rte.counts[c] = s.rte.counts[c] + 1) ∧
    (k ≠ 0 → s.rte.counts[c] + 1 = k → t.rte.counts[c] = 0) ∧
    (s.rte.routes[c].dest = none → k ≠ 0 → s.rte.counts[c] + 1 = k → s.mgp.up.length < 8 →
      t.mgp.up = s.mgp.up ++ [.report { tag := s.mgp.seq, channel := c, dest := none, value := v, marks := m, state := (s.chan c).state }]) ∧
    (k ≠ 0 → s.rte.counts[c] + 1 = k → s.mgp.up.length < 5 →
      ∃ sent, t.mgp.up = s.mgp.up ++ sent ++ [.report
        { tag := t.mgp.seq - 1, channel := c, dest := s.rte.routes[c].dest, value := v, marks := m, state := (s.chan c).state }] ∧
        ∀ f ∈ sent, ∀ r, f ≠ .report r) ∧
    (s.rte.routes[c].dest = none → Touches reportParts s t ∧ (k = 0 → t = s)) ∧
    (∀ d, s.rte.routes[c].dest = some d →
      ∃ u, Delivered d v { s with rte := { s.rte with slots := upd s.rte.slots (destIdx d) fun _ => some { value := v, marks := m, channel := c } } } u ∧
        Touches reportParts u t ∧ (k = 0 → t = u))) ∧
  (∀ (b : Bay) (x : ControlTemp) (s : State),
    let kept : State := { s with kegs := upd s.kegs b fun k => { k with sensedTemp := some x } }
    let t := controlValue b x s
    (t.keg b).sensedTemp = some x ∧
    (x.substituted = false → s.thermo b = none → t = kept) ∧
    (∀ th, x.substituted = false → s.thermo b = some th →
      t = thermoEval b { kept with chl := { s.chl with thermos := upd s.chl.thermos b fun _ => some { th with temp := x.value } } }) ∧
    (x.substituted = true → ∀ y p, (s.tapRec y).pour = some p →
      p.bay = b → (t.tapRec y).pour = none ∧
        (s.mgp.up.length < 12 → ∃ tag : Byte, UpFrame.pourRecord
          { tag := tag, number := p.number, tap := y, bay := some b, source := p.source, target := p.target, metered := p.metered,
            refused := false, reason := .substituted } ∈ t.mgp.up))) ∧
  (∀ (b : Bay) (s : State),
    let t := controlLost b s
    (t.keg b).sensedTemp = none ∧
    (∀ ph : ActivePhase, (s.keg b).phase = ph.phase →
      (t.keg b).phase = .halted ∧ (t.keg b).prior = some ph ∧ (t.keg b).haltReason = some .sensor ∧ (t.keg b).underControl = false ∧
      t.atn[Flag.kegHalted.idx].pending = true ∧ bayNum b ∈ t.atn[Flag.kegHalted.idx].index) ∧
    ((s.keg b).phase ≠ .scheduled → (s.keg b).phase ≠ .serving → t = { s with kegs := upd s.kegs b fun k => { k with sensedTemp := none } })) ∧
  (∀ s : State,
    let complete := s.man.nodeOnline = true ∧ s.rte.slots[destIdx .manifold] ≠ none ∧ s.rte.slots[destIdx .cylinder] ≠ none
    let t := sensingTest s
    (s.man.state ≠ .down ∨ ¬ complete → t = s) ∧
    (s.man.state = .down → complete → s.man.leak = true → t = { s with man := { s.man with state := .lockout } }) ∧
    (s.man.state = .down → complete → s.man.leak = false → s.man.queue = [] → t = { s with man := { s.man with state := .idle } })) ∧
  (∀ (y : Tap) (s : State),
    let r := s.tapRec y
    let cold := ∃ x, s.rte.slots[destIdx (.line y)] = some x ∧ x.value ≤ r.set.lineLimit
    let t := tryStart y s
    (∀ p, r.pour = some p → p.pouring = false → p.granted = true → cold → r.state ≠ .purging →
      (t.tapRec y) = { r with state := .pouring, pour := some { p with pouring := true, baseline := r.lastFlow.getD 0, carry := 0, stall := 0 } } ∧
      (owner (.tapValve y) s = some .tap → t.out (.tapValve y) = 1) ∧ Touches [.image, .taps] s t) ∧
    ((∀ p, r.pour = some p → p.pouring = false → p.granted = true → cold → r.state = .purging) → t = s))

namespace Sys2Proof.Claims

open Sys2Proof.Machine Sys2Proof.Safety

/-! ## Vocabulary: kegs and steps -/

/-- What work on one keg may reach. -/
def kegParts : List Part := [.chl, .man, .kegs, .phases, .taps, .up, .atn, .free]

/-- The flag is pending with `n` in its index set. -/
def Raised (f : Flag) (n : Nat) (t : State) : Prop := t.atn[f.idx].pending = true ∧ n ∈ t.atn[f.idx].index

/-- R63. The keg is blind: its bay node is LOST, or its temperature or its pressure is unavailable. -/
def Blind (b : Bay) (s : State) : Prop :=
  (s.node (bayNode b)).state = .lost ∨ (s.keg b).sensedTemp = none ∨ (s.keg b).sensedPressure = none

/-- R55, R63, R64. The keg of bay `b` has entered `ph`: it is halted at once when it is blind, and otherwise under control in RUNNING. -/
def Enters (b : Bay) (ph : ActivePhase) (s t : State) : Prop :=
  (Blind b s → (t.keg b).phase = .halted ∧ (t.keg b).prior = some ph ∧ (t.keg b).underControl = false ∧ Raised .kegHalted (bayNum b) t ∧
    (t.keg b).haltReason = some (if (s.node (bayNode b)).state = .lost then .node else .sensor)) ∧
  (¬ Blind b s → (t.keg b).phase = ph.phase ∧ (s.mgp.part = .running → (t.keg b).underControl = true))

/-- R48. A destination is fed: an enabled channel is routed to it. -/
def Fed (d : Dest) (s : State) : Prop := ∃ c : Chan, s.rte.routes[c].dest = some d ∧ (s.chan c).record.enabled = true

/-- R48. The control temperature of bay `b` is routed under `mode`. -/
def TempRouted (b : Bay) (mode : SenseMode) (s : State) : Prop :=
  match mode with
  | .core => Fed (.kegCore b) s
  | .wall => Fed (.kegWall b) s
  | .mean => Fed (.kegCore b) s ∨ Fed (.kegWall b) s

/-- R48. The keg's temperature and pressure are routed. -/
def Routed (b : Bay) (s : State) : Prop := TempRouted b (s.keg b).mode s ∧ Fed (.kegPress b) s

/-- R83, Table 5-2. A step's parameters lie in their ranges. -/
def StepLegal (maxPressure : Int) : Step → Prop
  | .hold target duration vent => -200 ≤ target ∧ target ≤ 3500 ∧ 1 ≤ duration ∧ duration ≤ 65535 ∧ ∀ v, vent = some v → 300 ≤ v ∧ v ≤ 3500
  | .ramp target rate vent => -200 ≤ target ∧ target ≤ 3500 ∧ 1 ≤ rate ∧ rate ≤ 500 ∧ ∀ v, vent = some v → 300 ≤ v ∧ v ≤ 3500
  | .quiet target threshold maximum vent =>
    -200 ≤ target ∧ target ≤ 3500 ∧ 0 ≤ threshold ∧ threshold ≤ 20 ∧ 60 ≤ maximum ∧ maximum ≤ 65535 ∧ ∀ v, vent = some v → 300 ≤ v ∧ v ≤ 3500
  | .carb target pressure settle =>
    -200 ≤ target ∧ target ≤ 3500 ∧ 500 ≤ pressure ∧ pressure ≤ 3500 ∧ pressure ≤ maxPressure ∧ 10 ≤ settle ∧ settle ≤ 1440
  | .serve temperature pressure => -200 ≤ temperature ∧ temperature ≤ 2500 ∧ 300 ≤ pressure ∧ pressure ≤ 2500
  | .endStep => True

/-- R83. The list holds 1 to 16 legal steps, with a terminal nowhere but last. -/
def StepsLegal (maxPressure : Int) (l : List Step) : Prop :=
  1 ≤ l.length ∧ l.length ≤ 16 ∧ (∀ x ∈ l, StepLegal maxPressure x) ∧ ∀ x ∈ l.dropLast, ¬ isTerminal x = true

/-- R85. The entries have left the chain of bay `b` and stand at the tail of the free list, in chain order; `rest` is the chain left. -/
def ReturnedTo (b : Bay) (l rest : List PoolIx) (s t : State) : Prop :=
  t.sch.freeList = s.sch.freeList ++ l ∧ (t.keg b).chain = rest ∧ ∀ i ∈ l, t.sch.pool[i] = none

/-- R89. The value a RAMP starts from: the setpoint as it stands, otherwise the sensed temperature, otherwise the target. -/
def rampFrom (setpoint sensed : Option Int) (target : Int) : Int := (setpoint <|> sensed).getD target

/-- R89, R93. The steps from the first that does not complete at its entry, and the setpoint that stands then:
a RAMP that starts at its target is passed over. -/
def passOver (sensed : Option Int) : Option Int → List Step → Option Int × List Step
  | sp, .ramp target rate v :: rest =>
    if rampFrom sp sensed target = target then passOver sensed (some target) rest else (sp, .ramp target rate v :: rest)
  | sp, l => (sp, l)

/-- R86 to R92. What the entry of a step that stays makes of the keg: elapsed time 0, and setpoint, vent limit, ramp timer and settle timer by its kind. -/
def StepBegun (sp sensed : Option Int) (x : Step) (k : Keg) : Prop :=
  k.elapsed = 0 ∧
  match x with
  | .hold target _ v | .quiet target _ _ v => k.setpoint = some target ∧ k.ventLimit = v ∧ k.ramp = none ∧ k.settle = none
  | .ramp target _ v => k.setpoint = some (rampFrom sp sensed target) ∧ k.ventLimit = v ∧ k.ramp = some 0 ∧ k.settle = none
  | .carb target _ _ => k.setpoint = some target ∧ k.ventLimit = none ∧ k.ramp = none ∧ k.settle = some 0
  | .serve _ _ | .endStep => False

/-- R86, R93 to R95. The chain `l` of bay `b`, each entry with its step, has been entered at its head, `free` being the free list until then.
Steps that complete at their entry are passed over, their entries returned. The next step is entered and stays; a terminal returns its entry and
ends the schedule, SERVE making the keg SERVING and END STANDBY; and at the end of the chain the schedule runs out.
`stays` is what holds of a keg that stays SCHEDULED. -/
def ChainEntered (b : Bay) (free : List PoolIx) (l : List (PoolIx × Step)) (stays : Prop) (s t : State) : Prop :=
  let sensed := (s.keg b).sensedTemp.map (·.value)
  let (sp, steps) := passOver sensed (s.keg b).setpoint (l.map (·.2))
  let passed := (l.map (·.1)).take (l.length - steps.length)
  let left := (l.map (·.1)).drop (l.length - steps.length)
  let gone := t.sch.freeList = free ++ l.map (·.1) ∧ (∀ i ∈ l.map (·.1), t.sch.pool[i] = none) ∧ (t.keg b).chain = [] ∧
    Raised .scheduleDone (bayNum b) t ∧ (t.keg b).elapsed = 0 ∧ (t.keg b).ramp = none ∧ (t.keg b).settle = none ∧ (t.keg b).ventLimit = none
  match steps with
  | [] => gone ∧ (t.keg b).setpoint = sp ∧ stays
  | .serve temperature pressure :: _ =>
    gone ∧ (t.keg b).serveTemp = some temperature ∧ (t.keg b).servePressure = some pressure ∧ (t.keg b).setpoint = some temperature ∧
    Enters b .serving s t
  | .endStep :: _ => gone ∧ (t.keg b).phase = .standby ∧ (t.keg b).underControl = false ∧ (t.keg b).setpoint = sp
  | x :: _ => t.sch.freeList = free ++ passed ∧ (∀ i ∈ passed, t.sch.pool[i] = none) ∧ (t.keg b).chain = left ∧ StepBegun sp sensed x (t.keg b) ∧ stays

/-- R93. The step at the head `i` of the chain `i :: rest` has completed: its entry is back on the free list, and the chain that is left has been entered. -/
def Completed (b : Bay) (i : PoolIx) (rest : List PoolIx) (s t : State) : Prop :=
  t.sch.pool[i] = none ∧ (∀ j ∈ (t.keg b).chain, t.sch.pool[j] = s.sch.pool[j]) ∧
  ChainEntered b (s.sch.freeList ++ [i]) (rest.filterMap fun j => s.sch.pool[j].map fun e => (j, e.step))
    ((t.keg b).phase = .scheduled ∧ (t.keg b).underControl = (s.keg b).underControl ∧ (t.keg b).chargePending = false) s t

/-- R87. The keg's step timers count and its current step is `x`, at the head `i` of its chain; a second has been counted (R87). -/
def Steps (b : Bay) (i : PoolIx) (rest : List PoolIx) (x : Step) (s : State) : Prop :=
  Awake s ∧ s.mgp.part = .running ∧ PoolOk s ∧ (s.keg b).underControl = true ∧ (s.keg b).phase = .scheduled ∧ (s.keg b).counted = true ∧
  (s.keg b).chain = i :: rest ∧ s.sch.pool[i] = some { bay := b, step := x }

/-- R74, R92. The keg is under control, and raises its CHARGE at pressure `target`: its serve pressure in SERVING, its CARB step's target pressure in SCHEDULED. -/
def ChargesAt (b : Bay) (target : Int) (s : State) : Prop :=
  (s.keg b).underControl = true ∧
  ((s.keg b).phase = .serving ∧ (s.keg b).servePressure = some target ∨
    (s.keg b).phase = .scheduled ∧ ∃ temperature settle, currentStep b s = some (.carb temperature target settle))

/-- R92, R127. No CHARGE has come of it: the MAN is as it was, and so is the keg's charge-pending mark. -/
def NoCharge (b : Bay) (s t : State) : Prop := t.man = s.man ∧ (t.keg b).chargePending = (s.keg b).chargePending

/-- The operation record of a need just taken into service (R123, R128). -/
def settlingOp (n : GasNeed) (p : Int) (pours : List SetPour) : Operation :=
  { need := n, pressure := p, sub := .settling, settle := 0, work := none, pours := pours, p0 := none }

/-- The parts that a step's completion may reach. -/
def stepParts : List Part := kegParts ++ [.sch, .chains, .released]

end Sys2Proof.Claims

/-! ## Kegs -/

/-- R57, Table 4-1. KEG_LOAD: NOT_AVAILABLE unless VACANT, BAD_VALUE for a volume or mode it does not take; otherwise the record is as the table's last
column has it, with the pressure of its slot and the first derivation of its control temperature, and its charge-pending mark clear (log 38, the model's choice). -/
def Obligations.KegLoadMakesAStandbyKeg : Prop :=
  ∀ (tag : Byte) (b : Bay) (s : State),
    (∀ v m, (s.keg b).phase ≠ .vacant →
      RefusedWith tag (.kegLoad (.params { bay := bayNum b, volume := v, mode := m })) 11 .notAvailable .nothing s) ∧
    (∀ v m, (s.keg b).phase = .vacant → (v < 0 ∨ 20000 < v ∨ m = none) →
      RefusedWith tag (.kegLoad (.params { bay := bayNum b, volume := v, mode := m })) 11 .badValue .nothing s) ∧
    ∀ (v : Nat) (m : SenseMode), (s.keg b).phase = .vacant → v ≤ 20000 →
      CarriedOut tag (.kegLoad (.params { bay := bayNum b, volume := v, mode := some m })) 11 .nothing id
        (kegParts ++ [.chains, .volumes, .drawn]) s fun t =>
        (∀ b' : Bay, b' ≠ b → (t.keg b').phase = (s.keg b').phase ∧ (t.keg b').chain = (s.keg b').chain ∧ (t.keg b').remaining = (s.keg b').remaining) ∧
        (t.keg b).sensedTemp = senseTemp m s.rte.slots[destIdx (.kegCore b)] s.rte.slots[destIdx (.kegWall b)] ∧
        { t.keg b with sensedTemp := none } =
          { phase := .standby, prior := none, haltReason := none, loaded := v, remaining := v, mode := m, band := 50, maxPressure := 3000,
            setpoint := none, serveTemp := none, servePressure := none, ventLimit := none, ventOpen := false, relief := false,
            buckets := #v[0, 0, 0, 0, 0, 0], activity := 0, pours := 0, chain := [], elapsed := 0, ramp := none, settle := none,
            chargePending := false, counted := false, sensedTemp := none,
            sensedPressure := (s.rte.slots[destIdx (.kegPress b)]).map (·.value), underControl := false }

/-- R59, R55. KEG_SERVE: NOT_AVAILABLE, BAD_VALUE and BAD_ROUTE in that order; otherwise the keg is SERVING at the request's temperature and pressure.
R63, R64. A keg that is blind, its bay node LOST or an input unavailable, enters SERVING and is HALTED at once, in either part state, with KEG_HALTED raised and the request's
temperature, pressure and setpoint kept, as the model reads R59 and R63 together (log 15). -/
def Obligations.KegServeMakesAServingKeg : Prop :=
  ∀ (tag : Byte) (b : Bay) (temperature pressure : Int) (s : State),
    let r : Request := .kegServe (.params { bay := bayNum b, temperature := temperature, pressure := pressure })
    let available := ((s.keg b).phase = .standby ∨ (s.keg b).phase = .spent) ∧ 0 < (s.keg b).remaining
    let legal := -200 ≤ temperature ∧ temperature ≤ 2500 ∧ 300 ≤ pressure ∧ pressure ≤ 2500
    (¬ available → RefusedWith tag r 14 .notAvailable .nothing s) ∧
    (available → ¬ legal → RefusedWith tag r 14 .badValue .nothing s) ∧
    (available → legal → ¬ Routed b s → RefusedWith tag r 14 .badRoute .nothing s) ∧
    (available → legal → Routed b s → CarriedOut tag r 14 .nothing id (kegParts ++ [.released]) s fun t =>
      (t.keg b).serveTemp = some temperature ∧ (t.keg b).servePressure = some pressure ∧ (t.keg b).setpoint = some temperature ∧
      (t.keg b).ventLimit = none ∧ Enters b .serving s t ∧ ∀ b' : Bay, b' ≠ b → (t.keg b').phase = (s.keg b').phase)

/-- R58, R83. KEG_SCHEDULE: NOT_AVAILABLE, BAD_VALUE, NO_ROOM and BAD_ROUTE in that order; otherwise the steps take entries from the head of the
free list, the keg is SCHEDULED, and the chain is entered at its head (R86 to R95, every kind of step); a blind keg enters it too before it is halted,
as the model reads R58 and R63 (log 15).
R84, R83. KEG_APPEND: NOT_AVAILABLE unless SCHEDULED, BAD_VALUE for bad steps and behind a terminal, NO_ROOM; otherwise the steps join the tail of
the chain; a chain that was not empty goes on with its current step and timers, and an empty one is entered at its head. -/
def Obligations.ScheduleAndAppend : Prop :=
  (∀ (tag : Byte) (b : Bay) (s : State),
     (∀ l, (s.keg b).phase ≠ .standby →
       RefusedWith tag (.kegSchedule (.params { bay := bayNum b, steps := l })) 12 .notAvailable .nothing s) ∧
     (∀ l, (s.keg b).phase = .standby → (∀ steps, StepsLegal (s.keg b).maxPressure steps → l ≠ steps.map some) →
       RefusedWith tag (.kegSchedule (.params { bay := bayNum b, steps := l })) 12 .badValue .nothing s) ∧
     ∀ steps : List Step, (s.keg b).phase = .standby → StepsLegal (s.keg b).maxPressure steps →
       let r : Request := .kegSchedule (.params { bay := bayNum b, steps := steps.map some })
       let n := steps.length
       (s.sch.freeList.length < n → RefusedWith tag r 12 .noRoom .nothing s) ∧
       (n ≤ s.sch.freeList.length → ¬ Routed b s → RefusedWith tag r 12 .badRoute .nothing s) ∧
       (n ≤ s.sch.freeList.length → Routed b s → PoolOk s → (s.keg b).chain = [] →
         CarriedOut tag r 12 (.indices (s.sch.freeList.take n)) id stepParts s fun t =>
           ChainEntered b (s.sch.freeList.drop n) ((s.sch.freeList.take n).zip steps)
             (Enters b .scheduled s t ∧ (¬ Blind b s → (t.keg b).chargePending = false)) s t ∧
           (t.keg b).activity = 0 ∧
           ∀ p ∈ (s.sch.freeList.take n).zip steps, p.1 ∈ (t.keg b).chain → t.sch.pool[p.1] = some { bay := b, step := p.2 })) ∧
  (∀ (tag : Byte) (b : Bay) (s : State),
     (∀ l, (s.keg b).phase ≠ .scheduled → RefusedWith tag (.kegAppend (.params { bay := bayNum b, steps := l })) 13 .notAvailable .nothing s) ∧
     (∀ l, (s.keg b).phase = .scheduled → (∀ steps, StepsLegal (s.keg b).maxPressure steps → l ≠ steps.map some) →
       RefusedWith tag (.kegAppend (.params { bay := bayNum b, steps := l })) 13 .badValue .nothing s) ∧
     ∀ steps : List Step, (s.keg b).phase = .scheduled → StepsLegal (s.keg b).maxPressure steps →
       let r : Request := .kegAppend (.params { bay := bayNum b, steps := steps.map some })
       let n := steps.length
       let closed := ∃ i e, (s.keg b).chain.getLast? = some i ∧ s.sch.pool[i] = some e ∧ isTerminal e.step = true
       (closed → RefusedWith tag r 13 .badValue .nothing s) ∧
       (¬ closed → s.sch.freeList.length < n → RefusedWith tag r 13 .noRoom .nothing s) ∧
       (¬ closed → n ≤ s.sch.freeList.length → PoolOk s →
         CarriedOut tag r 13 (.indices (s.sch.freeList.take n)) id stepParts s fun t =>
           ((s.keg b).chain ≠ [] →
             t.kegs = upd s.kegs b (fun k => { k with chain := k.chain ++ s.sch.freeList.take n }) ∧
             t.sch.freeList = s.sch.freeList.drop n ∧
             ∀ (k : Nat) (i : PoolIx) (x : Step), (s.sch.freeList.take n)[k]? = some i → steps[k]? = some x →
               t.sch.pool[i] = some { bay := b, step := x }) ∧
           ((s.keg b).chain = [] →
             ChainEntered b (s.sch.freeList.drop n) ((s.sch.freeList.take n).zip steps)
               ((t.keg b).phase = .scheduled ∧ (t.keg b).underControl = (s.keg b).underControl ∧ (t.keg b).chargePending = false) s t ∧
             ∀ p ∈ (s.sch.freeList.take n).zip steps, p.1 ∈ (t.keg b).chain → t.sch.pool[p.1] = some { bay := b, step := p.2 })))

/-- R61, R62, R85. KEG_ABORT and KEG_REMOVE: NOT_AVAILABLE for a phase that is not aborted, BUSY while pours are in flight; otherwise the keg leaves control,
its chain returns to the free list head first, and it is STANDBY or VACANT; a VACANT keg's removal changes nothing. -/
def Obligations.AbortAndRemoveReturnTheChain : Prop :=
  ∀ (tag : Byte) (b : Bay) (s : State),
    let abort : Request := .kegAbort (.params { bay := bayNum b })
    let remove : Request := .kegRemove (.params { bay := bayNum b })
    let abortable := (s.keg b).phase = .scheduled ∨ (s.keg b).phase = .serving ∨ (s.keg b).phase = .halted
    (¬ abortable → RefusedWith tag abort 15 .notAvailable .nothing s) ∧
    (abortable → 0 < (s.keg b).pours → RefusedWith tag abort 15 .busy .nothing s) ∧
    (abortable → (s.keg b).pours = 0 → CarriedOut tag abort 15 .nothing id (kegParts ++ [.sch, .chains]) s fun t =>
      ReturnedTo b (s.keg b).chain [] s t ∧ (t.keg b).phase = .standby ∧ (t.keg b).prior = none ∧ (t.keg b).haltReason = none ∧
      (t.keg b).ventLimit = none ∧ (t.keg b).underControl = false ∧ (t.keg b).elapsed = 0 ∧
      ((s.keg b).relief = false → s.mgp.part = .running → t.out (.heater b) = 0 ∧ t.out (.cool b) = 0 ∧ t.out (.vent b) = 0)) ∧
    (0 < (s.keg b).pours → RefusedWith tag remove 17 .busy .nothing s) ∧
    ((s.keg b).pours = 0 → (s.keg b).phase = .vacant → CarriedOut tag remove 17 .nothing id [] s fun t => t.kegs = s.kegs) ∧
    ((s.keg b).pours = 0 → (s.keg b).phase ≠ .vacant →
      CarriedOut tag remove 17 .nothing id (kegParts ++ [.sch, .chains, .drawn, .volumes]) s fun t =>
        ReturnedTo b (s.keg b).chain [] s t ∧ t.rte.lastControl[b] = none ∧
        t.keg b =
          { phase := .vacant, prior := none, haltReason := none, loaded := 0, remaining := 0, mode := .core, band := 50, maxPressure := 3000,
            setpoint := none, serveTemp := none, servePressure := none, ventLimit := none, ventOpen := false, relief := false,
            buckets := #v[0, 0, 0, 0, 0, 0], activity := 0, pours := 0, chain := [], elapsed := 0, ramp := none, settle := none,
            chargePending := false, counted := false, sensedTemp := none, sensedPressure := (s.keg b).sensedPressure, underControl := false })

/-- R65. KEG_RESUME: NOT_AVAILABLE unless HALTED, and with the first unmet condition; otherwise the keg is in its prior phase, under control in RUNNING.
R68, R69, R71. KEG_VOLUME sets both volumes and nothing else of the keg; KEG_LIMITS replaces band, mode and max pressure, and relief follows at once;
each with its refusals. -/
def Obligations.ResumeVolumeAndLimits : Prop :=
  (∀ (tag : Byte) (b : Bay) (s : State),
     let r : Request := .kegResume (.params { bay := bayNum b })
     let online := (s.node (bayNode b)).state = .online
     ((s.keg b).phase ≠ .halted → RefusedWith tag r 16 .notAvailable .nothing s) ∧
     ((s.keg b).phase = .halted → ¬ online → RefusedWith tag r 16 .notAvailable (.unmet .node) s) ∧
     ((s.keg b).phase = .halted → online → (s.keg b).sensedTemp = none → RefusedWith tag r 16 .notAvailable (.unmet .controlTemperature) s) ∧
     ((s.keg b).phase = .halted → online → (s.keg b).sensedTemp ≠ none → (s.keg b).sensedPressure = none →
       RefusedWith tag r 16 .notAvailable (.unmet .pressure) s) ∧
     ∀ ph, (s.keg b).phase = .halted → online → (s.keg b).sensedTemp ≠ none → (s.keg b).sensedPressure ≠ none → (s.keg b).prior = some ph →
       CarriedOut tag r 16 .nothing id (kegParts ++ [.released]) s fun t =>
         (t.keg b).phase = ph.phase ∧ (t.keg b).prior = none ∧ (t.keg b).haltReason = none ∧ (t.keg b).setpoint = (s.keg b).setpoint ∧
         (t.keg b).elapsed = (s.keg b).elapsed ∧ (s.mgp.part = .running → (t.keg b).underControl = true)) ∧
  (∀ (tag : Byte) (b : Bay) (s : State),
     (∀ v, (s.keg b).phase = .vacant → RefusedWith tag (.kegVolume (.params { bay := bayNum b, volume := v })) 18 .notAvailable .nothing s) ∧
     (∀ v, (s.keg b).phase ≠ .vacant → (v < 0 ∨ 20000 < v) →
       RefusedWith tag (.kegVolume (.params { bay := bayNum b, volume := v })) 18 .badValue .nothing s) ∧
     (∀ v, (s.keg b).phase ≠ .vacant → 0 ≤ v → v ≤ 20000 → 0 < (s.keg b).pours →
       RefusedWith tag (.kegVolume (.params { bay := bayNum b, volume := v })) 18 .busy .nothing s) ∧
     (∀ v : Nat, (s.keg b).phase ≠ .vacant → v ≤ 20000 → (s.keg b).pours = 0 →
       CarriedOut tag (.kegVolume (.params { bay := bayNum b, volume := v })) 18 .nothing id [.kegs, .volumes] s fun t =>
         t.kegs = upd s.kegs b fun k => { k with loaded := v, remaining := v }) ∧
     ∀ (band maxP : Int) (m : SenseMode),
       let r : Request := .kegLimits (.params { bay := bayNum b, band := band, mode := some m, maxPressure := maxP })
       let legal := 10 ≤ band ∧ band ≤ 300 ∧ 500 ≤ maxP ∧ maxP ≤ 4000
       let active := (s.keg b).phase = .scheduled ∨ (s.keg b).phase = .serving
       ((s.keg b).phase = .vacant → RefusedWith tag r 19 .notAvailable .nothing s) ∧
       ((s.keg b).phase ≠ .vacant → ¬ legal → RefusedWith tag r 19 .badValue .nothing s) ∧
       ((s.keg b).phase ≠ .vacant → legal → active → ¬ TempRouted b m s → RefusedWith tag r 19 .badRoute .nothing s) ∧
       ((s.keg b).phase ≠ .vacant → legal → (¬ active ∨ TempRouted b m s) →
         CarriedOut tag r 19 .nothing id (kegParts ++ [.drawn]) s fun t =>
           (t.keg b).band = band ∧ (t.keg b).mode = m ∧ (t.keg b).maxPressure = maxP ∧
           (∀ p, (s.keg b).sensedPressure = some p → (s.keg b).relief = false → maxP < p →
             (t.keg b).relief = true ∧ t.out (.vent b) = 1 ∧ Raised .overpressure (bayNum b) t) ∧
           (∀ p, (s.keg b).sensedPressure = some p → (s.keg b).relief = true → p ≤ maxP - 200 → (t.keg b).relief = false) ∧
           ((∀ p, (s.keg b).sensedPressure = some p → p ≤ maxP ∧ maxP - 200 < p) → (t.keg b).relief = (s.keg b).relief)))

/-- R54, R70 to R73. A new pressure is kept, drives overpressure relief in any phase but VACANT, and under control drives the phase's own vent control:
spunding with its openings counted, or serving relief; an owned vent is ON while either wants it.
R74, R92. A keg under control in SERVING, or in a CARB step, raises a CHARGE at its serve pressure or its target pressure when the new pressure is below that by more than 100, and
raises none otherwise; nor does any other keg.
R125, R127, R92. The CHARGE is taken into service by an idle manifold in RUNNING, or joins the queue's tail, and either sets the charge-pending mark of a keg in a CARB step, whose settle
timer keeps its value; one that is held already, or that the MAN leaves unqueued (DOWN, LOCKOUT, SUPPLY_LOW, a full queue), sets none. -/
def Obligations.APressureValueDrivesTheVent : Prop :=
  ∀ (b : Bay) (p : Int) (s : State),
    let k := s.keg b
    let t := pressureValue b p s
    (t.keg b).sensedPressure = some p ∧
    (t.keg b).relief = (if k.phase = .vacant then k.relief else if k.maxPressure < p then true else if p ≤ k.maxPressure - 200 then false else k.relief) ∧
    (k.underControl = false → (t.keg b).ventOpen = k.ventOpen ∧ (t.keg b).buckets = k.buckets) ∧
    (∀ l, k.underControl = true → k.phase = .scheduled → k.ventLimit = some l →
      (t.keg b).ventOpen = (if l < p then true else if p ≤ l - 100 then false else k.ventOpen) ∧
      (t.keg b).buckets = if k.ventOpen = false ∧ l < p then upd k.buckets 5 (fun n => min 255 (n + 1)) else k.buckets) ∧
    (∀ sp, k.underControl = true → k.phase = .serving → k.servePressure = some sp →
      (t.keg b).ventOpen = (if sp + 300 < p then true else if p ≤ sp + 200 then false else k.ventOpen) ∧ (t.keg b).buckets = k.buckets) ∧
    (owner (.vent b) t = some .keg → t.out (.vent b) = if (t.keg b).relief = true ∨ (t.keg b).ventOpen = true then 1 else 0) ∧
    (t.keg b).settle = k.settle ∧
    ((∀ target, ChargesAt b target s → target - 100 ≤ p) → NoCharge b s t) ∧
    (∀ target, ChargesAt b target s → p < target - 100 →
      let charge : GasEntry := { need := .charge b, pressure := target }
      let held := (∃ e ∈ s.man.queue, e.need = .charge b) ∨ ∃ op, s.man.op = some op ∧ op.need = .charge b
      let unqueued := s.man.state = .down ∨ s.man.state = .lockout ∨ s.man.supplyLow = true
      let served := s.mgp.part = .running ∧ s.man.state = .idle
      let marked := (t.keg b).chargePending = if inCarb b s = true then true else k.chargePending
      (unqueued ∨ held → NoCharge b s t) ∧
      (¬ unqueued → ¬ held → served →
        t.man = { s.man with state := .busy, op := some (settlingOp (.charge b) target []) } ∧ t.out .regulator = target.toNat ∧ marked) ∧
      (¬ unqueued → ¬ held → ¬ served → s.man.queue.length < 8 → t.man = { s.man with queue := s.man.queue ++ [charge] } ∧ marked) ∧
      (¬ unqueued → ¬ held → ¬ served → 8 ≤ s.man.queue.length → NoCharge b s t))

/-! ## Schedules -/

/-- R75, R91. The activity timer's expiry rolls the buckets and starts again; it completes a QUIET step that has run 60 minutes and whose total is at or
below its threshold, and no other step. -/
def Obligations.TheActivityRollEndsAQuietStep : Prop :=
  ∀ (s : State) (b : Bay), Awake s → (s.keg b).underControl = true → (s.keg b).phase = .scheduled → (s.keg b).counted = true →
    600 ≤ (s.keg b).activity →
    let v := (s.keg b).buckets
    (∀ i rest threshold, (∃ target m vent, Steps b i rest (.quiet target threshold m vent) s) → 3600 ≤ (s.keg b).elapsed →
      ((v[1] + v[2] + v[3] + v[4] + v[5] : Nat) : Int) ≤ threshold →
      Leads (.activityTimerExpiry b) s fun t => (t.keg b).activity = 0 ∧ Completed b i rest s t ∧ Touches (stepParts ++ eventParts) s t) ∧
    ((∀ target threshold m vent, currentStep b s = some (.quiet target threshold m vent) →
        (s.keg b).elapsed < 3600 ∨ threshold < ((v[1] + v[2] + v[3] + v[4] + v[5] : Nat) : Int)) →
      Leads (.activityTimerExpiry b) s fun t =>
        t.kegs = upd s.kegs b (fun k => { k with buckets := #v[v[1], v[2], v[3], v[4], v[5], 0], activity := 0 }) ∧ Touches (.kegs :: eventParts) s t)

/-- R88, R91, R92, R93. A HOLD at its duration, a QUIET at its maximum (with STEP_LIMIT) and a CARB at its settle time complete.
R90. At each ramp period the setpoint moves by the rate toward the target, and at a distance of the rate or less it is the target and the step completes. -/
def Obligations.StepTimersCompleteTheirSteps : Prop :=
  ((∀ s b i rest target d v, Steps b i rest (.hold target d v) s → d.toNat * 60 ≤ (s.keg b).elapsed →
     Leads (.stepDurationExpiry b) s fun t => Completed b i rest s t ∧ Touches (stepParts ++ eventParts) s t) ∧
   (∀ s b i rest target th m v, Steps b i rest (.quiet target th m v) s → m.toNat * 60 ≤ (s.keg b).elapsed →
     Leads (.quietMaximumExpiry b) s fun t =>
       Raised .stepLimit (bayNum b) t ∧ Completed b i rest s t ∧ Touches (stepParts ++ eventParts) s t) ∧
   (∀ s b i rest target p d c, Steps b i rest (.carb target p d) s → (s.keg b).settle = some c → (s.keg b).chargePending = false → d.toNat * 60 ≤ c →
     Leads (.carbSettleExpiry b) s fun t => Completed b i rest s t ∧ Touches (stepParts ++ eventParts) s t)) ∧
  (∀ s b i rest target rate v sp c, Steps b i rest (.ramp target rate v) s → 1 ≤ rate → (s.keg b).setpoint = some sp → (s.keg b).ramp = some c → 360 ≤ c →
     (rate < target - sp ∨ rate < sp - target →
       Leads (.rampTimerExpiry b) s fun t =>
         (t.keg b).setpoint = some (if sp < target then sp + rate else sp - rate) ∧ (t.keg b).ramp = some 0 ∧ (t.keg b).chain = i :: rest ∧
         (t.keg b).elapsed = (s.keg b).elapsed ∧ Touches ([.kegs, .chl] ++ eventParts) s t) ∧
     (target - sp ≤ rate → sp - target ≤ rate →
       Leads (.rampTimerExpiry b) s fun t =>
         (rest = [] → (t.keg b).setpoint = some target) ∧
         Completed b i rest { s with kegs := upd s.kegs b fun k => { k with setpoint := some target } } t ∧ Touches (stepParts ++ eventParts) s t))

namespace Sys2Proof.Claims

open Sys2Proof.Machine Sys2Proof.Safety

/-! ## Vocabulary: the chiller -/

/-- R101. How many requesters of a queue `q` the grant procedure grants in `s` when `held` slots are held. -/
def granted (s : State) (q : List Requester) (held : Nat) : Nat :=
  if s.mgp.part = .running ∧ s.chl.nodeLost = false then min q.length (s.chl.limit - held) else 0

/-- What work on the chiller's slots may reach. -/
def slotWork : List Part := [.image, .chl]

/-- R105, R109. The requester's thermostat is in COOLING. -/
def Cooling (r : Requester) (s : State) : Prop :=
  match r with
  | .keg b => ∀ th, s.thermo b = some th → th.state = .cooling
  | .line t => (s.line t).state = .cooling

/-- The output that opens for a requester. -/
def valveOf : Requester → Output
  | .keg b => .cool b
  | .line t => .lineValve t

/-- R3, R108. The block that owns the requester's output. -/
def OwnsValve (r : Requester) (s : State) : Prop := owner (valveOf r) s = some (if r.isLine then .tap else .keg)

/-- R108. Tap `y` is bound to a bay whose keg is under control in SERVING, as its thermostat has it. -/
def Served (y : Tap) (s : State) : Prop := ∃ b th, (s.line y).bay = some b ∧ s.thermo b = some th ∧ th.phase = .serving

/-- R100, R101. A line that asks for a slot waits behind the last waiting line, and grants follow. -/
def LineAsks (y : Tap) (s t : State) : Prop :=
  let q := s.chl.queue.filter (·.isLine) ++ .line y :: s.chl.queue.filter (fun r => !r.isLine)
  let k := granted s q s.chl.holders.length
  t.chl.queue = q.drop k ∧ t.chl.holders.map (·.who) = s.chl.holders.map (·.who) ++ q.take k ∧
  (Requester.line y ∉ s.chl.queue → (t.line y).state = if Requester.line y ∈ q.take k then .cooling else .wantCool)

/-- R102, R109. A line is satisfied: from WANT_COOL it withdraws, from COOLING it releases its slot, and it rests. -/
def LineRests (y : Tap) (s t : State) : Prop :=
  ((s.line y).state = .rest → t.chl.queue = s.chl.queue ∧ t.chl.holders = s.chl.holders) ∧
  ((s.line y).state = .wantCool → t.chl.queue = s.chl.queue.filter (fun r => decide (r ≠ .line y)) ∧ t.chl.holders = s.chl.holders) ∧
  (Requester.line y ∉ s.chl.queue → (t.line y).state = .rest ∧
    ((s.line y).state = .cooling → (∀ h ∈ t.chl.holders, h.who ≠ .line y) ∧ (OwnsValve (.line y) s → t.out (.lineValve y) = 0)))

end Sys2Proof.Claims

/-! ## The chiller -/

/-- R101, R110. The grant procedure: slots go to the head of the queue while the part is RUNNING, node 7 is not LOST and a slot is free; each
granted requester is in COOLING with its owned valve ON, and under TURN a keg's turn timer starts from 0.
R100, R111. A turn that expires while a keg waits passes the slot on: the holder's valve is written OFF, and it waits at the tail of the queue
before the grants are made. While no keg waits its timer starts again from 0. -/
def Obligations.SlotsAreGrantedAndPassedOn : Prop :=
  (∀ s : State,
     let t := grants s
     let k := granted s s.chl.queue s.chl.holders.length
     t.chl.queue = s.chl.queue.drop k ∧
     t.chl.holders = s.chl.holders ++ (s.chl.queue.take k).map (fun r =>
       { who := r, turn := if s.chl.policy = .turn ∧ r.isLine = false then some 0 else none }) ∧
     (∀ r ∈ s.chl.queue.take k, Cooling r t ∧ (owner (valveOf r) s = some (if r.isLine then .tap else .keg) → t.out (valveOf r) = 1)) ∧
     Touches slotWork s t) ∧
  (∀ (b : Bay) (s : State), Awake s → (∃ c, { who := Requester.keg b, turn := some c } ∈ s.chl.holders ∧ s.chl.quantum * 60 ≤ c) →
     ((∃ b', Requester.keg b' ∈ s.chl.queue) →
       Leads (.turnTimerExpiry b) s fun t =>
         let q := s.chl.queue ++ [.keg b]
         let h := s.chl.holders.filter fun x => decide (x.who ≠ .keg b)
         let k := granted s q h.length
         t.chl.queue = q.drop k ∧ t.chl.holders.map (·.who) = h.map (·.who) ++ q.take k ∧
         (Requester.keg b ∉ q.take k → owner (.cool b) s = some .keg → t.out (.cool b) = 0) ∧
         Touches (.chl :: eventParts) s t) ∧
     ((∀ b', Requester.keg b' ∉ s.chl.queue) →
       Leads (.turnTimerExpiry b) s fun t =>
         t.chl = { s.chl with holders := s.chl.holders.map fun h => if h.who = .keg b then { h with turn := some 0 } else h } ∧
         Touches (.chl :: eventParts) s t))

/-- R112 to R115. The guard enters HOT above the glycol limit: limit in force 1, GLYCOL_HOT raised for node 7, and holders revoked, kegs from the newest
grant first and then lines, until one is left; the revoked wait ahead of the waiting kegs, lines behind the waiting lines. It returns to NORMAL at
200 below the limit, with the configured limit and the grants that follow. -/
def Obligations.TheGlycolGuard : Prop :=
  ∀ (g : Int) (s : State),
    (s.chl.guardState = .normal → s.chl.glycolLimit < g →
      let t := guardEval g s
      let whos := s.chl.holders.map (·.who)
      let order := (whos.filter fun r => !r.isLine).reverse ++ (whos.filter fun r => r.isLine).reverse
      let revoked := order.take (order.length - 1)
      t.chl.guardState = .hot ∧ t.chl.limit = 1 ∧ Raised .glycolHot 7 t ∧
      t.chl.holders = s.chl.holders.filter (fun h => decide (h.who ∉ revoked)) ∧
      (whos.Nodup → t.chl.queue =
        s.chl.queue.filter (·.isLine) ++ (whos.filter fun r => decide (r ∈ revoked)).filter (·.isLine) ++
        (whos.filter fun r => decide (r ∈ revoked)).filter (fun r => !r.isLine) ++ s.chl.queue.filter (fun r => !r.isLine)) ∧
      (∀ r ∈ revoked, owner (valveOf r) s = some (if r.isLine then .tap else .keg) → t.out (valveOf r) = 0) ∧
      Touches [.image, .chl, .atn, .up] s t) ∧
    (s.chl.guardState = .hot → g ≤ s.chl.glycolLimit - 200 →
      let t := guardEval g s
      let k := granted { s with chl := { s.chl with limit := s.chl.configured } } s.chl.queue s.chl.holders.length
      t.chl.guardState = .normal ∧ t.chl.limit = s.chl.configured ∧ t.chl.queue = s.chl.queue.drop k ∧ Touches slotWork s t) ∧
    ((s.chl.guardState = .normal ∧ g ≤ s.chl.glycolLimit) ∨ (s.chl.guardState = .hot ∧ s.chl.glycolLimit - 200 < g) → guardEval g s = s)

/-- R105, R106, Table 6-2. A keg thermostat's own rows: out of REST above the band it wants a slot, below the band it heats unless the air is warm
enough; at the setpoint it stops heating; within the band, or on its way, nothing changes.
R109. An active line's thermostat asks for a slot above the line limit, and is satisfied 100 below it or when its slot is emptied; an inactive line's changes nothing.
R108. A line becomes active, in REST and evaluated at once, when its tap comes to be bound to a bay whose keg is under control in SERVING, and inactive, satisfied, when
that ceases; so it stands after every change of the keg thermostats. -/
def Obligations.TheThermostats : Prop :=
  (∀ (b : Bay) (s : State) (th : Thermo), s.thermo b = some th → 0 ≤ th.band →
     let t := thermoEval b s
     let warm := ∃ x, s.rte.slots[destIdx .ambient] = some x ∧ th.setpoint + 100 ≤ x.value
     (th.state = .rest → th.setpoint + th.band < th.temp →
       (∃ x, t.thermo b = some x ∧ (x.state = .wantCool ∨ x.state = .cooling)) ∧ Touches slotWork s t) ∧
     (th.state = .rest → th.temp < th.setpoint - th.band → warm → t = s) ∧
     (th.state = .rest → th.temp < th.setpoint - th.band → ¬ warm →
       t.thermo b = some { th with state := .heating } ∧ (owner (.heater b) s = some .keg → t.out (.heater b) = 1) ∧ Touches slotWork s t) ∧
     (th.state = .rest → th.setpoint - th.band ≤ th.temp → th.temp ≤ th.setpoint + th.band → t = s) ∧
     ((th.state = .wantCool ∨ th.state = .cooling) → th.setpoint < th.temp → t = s) ∧
     (th.state = .heating → th.temp < th.setpoint → t = s) ∧
     (th.state = .heating → th.setpoint ≤ th.temp → th.temp ≤ th.setpoint + th.band →
       t.thermo b = some { th with state := .rest } ∧ (owner (.heater b) s = some .keg → t.out (.heater b) = 0) ∧ Touches slotWork s t) ∧
     (th.state = .wantCool → th.temp ≤ th.setpoint → th.setpoint - th.band ≤ th.temp →
       t.thermo b = some { th with state := .rest } ∧ t.chl.queue = s.chl.queue.filter (fun r => decide (r ≠ .keg b)) ∧
       t.chl.holders = s.chl.holders ∧ Touches slotWork s t) ∧
     (th.state = .cooling → th.temp ≤ th.setpoint → Requester.keg b ∉ s.chl.queue → owner (.cool b) s = some .keg →
       t.out (.cool b) = 0 ∧ (∀ h ∈ t.chl.holders, h.who ≠ .keg b) ∧ Touches slotWork s t)) ∧
  (∀ (y : Tap) (v : Int) (s : State),
     let l := s.line y
     let t := lineEval y v s
     (l.active = false → t = s) ∧
     (l.active = true →
       (l.state = .rest → l.limit < v → LineAsks y s t ∧ Touches slotWork s t) ∧
       (l.state = .rest → v ≤ l.limit → t = s) ∧
       (l.state ≠ .rest → l.limit - 100 < v → t = s) ∧
       (l.state ≠ .rest → v ≤ l.limit - 100 → LineRests y s t ∧ Touches slotWork s t)) ∧
     (l.active = false → lineEmptied y s = s) ∧
     (l.active = true → LineRests y s (lineEmptied y s) ∧ Touches slotWork s (lineEmptied y s))) ∧
  (∀ (y : Tap) (s : State),
     let l := s.line y
     let t := lineRefresh y s
     Touches slotWork s t ∧ ((l.active = true ↔ Served y s) → t = s) ∧
     (l.active = false → Served y s → (t.line y).active = true ∧
       (∀ x, s.rte.slots[destIdx (.line y)] = some x → l.limit < x.value → LineAsks y s t) ∧
       ((∀ x, s.rte.slots[destIdx (.line y)] = some x → x.value ≤ l.limit) →
         (t.line y).state = .rest ∧ t.chl.queue = s.chl.queue ∧ t.chl.holders = s.chl.holders)) ∧
     (l.active = true → ¬ Served y s → (t.line y).active = false ∧ (t.line y).state = .rest ∧ LineRests y s t)) ∧
  ∀ (b : Bay) (s : State) (y : Tap),
    (∀ ph, (s.keg b).sensedTemp ≠ none → (s.keg b).setpoint ≠ none →
      (((thermoCreate b ph s).line y).active = true ↔ Served y (thermoCreate b ph s))) ∧
    (s.thermo b ≠ none → ((((thermoEnd b s).line y).active = true ↔ Served y (thermoEnd b s)) ∧ (thermoEnd b s).thermo b = none)) ∧
    (∀ sp, ((thermoServe b sp s).line y).active = true ↔ Served y (thermoServe b sp s))

/-- R117, R140. CHILL_SET and GAS_SET: NOT_AVAILABLE in RUNNING, BAD_VALUE out of range; otherwise the settings are replaced, the limit in force follows
unless the guard is HOT, the guard is evaluated against the GLYCOL slot, entering HOT or returning to NORMAL (R115; in HELD nothing is granted), and the check
interval timer is 0. -/
def Obligations.ChillerAndGasSettings : Prop :=
  ∀ (tag : Byte) (s : State),
    (∀ (p : ChillSetParams),
      let r : Request := .chillSet (.params p)
      let legal := 1 ≤ p.limit ∧ p.limit ≤ 4 ∧ 5 ≤ p.quantum ∧ p.quantum ≤ 60 ∧ 100 ≤ p.glycolLimit ∧ p.glycolLimit ≤ 1500
      (s.mgp.part = .running → RefusedWith tag r 5 .notAvailable .nothing s) ∧
      (s.mgp.part = .held → ¬ (legal ∧ p.policy ≠ none) → RefusedWith tag r 5 .badValue .nothing s) ∧
      ∀ policy, s.mgp.part = .held → legal → p.policy = some policy →
        CarriedOut tag r 5 .nothing id [.chl, .chlSettings, .up, .atn] s fun t =>
          t.chl.configured = p.limit.toNat ∧ t.chl.policy = policy ∧ t.chl.quantum = p.quantum.toNat ∧ t.chl.glycolLimit = p.glycolLimit ∧
          (∀ x, s.rte.slots[destIdx .glycol] = some x → s.chl.guardState = .normal → p.glycolLimit < x.value →
            t.chl.guardState = .hot ∧ t.chl.limit = 1 ∧ Raised .glycolHot 7 t) ∧
          (s.chl.guardState = .normal → (∀ x, s.rte.slots[destIdx .glycol] = some x → x.value ≤ p.glycolLimit) →
            t.chl.guardState = .normal ∧ t.chl.limit = p.limit.toNat) ∧
          (s.chl.guardState = .hot → (∀ x, s.rte.slots[destIdx .glycol] = some x → p.glycolLimit - 200 < x.value) →
            t.chl.guardState = .hot ∧ t.chl.limit = 1) ∧
          (∀ x, s.rte.slots[destIdx .glycol] = some x → s.chl.guardState = .hot → x.value ≤ p.glycolLimit - 200 →
            t.chl.guardState = .normal ∧ t.chl.limit = p.limit.toNat ∧ t.chl.queue = s.chl.queue ∧ t.chl.holders = s.chl.holders ∧ t.atn = s.atn)) ∧
    ∀ (p : GasSetParams),
      let r : Request := .gasSet (.params p)
      let legal := 20 ≤ p.settleTolerance ∧ p.settleTolerance ≤ 200 ∧ 2 ≤ p.pulseLength ∧ p.pulseLength ≤ 20 ∧
        500 ≤ p.checkPressure ∧ p.checkPressure ≤ 3000 ∧ 10 ≤ p.checkWindow ∧ p.checkWindow ≤ 300 ∧ 20 ≤ p.leakLimit ∧ p.leakLimit ≤ 500 ∧
        1000 ≤ p.lowThreshold ∧ p.lowThreshold ≤ 60000 ∧ 0 ≤ p.checkInterval ∧ p.checkInterval ≤ 168
      (s.mgp.part = .running → RefusedWith tag r 4 .notAvailable .nothing s) ∧
      (s.mgp.part = .held → ¬ legal → RefusedWith tag r 4 .badValue .nothing s) ∧
      (s.mgp.part = .held → legal → CarriedOut tag r 4 .nothing id [.man, .manSettings] s fun t =>
        t.man = { s.man with
          settleTolerance := p.settleTolerance, pulseLength := p.pulseLength.toNat, checkPressure := p.checkPressure
          checkWindow := p.checkWindow.toNat, leakLimit := p.leakLimit, lowThreshold := p.lowThreshold
          checkInterval := p.checkInterval.toNat, intervalTimer := 0 })

namespace Sys2Proof.Claims

open Sys2Proof.Machine Sys2Proof.Safety

/-! ## Vocabulary: the manifold -/

/-- What an operation's end, and the operation that follows it, may reach. -/
def gasParts : List Part := [.man, .kegs, .taps, .up, .atn, .free]

/-- R159. The tap needs a purge, and the MAN holds none for it. -/
def NeedsPurge (y : Tap) (s : State) : Prop :=
  (s.tapRec y).purgeStatus ≠ .clean ∧ s.mgp.part = .running ∧ (s.tapRec y).state = .idle ∧ (s.tapRec y).purgeRequest = .none ∧
  s.man.state ≠ .lockout ∧ s.man.state ≠ .down ∧ (∀ e ∈ s.man.queue, ∀ d, e.need ≠ .purge y d) ∧ ∀ op, s.man.op = some op → ∀ d, op.need ≠ .purge y d

/-- R126. The entry of the queue `q` that is chosen: by kind in the order POUR, PURGE, CHECK, CHARGE, the oldest of the first kind that has one;
a PURGE only of a tap that is IDLE. -/
def nextServed (idle : Tap → Bool) (q : List GasEntry) : Option GasEntry :=
  let isPour : GasEntry → Bool := fun e => match e.need with | .pour _ _ => true | _ => false
  let isReadyPurge : GasEntry → Bool := fun e => match e.need with | .purge y _ => idle y | _ => false
  let isCheck : GasEntry → Bool := fun e => match e.need with | .check => true | _ => false
  let isCharge : GasEntry → Bool := fun e => match e.need with | .charge _ => true | _ => false
  (q.filter isPour ++ q.filter isReadyPurge ++ q.filter isCheck ++ q.filter isCharge).head?

/-- R128. The queued POUR goes into service with a POUR at pressure `p`: its pressure lies within the tolerance. -/
def goesAlong (tolerance p : Int) (e : GasEntry) : Bool :=
  match e.need with
  | .pour _ _ => decide (e.pressure - p ≤ tolerance ∧ p - e.pressure ≤ tolerance)
  | _ => false

/-- R128. The pour of a POUR entry. -/
def setPourOf (e : GasEntry) : Option SetPour :=
  match e.need with
  | .pour y b => some { tap := y, bay := b }
  | _ => none

/-- R126, R128. In RUNNING, with an operation ended and its manifold as `m` has it, the queue of `m` is served: nothing eligible leaves the manifold IDLE,
and the entry chosen is taken into service, a POUR with the queued POURs within the tolerance of its pressure; a CHARGE in service marks its keg's CARB step (R92, R127). -/
def Serves (idle : Tap → Bool) (m : Man) (t : State) : Prop :=
  (nextServed idle m.queue = none → t.man = { m with op := none, state := .idle }) ∧
  ∀ e, nextServed idle m.queue = some e →
    let rest := m.queue.erase e
    let p := if e.need = .check then m.checkPressure else e.pressure
    t.out .regulator = p.toNat ∧
    (∀ b, e.need = .charge b → inCarb b t = true → (t.keg b).chargePending = true) ∧
    (setPourOf e = none → t.man = { m with state := .busy, queue := rest, op := some (settlingOp e.need p []) }) ∧
    ∀ x, setPourOf e = some x → t.man = { m with
      state := .busy
      queue := rest.filter fun e' => !goesAlong m.settleTolerance p e'
      op := some (settlingOp e.need p (x :: (rest.filter (goesAlong m.settleTolerance p)).filterMap setPourOf)) }

/-- R159. A tap is IDLE once the pours of the taps `l`, or the purge that it waits beneath, have ended. -/
def idleAfter (l : List Tap) (s : State) (y : Tap) : Bool :=
  decide ((s.tapRec y).state = .idle) || (decide (y ∈ l) && (s.tapRec y).pour.isSome && decide ((s.tapRec y).state ≠ .purging))

/-- A POUR_RECORD of this pour, with this final state and reason, is in the upward queue of `t`. -/
def Recorded (x : Tap) (p : Pour) (refused : Bool) (reason : PourReason) (t : State) : Prop :=
  ∃ tag : Byte, UpFrame.pourRecord
    { tag := tag, number := p.number, tap := x, bay := some p.bay, source := p.source, target := p.target, metered := p.metered,
      refused := refused, reason := reason } ∈ t.mgp.up

end Sys2Proof.Claims

/-! ## The manifold -/

/-- R136, R138. GAS_CHECK: LOCKED_OUT in LOCKOUT, BUSY in DOWN and for a full queue, OK without effect while a CHECK is held, and otherwise the CHECK is taken into
service or queued. GAS_UNLOCK: BUSY in DOWN with LEAK latched; in LOCKOUT it clears the latch and raises a CHECK; elsewhere OK without effect.
The check interval's expiry raises a CHECK likewise: the timer restarts, and the CHECK is taken into service, joins the queue's tail, or is left unqueued. -/
def Obligations.ChecksAreRaised : Prop :=
  ∀ (tag : Byte) (s : State),
    let check : Request := .gasCheck (.params ())
    let unlock : Request := .gasUnlock (.params ())
    let held := (∃ e ∈ s.man.queue, e.need = .check) ∨ ∃ op, s.man.op = some op ∧ op.need = .check
    (s.man.state = .lockout → RefusedWith tag check 24 .lockedOut .nothing s) ∧
    (s.man.state = .down → RefusedWith tag check 24 .busy .nothing s) ∧
    (s.man.state ≠ .lockout → s.man.state ≠ .down → held → CarriedOut tag check 24 .nothing id [] s fun t => t.man = s.man) ∧
    (s.man.state = .busy ∨ (s.man.state = .idle ∧ s.mgp.part = .held) → ¬ held → 8 ≤ s.man.queue.length →
      RefusedWith tag check 24 .busy .nothing s) ∧
    (s.man.state = .busy ∨ (s.man.state = .idle ∧ s.mgp.part = .held) → ¬ held → s.man.queue.length < 8 →
      CarriedOut tag check 24 .nothing id [.man] s fun t =>
        t.man = { s.man with queue := s.man.queue ++ [{ need := .check, pressure := s.man.checkPressure }] }) ∧
    (s.man.state = .idle → s.mgp.part = .running → ¬ held → CarriedOut tag check 24 .nothing id [.man] s fun t =>
      t.man = { s.man with state := .busy, op := some (settlingOp .check s.man.checkPressure []) } ∧
      t.out .regulator = s.man.checkPressure.toNat) ∧
    (s.man.state = .down → s.man.leak = true → RefusedWith tag unlock 25 .busy .nothing s) ∧
    (s.man.state ≠ .lockout → (s.man.state = .down → s.man.leak = false) →
      CarriedOut tag unlock 25 .nothing id [] s fun t => t.man = s.man) ∧
    (s.man.state = .lockout → s.man.queue = [] → s.man.op = none →
      CarriedOut tag unlock 25 .nothing id [.man, .latches] s fun t => t.man = { s.man with
        leak := false
        state := if s.mgp.part = .running then .busy else .idle
        op := if s.mgp.part = .running then some (settlingOp .check s.man.checkPressure []) else none
        queue := if s.mgp.part = .running then [] else [{ need := .check, pressure := s.man.checkPressure }] }) ∧
    (Awake s → s.mgp.part = .running → s.man.checkInterval ≠ 0 → s.man.checkInterval * 3600 ≤ s.man.intervalTimer →
      (s.man.state = .idle → ¬ held → Leads .checkIntervalExpiry s fun t =>
        t.man = { s.man with intervalTimer := 0, state := .busy, op := some (settlingOp .check s.man.checkPressure []) } ∧
        Touches (.man :: eventParts) s t) ∧
      (s.man.state = .busy → ¬ held → s.man.queue.length < 8 → Leads .checkIntervalExpiry s fun t =>
        t.man = { s.man with intervalTimer := 0, queue := s.man.queue ++ [{ need := .check, pressure := s.man.checkPressure }] } ∧
        Touches (.man :: eventParts) s t) ∧
      (s.man.state = .lockout ∨ s.man.state = .down ∨ held ∨ s.man.state = .busy ∧ 8 ≤ s.man.queue.length → Leads .checkIntervalExpiry s fun t =>
        t.man = { s.man with intervalTimer := 0 } ∧ Touches (.man :: eventParts) s t))

/-- R125, Table 7-4. The answer to a new need, row by row: DOWN, LOCKOUT, a CHARGE while SUPPLY_LOW, a need already held, a pour that joins, an idle manifold
in RUNNING, a full queue, and otherwise the queue's tail. -/
def Obligations.ANeedIsAnsweredByTable7_4 : Prop :=
  ∀ (e : GasEntry) (s : State),
    let pour := e.need.isPour = true
    let held := (∃ x ∈ s.man.queue, x.need.same e.need = true) ∨ ∃ op, s.man.op = some op ∧ op.need.same e.need = true
    let joins := pour ∧ ∃ op, s.man.op = some op ∧ op.need.isPour = true ∧ op.pours.length < 2 ∧
      e.pressure - op.pressure ≤ s.man.settleTolerance ∧ op.pressure - e.pressure ≤ s.man.settleTolerance
    let served := s.mgp.part = .running ∧ s.man.state = .idle ∧ ∀ x d, e.need = .purge x d → (s.tapRec x).state = .idle
    let a := raiseNeed true e s
    let refusedOr := fun r : PourReason => if pour then GasAnswer.refused r else .unqueued
    (s.man.state = .down → a = (refusedOr .manifoldDown, s)) ∧
    (s.man.state = .lockout → a = (refusedOr .lockout, s)) ∧
    (s.man.state ≠ .down → s.man.state ≠ .lockout → (∃ b, e.need = .charge b) → s.man.supplyLow = true → a = (.unqueued, s)) ∧
    (s.man.state ≠ .down → s.man.state ≠ .lockout → ((∃ b, e.need = .charge b) → s.man.supplyLow = false) →
      (¬ pour → held → a = (.alreadyHeld, s)) ∧
      (joins → a.1 = .joined) ∧
      ((pour ∨ ¬ held) → ¬ joins → served → a.1 = .inService ∧ a.2.man.state = .busy ∧ a.2.man.queue = s.man.queue ∧
        (owner .regulator s = some .man → a.2.out .regulator =
          (if e.need = .check then s.man.checkPressure else e.pressure).toNat)) ∧
      ((pour ∨ ¬ held) → ¬ joins → ¬ served → 8 ≤ s.man.queue.length → a = (refusedOr .gasBusy, s)) ∧
      ((pour ∨ ¬ held) → ¬ joins → ¬ served → s.man.queue.length < 8 →
        a = (.queued, { s with man := { s.man with queue := s.man.queue ++ [e] } })))

/-- R128, R130, R131, R134, R135. A MANIFOLD value within the tolerance of a SETTLING operation makes it ACTIVE and opens what its kind opens, and the gas of a POUR
is granted to each of its pours; a value outside it does nothing to it.
R129, R130, R134, R159. A settle failure raises REGULATOR for node 8 and ends the operation by its kind; the tap of a PURGE that failed keeps its purge status and its timer,
its request is cleared, and with no pour beneath it the need is evaluated again. A pulse's end closes the gas-in valve and reports the charge
as opened; a purge's end closes both valves, and the tap is CLEAN with its purge timer at 0.
R126. Each of these ends serves the queue as it then stands: with nothing eligible the manifold rests. -/
def Obligations.OperationsSettleAndEnd : Prop :=
  (∀ (v : Int) (s : State) (op : Operation), s.mgp.part = .running → s.man.op = some op → op.sub = .settling →
     let t := settleTest v s
     ((s.man.settleTolerance < v - op.pressure ∨ s.man.settleTolerance < op.pressure - v) → t = s) ∧
     (v - op.pressure ≤ s.man.settleTolerance → op.pressure - v ≤ s.man.settleTolerance →
       (∃ o, t.man.op = some o ∧ o.sub = .active ∧ o.need = op.need ∧ o.pours = op.pours ∧
         o.work = (if op.need.isPour then none else some 0) ∧
         (op.need = .check → o.p0 = (s.rte.slots[destIdx .manifold]).map (·.value))) ∧
       (∀ b, op.need = .charge b → t.out (.gasIn b) = 1) ∧
       (op.need.isPour = true → ∀ p ∈ op.pours, t.out (.gasIn p.bay) = 1 ∧ ∀ q, (t.tapRec p.tap).pour = some q → q.granted = true) ∧
       (∀ x d, op.need = .purge x d → t.out (.purge x) = 1 ∧ t.out (.tapValve x) = 1 ∧ owner (.tapValve x) t = some .man) ∧
       (op.need = .check → t.out .supply = 0))) ∧
  (∀ (s : State) (op : Operation), Awake s → s.mgp.part = .running → s.man.op = some op → op.sub = .settling → 30 ≤ op.settle →
     Leads .operationSettleTimeout s fun t =>
       let taps := op.pours.map (·.tap)
       Raised .regulator 8 t ∧ Touches (gasParts ++ eventParts) s t ∧
       (op.need = .check → Serves (idleAfter [] s) s.man t) ∧
       (∀ b, op.need = .charge b → Serves (idleAfter [] s) s.man t ∧
         (inCarb b s = true → (∀ e ∈ s.man.queue, e.need ≠ .charge b) → (t.keg b).chargePending = false ∧ (t.keg b).settle = (s.keg b).settle)) ∧
       (op.need.isPour = true →
         (∀ p ∈ op.pours, ∀ q, (s.tapRec p.tap).pour = some q →
           (t.tapRec p.tap).pour = none ∧ (s.mgp.up.length < 10 → q.pouring = false → Recorded p.tap q true .regulator t)) ∧
         (s.man.state = .busy → (∀ e ∈ s.man.queue, ∀ p ∈ op.pours, ∀ b, e.need ≠ .pour p.tap b) →
           ∃ raised : List GasEntry, Serves (idleAfter taps s) { s.man with queue := s.man.queue ++ raised } t ∧
             ∀ e ∈ raised, ∃ y ∈ taps, NeedsPurge y { s with tap := { s.tap with taps := upd s.tap.taps y fun r => { r with state := .idle } } } ∧
               e = { need := .purge y (s.tapRec y).set.purgeDuration, pressure := (s.tapRec y).set.purgePressure })) ∧
       (∀ x d, op.need = .purge x d → s.man.state = .busy → (∀ e ∈ s.man.queue, ∀ d', e.need ≠ .purge x d') →
         let mine : GasEntry := { need := .purge x (s.tapRec x).set.purgeDuration, pressure := (s.tapRec x).set.purgePressure }
         let again := (s.tapRec x).pour = none ∧ (s.tapRec x).purgeStatus ≠ .clean ∧ s.man.queue.length < 8
         let q := if again then s.man.queue ++ [mine] else s.man.queue
         let idle := fun y => if y = x then (s.tapRec x).pour.isNone else decide ((s.tapRec y).state = .idle)
         (t.tapRec x).purgeStatus = (s.tapRec x).purgeStatus ∧ (t.tapRec x).purgeMinutes = (s.tapRec x).purgeMinutes ∧
         (t.tapRec x).purgeSeconds = (s.tapRec x).purgeSeconds ∧
         (¬ again → (t.tapRec x).purgeRequest = .none) ∧
         (again → nextServed idle q ≠ some mine → (t.tapRec x).purgeRequest = .queued ∧ (t.tapRec x).state = .idle) ∧
         (again → nextServed idle q = some mine → (t.tapRec x).purgeRequest = .inService ∧ (t.tapRec x).state = .purging) ∧
         Serves idle { s.man with queue := q } t)) ∧
  (∀ (s : State) (op : Operation), Awake s → s.mgp.part = .running → s.man.op = some op → op.sub = .active →
     (∀ b w, op.need = .charge b → op.work = some w → s.man.pulseLength ≤ w →
       Leads .pulseEnd s fun t =>
         t.out (.gasIn b) = 0 ∧ Touches (gasParts ++ eventParts) s t ∧ Serves (idleAfter [] s) s.man t ∧
         (inCarb b s = true → (∀ e ∈ s.man.queue, e.need ≠ .charge b) → (t.keg b).chargePending = false ∧ (t.keg b).settle = some 0)) ∧
     (∀ x d w, op.need = .purge x d → op.work = some w → d ≤ w → (∀ e ∈ s.man.queue, ∀ d', e.need ≠ .purge x d') →
       Leads .purgeComplete s fun t =>
         let idle := fun y => if y = x then (s.tapRec x).pour.isNone else decide ((s.tapRec y).state = .idle)
         (t.tapRec x).purgeStatus = .clean ∧ (t.tapRec x).purgeMinutes = 0 ∧ (t.tapRec x).purgeSeconds = 0 ∧
         (t.tapRec x).purgeRequest = .none ∧ t.out (.purge x) = 0 ∧ Touches (gasParts ++ eventParts) s t ∧
         ((s.tapRec x).pour = none → (t.tapRec x).state = .idle ∧ t.out (.tapValve x) = 0) ∧
         Serves idle s.man t))

/-- R135, R137. The check window closes: the result record, the latches and SUPPLY_LOW as the readings give them, and the supply open; with a leak found the manifold is LOCKOUT with
LEAK raised, the regulator at 0 and the queue empty.
R126. Otherwise the queue is served as it stands, and with nothing eligible the manifold rests. -/
def Obligations.ACheckLatchesItsResult : Prop :=
  ∀ (s : State) (op : Operation) (w : Nat) (p0 : Int) (m c : Slot), Awake s → s.mgp.part = .running → s.man.op = some op → op.need = .check →
    op.sub = .active → op.work = some w → s.man.checkWindow ≤ w → op.p0 = some p0 →
    s.rte.slots[destIdx .manifold] = some m → s.rte.slots[destIdx .cylinder] = some c →
    Leads .checkWindowClose s fun t =>
      let leak := s.man.leakLimit < p0 - m.value
      let low := c.value < s.man.lowThreshold
      t.man.result = some { p0 := p0, p1 := m.value, fall := p0 - m.value, cylinder := c.value, leakFound := decide leak, supplyLow := decide low } ∧
      t.man.leak = (s.man.leak || decide leak) ∧ t.man.supplyLow = decide low ∧ t.out .supply = 1 ∧
      (low → s.man.supplyLow = false → Raised .supplyLow 8 t) ∧
      (leak → t.man.state = .lockout ∧ t.man.op = none ∧ t.man.queue = [] ∧ t.out .regulator = 0 ∧ Raised .leak 8 t) ∧
      (¬ leak → Serves (idleAfter [] s) { s.man with
        supplyLow := decide low
        result := some { p0 := p0, p1 := m.value, fall := p0 - m.value, cylinder := c.value, leakFound := false, supplyLow := decide low } } t) ∧
      Touches (gasParts ++ [.latches] ++ eventParts) s t

namespace Sys2Proof.Claims

open Sys2Proof.Machine Sys2Proof.Safety

/-! ## Vocabulary: taps and pours -/

/-- Table 8-1. The settings lie in their ranges. -/
def SettingsLegal (x : TapSettings) : Prop :=
  1000 ≤ x.pulsesPerLitre ∧ x.pulsesPerLitre ≤ 20000 ∧ 50 ≤ x.smallVolume ∧ x.smallVolume ≤ 1000 ∧ 50 ≤ x.largeVolume ∧ x.largeVolume ≤ 1000 ∧
  100 ≤ x.lineLimit ∧ x.lineLimit ≤ 1500 ∧ x.purgeInterval ≤ 1440 ∧ x.purgeGrace ≤ 240 ∧ 5 ≤ x.purgeDuration ∧ x.purgeDuration ≤ 60 ∧
  300 ≤ x.purgePressure ∧ x.purgePressure ≤ 2500 ∧ 2 ≤ x.stallTime ∧ x.stallTime ≤ 15

/-- The fields by which TAP_LOAD carries settings. -/
def tapFields (x : TapSettings) : TapFields :=
  { binding := x.binding.map fun b => bayNum b, locked := some x.locked, pulsesPerLitre := x.pulsesPerLitre, smallVolume := x.smallVolume,
    largeVolume := x.largeVolume, lineLimit := x.lineLimit, purgeInterval := x.purgeInterval, purgeGrace := x.purgeGrace,
    purgeDuration := x.purgeDuration, purgePressure := x.purgePressure, stallTime := x.stallTime }

/-- R146. Tap `y` may be bound as its settings say: it is unbound, or its line is fed. -/
def MayBind (y : Tap) (binding : Option Bay) (s : State) : Prop := binding = none ∨ Fed (.line y) s

/-- R146, R158. The status that a purge timer of `m` minutes gives. -/
def statusAt (x : TapSettings) (m : Nat) : PurgeStatus :=
  if x.purgeInterval = 0 then .clean
  else if x.purgeInterval + x.purgeGrace ≤ m then .overdue
  else if x.purgeInterval ≤ m then .due
  else .clean

/-- Table 8-3, checks 1 to 11 for tap `y`, bound to bay `b`, in order: the failing condition and its reason. -/
def table8_3 (y : Tap) (b : Bay) (s : State) : List (Bool × PourReason) :=
  let r := s.tapRec y
  let k := s.keg b
  [ (decide (s.mgp.part = .held), .held),
    (decide (r.set.binding = none), .unbound),
    (r.set.locked, .locked),
    (decide (¬ (r.state = .idle ∨ (r.state = .purging ∧ r.pour = none))), .busy),
    (decide (k.phase ≠ .serving), .notServing),
    (decide (k.sensedTemp.map (·.substituted) = some true), .substituted),
    (decide (k.remaining = 0), .empty),
    (decide (r.purgeStatus = .overdue), .purgeOverdue),
    (decide (s.man.state = .lockout), .lockout),
    (decide (s.man.state = .down), .manifoldDown),
    (decide ((s.node panelNode).state ≠ .online), .panelLost) ]

/-- R150. The reason of the first check that fails. -/
def firstFailure (y : Tap) (s : State) : Option PourReason :=
  ((table8_3 y ((s.tapRec y).set.binding.getD 0) s).find? (·.1)).map (·.2)

/-- R125, R132. The POUR of tap `y` at pressure `p` joins the operation in progress. -/
def JoinsAt (p : Int) (s : State) : Prop :=
  ∃ op, s.man.op = some op ∧ op.need.isPour = true ∧ op.pours.length < 2 ∧ p - op.pressure ≤ s.man.settleTolerance ∧
    op.pressure - p ≤ s.man.settleTolerance

/-- R150, check 12. The MAN refuses the POUR for a full queue. -/
def QueueFull (p : Int) (s : State) : Prop := ¬ JoinsAt p s ∧ s.man.state ≠ .idle ∧ 8 ≤ s.man.queue.length

/-- R152. The line of tap `y` is cold. -/
def ColdLine (y : Tap) (s : State) : Prop := ∃ x, s.rte.slots[destIdx (.line y)] = some x ∧ x.value ≤ (s.tapRec y).set.lineLimit

/-- What a pour's beginning or end may reach. -/
def pourParts : List Part := [.man, .kegs, .taps, .up, .atn, .free]

/-- R66. The pours in flight from the keg of bay `b`, as the taps have them. -/
def inFlight (b : Bay) (s : State) : Nat := (List.finRange 2).countP fun y => (s.tapRec y).pour.any fun p => decide (p.bay = b)

/-- R155. Pour `p` of tap `y` has ended for `reason`: it is gone, its keg counts one pour less for each of its pours that has ended,
and while the queue has room its record has been handed over. R133. No POUR of the tap is queued, and none is in the pour set. -/
def PourEnded (y : Tap) (p : Pour) (refused : Bool) (reason : PourReason) (s t : State) : Prop :=
  (t.tapRec y).pour = none ∧ (t.keg p.bay).pours = (s.keg p.bay).pours - (inFlight p.bay s - inFlight p.bay t) ∧ (s.mgp.up.length < 12 → Recorded y p refused reason t) ∧
  (p.pouring = true → owner (.tapValve y) s = some .tap → ¬ (t.tapRec y).state = .purging → t.out (.tapValve y) = 0) ∧
  (∀ e ∈ t.man.queue, ∀ b, e.need ≠ .pour y b) ∧ ∀ op, t.man.op = some op → ∀ x ∈ op.pours, x.tap ≠ y

/-- R133. The MAN has been told that the pour of tap `y` has ended: a POUR entry of the tap has left the queue, and the pour the pour set; the gas-in valve of its keg is OFF
when no other pour of that keg is in the set; and an empty set has ended the operation, SETTLING or ACTIVE, the manifold IDLE and in RUNNING its queue served. -/
def LeftTheManifold (y : Tap) (s t : State) : Prop :=
  let queue := s.man.queue.filter fun e => decide (∀ b : Bay, e.need ≠ .pour y b)
  ((∀ op, s.man.op = some op → ∀ x ∈ op.pours, x.tap ≠ y) → t.man = { s.man with queue := queue }) ∧
  ∀ op x, s.man.op = some op → op.pours.find? (fun x => decide (x.tap = y)) = some x →
    let rest := op.pours.filter fun x => decide (x.tap ≠ y)
    (rest ≠ [] → t.man = { s.man with queue := queue, op := some { op with pours := rest } }) ∧
    (rest = [] → s.mgp.part = .held → t.man = { s.man with queue := queue, op := none, state := .idle }) ∧
    (rest = [] → s.mgp.part = .running → Serves (fun z => decide ((s.tapRec z).state = .idle)) { s.man with queue := queue } t) ∧
    ((∀ x' ∈ rest, x'.bay ≠ x.bay) → owner (.gasIn x.bay) s = some .man → t.out (.gasIn x.bay) = 0)

/-- R159. A purge need of tap `y` in `s` has been raised: it is in service, or queued, or the queue was full. -/
def PurgeRaised (y : Tap) (s t : State) : Prop :=
  NeedsPurge y s →
    (s.man.state = .idle → (t.tapRec y).purgeRequest = .inService ∧ (t.tapRec y).state = .purging) ∧
    (s.man.state = .busy → s.man.queue.length < 8 → (t.tapRec y).purgeRequest = .queued)

end Sys2Proof.Claims

/-! ## Taps and pours -/

/-- R146, R165. TAP_LOAD: NOT_AVAILABLE in RUNNING, BAD_VALUE out of range, BAD_TAP naming the lower bound tap whose line is not fed; otherwise both settings are replaced,
each purge timer is held to its top and each status derived afresh, and the tap half of the run gate is set. -/
def Obligations.TapLoadReplacesTheSettings : Prop :=
  ∀ (tag : Byte) (s : State),
    (∀ p, s.mgp.part = .running → RefusedWith tag (.tapLoad (.params p)) 3 .notAvailable .nothing s) ∧
    (∀ p : TapLoadParams, s.mgp.part = .held →
      ((∀ x, SettingsLegal x → p.tap1 ≠ tapFields x) ∨ ∀ x, SettingsLegal x → p.tap2 ≠ tapFields x) →
      RefusedWith tag (.tapLoad (.params p)) 3 .badValue .nothing s) ∧
    ∀ x : Tap → TapSettings, s.mgp.part = .held → SettingsLegal (x 0) → SettingsLegal (x 1) →
      let r : Request := .tapLoad (.params { tap1 := tapFields (x 0), tap2 := tapFields (x 1) })
      (¬ MayBind 0 (x 0).binding s → RefusedWith tag r 3 .badTap (.badTap 0) s) ∧
      (MayBind 0 (x 0).binding s → ¬ MayBind 1 (x 1).binding s → RefusedWith tag r 3 .badTap (.badTap 1) s) ∧
      (MayBind 0 (x 0).binding s → MayBind 1 (x 1).binding s →
        CarriedOut tag r 3 .nothing (fun m => { m with tapHalf := true }) [.chl, .taps, .tapSettings, .up, .atn] s fun t =>
          ∀ y : Tap,
            let top := (x y).purgeInterval + (x y).purgeGrace
            let m := if (x y).purgeInterval = 0 then 0 else min top (s.tapRec y).purgeMinutes
            (t.tapRec y).set = x y ∧ (t.tapRec y).purgeMinutes = m ∧ (t.tapRec y).purgeStatus = statusAt (x y) m ∧
            ((s.tapRec y).purgeStatus ≠ .overdue → (t.tapRec y).purgeStatus = .overdue → Raised .purgeOverdue (tapNum y) t) ∧
            (t.tapRec y).state = (s.tapRec y).state ∧ (t.tapRec y).pour = (s.tapRec y).pour ∧
            (t.line y).bay = (x y).binding ∧ (t.line y).limit = (x y).lineLimit)

/-- R147, R148. TAP_BIND: NOT_AVAILABLE unless IDLE, BAD_TAP while the line is not fed; otherwise the binding is set and told to the CHL, and an unbound tap's valve
and cue are safe. TAP_LOCK sets the lock, and locking ends the tap's pour CANCELLED. -/
def Obligations.BindingAndLocking : Prop :=
  ∀ (tag : Byte) (y : Tap) (s : State),
    (∀ bay : Option Bay,
      let r : Request := .tapBind (.params { tap := tapNum y, bay := bay.map fun b => bayNum b })
      ((s.tapRec y).state ≠ .idle → RefusedWith tag r 20 .notAvailable .nothing s) ∧
      ((s.tapRec y).state = .idle → ¬ MayBind y bay s → RefusedWith tag r 20 .badTap .nothing s) ∧
      ((s.tapRec y).state = .idle → MayBind y bay s →
        CarriedOut tag r 20 .nothing id [.chl, .taps, .tapSettings] s fun t =>
          (t.tapRec y).set = { (s.tapRec y).set with binding := bay } ∧ (∀ z, z ≠ y → (t.tapRec z).set = (s.tapRec z).set) ∧
          (t.line y).bay = bay ∧ (t.tapRec y).purgeMinutes = (s.tapRec y).purgeMinutes ∧ (t.tapRec y).purgeStatus = (s.tapRec y).purgeStatus ∧
          (s.mgp.part = .running → purgeActive y s = false → (s.tapRec y).set.binding.isSome → bay = none →
            t.out (.tapValve y) = 0 ∧ t.out (.cue y) = 0))) ∧
    ∀ l : Bool, CarriedOut tag (.tapLock (.params { tap := tapNum y, locked := some l })) 21 .nothing id (pourParts ++ [.tapSettings]) s fun t =>
      (t.tapRec y).set = { (s.tapRec y).set with locked := l } ∧ (∀ z, z ≠ y → (t.tapRec z).set = (s.tapRec z).set) ∧
      (l = false → (t.tapRec y).pour = (s.tapRec y).pour ∧ t.man = s.man) ∧
      (∀ p, l = true → (s.tapRec y).pour = some p → PourEnded y p false .cancelled s t)

/-- R150, R151. POUR: BAD_VALUE for a volume out of 50 to 1000; the first failing check of Table 8-3 is the refusal's status, and check 12 is the MAN's full queue;
otherwise the pour is accepted: it takes the next number, aims for no more than remains, and its keg counts it. -/
def Obligations.PoursAreCheckedAndAccepted : Prop :=
  ∀ (tag : Byte) (y : Tap) (v : Nat) (s : State),
    let r : Request := .pour (.params { tap := tapNum y, volume := v })
    (v < 50 ∨ 1000 < v → RefusedWith tag r 22 .badValue .nothing s) ∧
    (50 ≤ v → v ≤ 1000 →
      (∀ reason, firstFailure y s = some reason → RefusedWith tag r 22 (.pour reason) .nothing s) ∧
      ∀ b, firstFailure y s = none → (s.tapRec y).set.binding = some b →
        (QueueFull ((s.keg b).servePressure.getD 0) s → RefusedWith tag r 22 (.pour .gasBusy) .nothing s) ∧
        (¬ QueueFull ((s.keg b).servePressure.getD 0) s →
          CarriedOut tag r 22 (.pourNumber s.tap.pourNumber) id [.man, .kegs, .taps, .pourless] s fun t =>
            t.tap.pourNumber = s.tap.pourNumber + 1 ∧ (t.keg b).pours = (s.keg b).pours + 1 ∧
            (∃ p, (t.tapRec y).pour = some p ∧ p.number = s.tap.pourNumber ∧ p.bay = b ∧ p.source = .host ∧
              p.target = min v (s.keg b).remaining ∧ p.metered = 0 ∧
              (p.pouring = true → ColdLine y s ∧ p.granted = true ∧ (s.tapRec y).state = .idle) ∧
              (p.pouring = false → (t.tapRec y).state = if (s.tapRec y).state = .idle then .pending else .purging)) ∧
            (JoinsAt ((s.keg b).servePressure.getD 0) s → t.man.queue = s.man.queue) ∧
            (¬ JoinsAt ((s.keg b).servePressure.getD 0) s → s.man.state = .idle →
              t.man.op = some (settlingOp (.pour y b) ((s.keg b).servePressure.getD 0) [{ tap := y, bay := b }])) ∧
            (¬ JoinsAt ((s.keg b).servePressure.getD 0) s → s.man.state ≠ .idle →
              t.man.queue = s.man.queue ++ [{ need := .pour y b, pressure := (s.keg b).servePressure.getD 0 }])))

/-- R152, R155, R156. POUR_CANCEL ends the tap's pour CANCELLED and answers its number, and is NOT_AVAILABLE without one; the wait limit ends a PENDING pour REFUSED,
LINE_WARM while its line is not cold and otherwise GAS_BUSY.
R133. A pour's end leaves the queue and the pour set, closes its keg's gas-in valve with the keg's last pour in the set, and ends the operation with the last of all.
R154, R67. A POURING pour whose stall timer reaches the stall time ends STALLED; its keg holds 0 ml, and a SERVING keg becomes SPENT out of control with KEG_SPENT raised,
and the other tap's pour from it ends. -/
def Obligations.PoursEndWithTheirReasons : Prop :=
  (∀ (y : Tap) (s : State),
     (∀ tag, (s.tapRec y).pour = none → RefusedWith tag (.pourCancel (.params { tap := tapNum y })) 23 .notAvailable .nothing s) ∧
     (∀ tag p, (s.tapRec y).pour = some p →
       CarriedOut tag (.pourCancel (.params { tap := tapNum y })) 23 (.pourNumber p.number) id pourParts s fun t =>
         PourEnded y p false .cancelled s t ∧
         ((s.tapRec y).purgeStatus = .clean → (s.tapRec y).purgeRequest ≠ .queued → LeftTheManifold y s t) ∧
         ∀ z, z ≠ y → ∀ q, (s.tapRec z).pour = some q → ∃ q', (t.tapRec z).pour = some q' ∧ q'.number = q.number) ∧
     LeftTheManifold y s (pourEnded y s) ∧
     ∀ p, Awake s → (s.tapRec y).pour = some p → p.pouring = false → 60 ≤ p.wait →
       Leads (.pourWaitExpiry y) s fun t =>
         (ColdLine y s → PourEnded y p true .gasBusy s t) ∧ (¬ ColdLine y s → PourEnded y p true .lineWarm s t) ∧
         (s.mgp.part = .running → (t.tapRec y).blink ≠ none) ∧ Touches (pourParts ++ eventParts) s t) ∧
  (∀ (y : Tap) (p : Pour) (s : State), Awake s → (s.tapRec y).pour = some p → p.pouring = true → (s.tapRec y).set.stallTime ≤ p.stall →
     Leads (.stallTimerExpiry y) s fun t =>
       PourEnded y p false .stalled s t ∧ (t.keg p.bay).remaining = 0 ∧
       ((s.keg p.bay).phase = .serving → (t.keg p.bay).phase = .spent ∧ (t.keg p.bay).underControl = false ∧ Raised .kegSpent (bayNum p.bay) t ∧
         ∀ z, ∀ q, (t.tapRec z).pour = some q → q.bay ≠ p.bay) ∧
       ((s.keg p.bay).phase ≠ .serving → (t.keg p.bay).phase = (s.keg p.bay).phase) ∧
       Touches (pourParts ++ [.chl, .phases, .volumes] ++ eventParts) s t)

/-- R158, R159, R160. A whole minute of the purge timer derives the status afresh, raising PURGE_OVERDUE as it becomes OVERDUE; that minute and the retry timer's expiry evaluate the
purge need; the blink window's end stops it. -/
def Obligations.PurgeTimersRaiseTheNeed : Prop :=
  ∀ (y : Tap) (s : State), Awake s →
    (s.mgp.part = .running → (s.tapRec y).set.binding.isSome → (s.tapRec y).set.purgeInterval ≠ 0 →
      (s.tapRec y).purgeMinutes < (s.tapRec y).set.purgeInterval + (s.tapRec y).set.purgeGrace → 60 ≤ (s.tapRec y).purgeSeconds →
      Leads (.purgeTimerMinute y) s fun t =>
        let m := (s.tapRec y).purgeMinutes + 1
        (t.tapRec y).purgeMinutes = m ∧ (t.tapRec y).purgeSeconds = (s.tapRec y).purgeSeconds - 60 ∧
        (t.tapRec y).purgeStatus = statusAt (s.tapRec y).set m ∧
        ((s.tapRec y).purgeStatus ≠ .overdue → (t.tapRec y).purgeStatus = .overdue → Raised .purgeOverdue (tapNum y) t) ∧
        PurgeRaised y { s with tap := { s.tap with taps := upd s.tap.taps y fun r => { r with purgeStatus := statusAt r.set m } } } t ∧
        Touches ([.man, .taps, .up, .atn] ++ eventParts) s t) ∧
    (∀ c, (s.tapRec y).purgeRetry = some c → 60 ≤ c →
      Leads (.purgeRetryExpiry y) s fun t =>
        ((t.tapRec y).purgeRetry = none ∨ (t.tapRec y).purgeRetry = some 0) ∧ PurgeRaised y s t ∧ Touches ([.man, .taps] ++ eventParts) s t) ∧
    (∀ c, (s.tapRec y).blink = some c → 5 ≤ c →
      Leads (.blinkWindowEnd y) s fun t => (t.tapRec y).blink = none ∧ Touches (.taps :: eventParts) s t)

namespace Sys2Proof.Claims

open Sys2Proof.Machine Sys2Proof.Safety

/-! ## Vocabulary: the panel's hand-over -/

/-- R149. The flow delta of tap `y` from its last flow count `last`, modulo 65536. -/
def flowDelta (last flow : BitVec 16) : Nat := (flow.toNat + 65536 - last.toNat) % 65536

/-- R153. The pour once the delta `d` has been metered at `ppl` pulses per litre, and the volume in whole ml that this makes. -/
def metering (ppl d : Nat) (p : Pour) : Pour × Nat :=
  let total := p.carry + d * 1000
  ({ p with metered := min 65535 (p.metered + total / ppl), carry := total % ppl, stall := if 0 < d then 0 else p.stall }, total / ppl)

/-- R149, R153. The pour of tap `y` after its metering in a hand-over, and the volume metered; a pour that is not POURING meters nothing. -/
def meteredAt (x : Vector PanelTap 2) (y : Tap) (s : State) (p : Pour) : Pour × Nat :=
  match (s.tapRec y).lastFlow with
  | some last => if p.pouring then metering (s.tapRec y).set.pulsesPerLitre (flowDelta last x[y].flow) p else (p, 0)
  | none => (p, 0)

/-- R153. What the hand-over debits from the keg of bay `b` for tap `y`. -/
def drawnFrom (x : Vector PanelTap 2) (b : Bay) (y : Tap) (s : State) : Nat :=
  match (s.tapRec y).pour with
  | some p => if p.bay = b then (meteredAt x y s p).2 else 0
  | none => 0

/-- R149. No press counter has changed. -/
def NoPress (x : Vector PanelTap 2) (s : State) : Prop := ∀ y : Tap, (s.tapRec y).lastPresses = some x[y].presses

/-- R150, R157, log 13. The panel's request has been refused for `reason`: a POUR_RECORD with the next number, the blink window in RUNNING, and nothing more;
`presses` is the press counter. -/
def PanelRefused (y : Tap) (reason : PourReason) (presses : BitVec 8) (s t : State) : Prop :=
  s.mgp.up.length < 14 →
    t = { s with
      tap := { taps := upd s.tap.taps y fun r => { r with lastPresses := some presses, blink := if s.mgp.part = .running then some 0 else r.blink }
               pourNumber := s.tap.pourNumber + 1 }
      mgp := { s.mgp with
        seq := s.mgp.seq + 1
        up := s.mgp.up ++ [.pourRecord { tag := s.mgp.seq, number := s.tap.pourNumber, tap := y, bay := (s.tapRec y).set.binding, source := .panel,
                                         target := 0, metered := 0, refused := true, reason := reason }] } }

end Sys2Proof.Claims

/-- R149. The first hand-over since the panel became ONLINE is a baseline. A later one sets both counts; a flow delta of a tap that is not POURING is lost.
R149, R153, R66. A POURING pour's delta, modulo 65536, is metered with its carry, saturating at 65535, and its whole ml are debited from its keg, tap 1 before tap 2.
R153, R155, R67, R156. A debit answered with 0 ends the pour EMPTY, and a SERVING keg becomes SPENT, the other tap's pour from it ending SPENT (or EMPTY by its own
debit, in either order); otherwise a metered volume at the target ends it DONE; each end with its POUR_RECORD.
R149, R150, R157. A press is taken when its counter has changed: it ends a pour CANCELLED; without one STOP does nothing, and SMALL and LARGE ask for a pour from source
PANEL, whose refusal makes a POUR_RECORD and starts the blink window, though none in HELD (log 13, the model's reading). No RESPONSE is made.
The presses of a hand-over are taken after all its metering and any spent notice (log 34, the model's choice).
R15. A READY reply of node 9 brings the hand-over about. -/
def Obligations.PanelDataIsMetered : Prop :=
  (∀ (x : Vector PanelTap 2) (s : State), panelData true x s =
    { s with tap := { s.tap with taps := Vector.ofFn fun z : Fin 2 =>
      { s.tap.taps[z] with lastFlow := some x[z].flow, lastPresses := some x[z].presses } } }) ∧
  (∀ (x : Vector PanelTap 2) (s : State),
    let t := panelData false x s
    (∀ y : Tap, (t.tapRec y).lastFlow = some x[y].flow ∧ (t.tapRec y).lastPresses = some x[y].presses) ∧
    (∀ b : Bay, (t.keg b).remaining = (s.keg b).remaining - drawnFrom x b 0 s - drawnFrom x b 1 s) ∧
    (NoPress x s → (∀ y p, (s.tapRec y).pour = some p → p.pouring = false) →
      t = { s with tap := { s.tap with taps := Vector.ofFn fun z : Fin 2 => { s.tap.taps[z] with lastFlow := some x[z].flow } } })) ∧
  (∀ (x : Vector PanelTap 2) (y z : Tap) (p : Pour) (s : State), NoPress x s → z ≠ y → (s.tapRec y).pour = some p → p.pouring = true →
    let t := panelData false x s
    let p' := (meteredAt x y s p).1
    let v := (meteredAt x y s p).2
    let other := drawnFrom x p.bay z s
    let remaining := (s.keg p.bay).remaining
    (v + other = 0 ∨ v + other < remaining → v = 0 ∨ p'.metered < p.target → (t.tapRec y).pour = some p') ∧
    (v + other < remaining → 0 < v → p.target ≤ p'.metered → PourEnded y p' false .done s t ∧ (t.keg p.bay).phase = (s.keg p.bay).phase) ∧
    (0 < v → (if y = 0 then remaining ≤ v else remaining - other ≤ v ∧ (other = 0 ∨ other < remaining)) →
      PourEnded y p' false .empty s t ∧
      ((s.keg p.bay).phase ≠ .serving → (t.keg p.bay).phase = (s.keg p.bay).phase) ∧
      ((s.keg p.bay).phase = .serving →
        (t.keg p.bay).phase = .spent ∧ (t.keg p.bay).underControl = false ∧ Raised .kegSpent (bayNum p.bay) t ∧
        ∀ q, (s.tapRec z).pour = some q → q.bay = p.bay →
          let q' := (meteredAt x z s q).1
          (t.tapRec z).pour = none ∧
          (s.mgp.up.length < 12 →
            (other = 0 → Recorded z q false .spent t ∨ Recorded z q' false .spent t) ∧
            (y = 0 → 0 < other → Recorded z q false .spent t ∨ Recorded z q' false .empty t) ∧
            (y = 1 → 0 < other → q'.metered < q.target → Recorded z q' false .spent t) ∧
            (y = 1 → 0 < other → q.target ≤ q'.metered → Recorded z q' false .done t))))) ∧
  (∀ (x : Vector PanelTap 2) (l₁ l₂ : BitVec 8) (s : State), (s.tapRec 0).lastPresses = some l₁ → (s.tapRec 1).lastPresses = some l₂ →
    panelData false x s = pressTap 1 x[1] (pressTap 0 x[0] (panelData false #v[{ x[0] with presses := l₁ }, { x[1] with presses := l₂ }] s))) ∧
  (∀ (y : Tap) (x : PanelTap) (s : State),
    let r := s.tapRec y
    let t := pressTap y x s
    let counted : State := { s with tap := { s.tap with taps := upd s.tap.taps y fun r => { r with lastPresses := some x.presses } } }
    (r.lastPresses = some x.presses → t = s) ∧
    (∀ l, r.lastPresses = some l → l ≠ x.presses →
      (∀ p, r.pour = some p → PourEnded y p false .cancelled s t) ∧
      (r.pour = none → x.choice = .stop → t = counted) ∧
      (∀ v, r.pour = none → (x.choice = .small ∧ v = r.set.smallVolume ∨ x.choice = .large ∧ v = r.set.largeVolume) →
        (∀ reason, firstFailure y s = some reason → PanelRefused y reason x.presses s t) ∧
        ∀ b, firstFailure y s = none → r.set.binding = some b →
          (QueueFull ((s.keg b).servePressure.getD 0) s → PanelRefused y .gasBusy x.presses s t) ∧
          (¬ QueueFull ((s.keg b).servePressure.getD 0) s →
            t.tap.pourNumber = s.tap.pourNumber + 1 ∧ (t.keg b).pours = (s.keg b).pours + 1 ∧ t.mgp = s.mgp ∧
            ∃ p, (t.tapRec y).pour = some p ∧ p.number = s.tap.pourNumber ∧ p.bay = b ∧ p.source = .panel ∧
              p.target = min v (s.keg b).remaining ∧ p.metered = 0)))) ∧
  (∀ (s : State) (x : Exchange) (chars : List Char9) (r : Reply) (v : Vector PanelTap 2), Awake s → s.blc.exchange = some x → x.phase = .awaiting →
    x.node = panelNode → judgeReply x.node chars = .ready r → r.panel = some v → (∀ c : Chan, (s.chan c).record.node ≠ panelNode) →
    Leads (.readyReply chars) s fun t => ∃ free, Touches eventParts
      (panelData (decide ((s.node panelNode).state ≠ .online)) v { s with
        blc := { s.blc with nodes := upd s.blc.nodes panelNode fun n => { n with state := .online, failures := 0, lastReply := some r } }, free := free }) t)

namespace Sys2Proof.Claims

open Sys2Proof.Machine Sys2Proof.Safety

/-! ## Vocabulary: nodes lost and found -/

/-- R14, R29. No channel reads node `n`. -/
def Unread (n : Node) (s : State) : Prop := ∀ c : Chan, (s.chan c).record.node ≠ n

/-- R14, R29. The channels of node `n` feed no destination but those named. -/
def FeedsOnly (n : Node) (l : List Dest) (s : State) : Prop :=
  ∀ c : Chan, (s.chan c).record.node = n → ∀ d, s.rte.routes[c].dest = some d → d ∈ l

/-- R113. The requester's thermostat is in WANT_COOL. -/
def Wanting (r : Requester) (s : State) : Prop :=
  match r with
  | .keg b => ∀ th, s.thermo b = some th → th.state = .wantCool
  | .line t => (s.line t).state = .wantCool

/-- R127, R134, R139. The operation has ended as entry to DOWN ends it, by its kind. -/
def WorkEndsDown (op : Operation) (s t : State) : Prop :=
  let opened := s.mgp.part = .running ∧ op.sub = .active
  (∀ b, op.need = .charge b →
    (inCarb b s = true → (t.keg b).chargePending = false ∧ (t.keg b).settle = if op.sub = .active then some 0 else (s.keg b).settle) ∧
    (opened → t.out (.gasIn b) = 0)) ∧
  (op.need.isPour = true → ∀ p ∈ op.pours, (opened → t.out (.gasIn p.bay) = 0) ∧
    ∀ q, (s.tapRec p.tap).pour = some q → (t.tapRec p.tap).pour = none ∧ (s.mgp.up.length < 10 → Recorded p.tap q false .sensor t)) ∧
  (∀ x d, op.need = .purge x d → (t.tapRec x).purgeRequest = .none ∧ (t.tapRec x).purgeStatus = (s.tapRec x).purgeStatus ∧
    (t.tapRec x).purgeMinutes = (s.tapRec x).purgeMinutes ∧
    (opened → t.out (.purge x) = 0 ∧ ((s.tapRec x).pour = none → t.out (.tapValve x) = 0))) ∧
  (op.need = .check → t.man.result = s.man.result ∧ (opened → t.out .supply = 1))

/-- R127, R137, R139. The entry has left the queue as entry to DOWN empties it, by its kind. -/
def EntryEndsDown (e : GasEntry) (s t : State) : Prop :=
  (∀ b, e.need = .charge b → inCarb b s = true → (t.keg b).chargePending = false) ∧
  (∀ x d, e.need = .purge x d → (t.tapRec x).purgeRequest = .none) ∧
  (∀ x b, e.need = .pour x b → (∀ op, s.man.op = some op → ∀ p ∈ op.pours, p.tap ≠ x) →
    ∀ q, (s.tapRec x).pour = some q → q.pouring = false → q.granted = false →
      (t.tapRec x).pour = none ∧ (s.mgp.up.length < 10 → Recorded x q true .manifoldDown t) ∧
      (s.mgp.part = .running → (t.tapRec x).blink ≠ none))

end Sys2Proof.Claims

/-! ## Nodes lost and found -/

/-- R9, R12, R13. A timeout, a bad reply and a fourth BUSY each fail the exchange: the failure count rises to 3 at most, the last reply is kept,
and with the third failure the node becomes LOST, with NODE_LOST raised for its number; a LOST node's failure raises nothing.
R13, R14, R63, R64. With a bay node's third failure its SCHEDULED or SERVING keg is halted, for its node or for a sensor as the notices fall;
it is out of control, its pours have ended, and KEG_HALTED is raised; a keg in any other phase is left as it is.
R14, R116. With node 7's loss every holder is revoked, its valve and the pump OFF, and nothing is granted; with its return the queue is granted.
R14, R124, R139. With node 8's loss the manifold is DOWN, its operation ended by its kind and its queue emptied by kind; with its return, and sensing complete, it leaves DOWN.
R14, R156. With node 9's loss every pour ends, for SENSOR where no other notice of the loss reaches it first. -/
def Obligations.FailedExchangesAndLostNodes : Prop :=
  (∀ (s : State) (x : Exchange) (i : Instr), Awake s → s.blc.exchange = some x → x.phase = .awaiting →
     (i = .replyTimeout ∨ (∃ chars, i = .badReply chars ∧ judgeReply x.node chars = .bad) ∨
       ∃ chars, i = .busyReply chars ∧ judgeReply x.node chars = .busy ∧ 3 ≤ x.busyCount) →
     let r := s.node x.node
     Leads i s fun t =>
       (∀ m : Node, m ≠ x.node → undue (t.node m) = undue (s.node m)) ∧
       (t.node x.node).failures = min 3 (r.failures + 1) ∧ (t.node x.node).lastReply = r.lastReply ∧
       (t.node x.node).state = (if 2 ≤ r.failures then .lost else r.state) ∧
       Touches (lossParts ++ eventParts) s t ∧
       (2 ≤ r.failures → r.state ≠ .lost →
         t.atn[Flag.nodeLost.idx].pending = true ∧ nodeNum x.node ∈ t.atn[Flag.nodeLost.idx].index) ∧
       ((r.failures < 2 ∨ r.state = .lost) →
         Touches (.nodes :: eventParts) s t ∧
         (ShownOk s → s.blc.discard = .none →
           t.blc = withNextExchange (fun n => imageOf n s) (withoutExchange { s.blc with
             nodes := upd s.blc.nodes x.node fun r => { r with failures := min 3 (r.failures + 1) } })))) ∧
  (∀ (s : State) (x : Exchange) (b : Bay), Awake s → s.blc.exchange = some x → x.phase = .awaiting → x.node = bayNode b →
     (s.node x.node).state ≠ .lost → 2 ≤ (s.node x.node).failures →
     Leads .replyTimeout s fun t =>
       (∀ ph : ActivePhase, (s.keg b).phase = ph.phase →
         (t.keg b).phase = .halted ∧ (t.keg b).prior = some ph ∧
         ((t.keg b).haltReason = some .node ∨ (t.keg b).haltReason = some .sensor) ∧ (t.keg b).underControl = false ∧
         (t.keg b).chain = (s.keg b).chain ∧ Raised .kegHalted (bayNum b) t ∧
         ∀ y : Tap, ∀ q, (t.tapRec y).pour = some q → q.bay ≠ b) ∧
       ((s.keg b).phase ≠ .scheduled → (s.keg b).phase ≠ .serving → (t.keg b).phase = (s.keg b).phase ∧ (t.keg b).prior = (s.keg b).prior ∧
         (t.keg b).haltReason = (s.keg b).haltReason) ∧
       ∀ c : Chan, (s.chan c).record.node = x.node → ((s.chan c).state = .priming ∨ (s.chan c).state = .live) →
         (t.chan c).state = .stale ∧ (t.chan c).window = []) ∧
  (∀ (s : State) (x : Exchange) (i : Instr), Awake s → s.blc.exchange = some x → x.phase = .awaiting →
     (s.node x.node).state ≠ .lost → 2 ≤ (s.node x.node).failures →
     (i = .replyTimeout ∨ (∃ chars, i = .badReply chars ∧ judgeReply x.node chars = .bad) ∨
       ∃ chars, i = .busyReply chars ∧ judgeReply x.node chars = .busy ∧ 3 ≤ x.busyCount) →
     (x.node = chillerNode → Leads i s fun t =>
       let whos := s.chl.holders.map (·.who)
       t.chl.nodeLost = true ∧ t.chl.holders = [] ∧ (owner .pump s = some .chl → t.out .pump = 0) ∧
       (∀ r ∈ whos, OwnsValve r s → t.out (valveOf r) = 0) ∧
       (Unread chillerNode s → whos.Nodup →
         t.chl.queue = s.chl.queue.filter (·.isLine) ++ whos.filter (·.isLine) ++ whos.filter (fun r => !r.isLine) ++ s.chl.queue.filter (fun r => !r.isLine) ∧
         ∀ r ∈ whos, Wanting r t)) ∧
     (x.node = manifoldNode → Leads i s fun t =>
       t.man.nodeOnline = false ∧ t.man.leak = s.man.leak ∧ (s.man.state = .down → s.man.op = none → t.man.state = .down) ∧
       (s.man.state ≠ .down → t.man.state = .down ∧ t.man.op = none ∧ t.man.queue = [] ∧ (s.mgp.part = .running → t.out .regulator = 0)) ∧
       (s.man.state ≠ .down → FeedsOnly manifoldNode [.manifold, .cylinder] s →
         (∀ op, s.man.op = some op → WorkEndsDown op s t) ∧ ∀ e ∈ s.man.queue, EntryEndsDown e s t)) ∧
     (x.node = panelNode → Leads i s fun t => ∀ y q, (s.tapRec y).pour = some q →
       (t.tapRec y).pour = none ∧
       (FeedsOnly panelNode [.line 0, .line 1] s →
         (s.mgp.up.length < 10 → Recorded y q false .sensor t) ∧
         (q.pouring = true → owner (.tapValve y) s = some .tap → t.out (.tapValve y) = 0)))) ∧
  (∀ (s : State) (x : Exchange) (chars : List Char9) (r : Reply), Awake s → s.blc.exchange = some x → x.phase = .awaiting →
     judgeReply x.node chars = .ready r →
     (x.node = chillerNode →
       ((s.node x.node).state = .lost → Leads (.readyReply chars) s fun t =>
         t.chl.nodeLost = false ∧
         (Unread chillerNode s →
           let k := granted { s with chl := { s.chl with nodeLost := false } } s.chl.queue s.chl.holders.length
           t.chl.queue = s.chl.queue.drop k ∧ t.chl.holders.map (·.who) = s.chl.holders.map (·.who) ++ s.chl.queue.take k)) ∧
       ((s.node x.node).state = .unseen → Unread chillerNode s → Leads (.readyReply chars) s fun t => t.chl = s.chl)) ∧
     (x.node = manifoldNode → (s.node x.node).state ≠ .online → Leads (.readyReply chars) s fun t =>
       t.man.nodeOnline = true ∧
       (Unread manifoldNode s →
         let complete := s.rte.slots[destIdx .manifold] ≠ none ∧ s.rte.slots[destIdx .cylinder] ≠ none
         (s.man.state = .down → complete → s.man.leak = true → t.man = { s.man with nodeOnline := true, state := .lockout }) ∧
         (s.man.state = .down → complete → s.man.leak = false → s.man.queue = [] → t.man = { s.man with nodeOnline := true, state := .idle }) ∧
         (s.man.state ≠ .down ∨ ¬ complete → t.man = { s.man with nodeOnline := true }))))

namespace Sys2Proof.Claims

open Sys2Proof.Machine Sys2Proof.Safety

/-- Every step from a state in which `inv` holds leads to states in which it holds. -/
def Kept (inv : State → Prop) : Prop := ∀ s t : State, inv s → step s = .next t → inv t

/-- R43. No destination is named by two route entries. -/
def RoutesOk (s : State) : Prop :=
  ∀ (c c' : Chan) (d : Dest), s.rte.routes[c].dest = some d → s.rte.routes[c'].dest = some d → c = c'

end Sys2Proof.Claims

/-! ## What every step keeps -/

/-- R80 to R82. Every pool entry stands once, on the free list or in the chain of the keg it belongs to, so the two together hold 48 entries. -/
def Obligations.EveryStepKeepsThePool : Prop :=
  Kept PoolOk ∧ ∀ s, PoolOk s → s.sch.freeList.length + (chainEntries s).length = 48

/-- R170, R173. At most one RESPONSE and one ATTENTION frame wait, and never more than 16 frames.
R1, R5, R12, R13, R125, R169. Failure and busy counts stay within 3 with LOST going with the third failure, no node is urgent twice,
at most 4 requests wait, and at most 8 gas needs. -/
def Obligations.EveryStepKeepsTheQueues : Prop :=
  (Kept UpQueueOk ∧ ∀ s, UpQueueOk s → s.mgp.up.length ≤ 16) ∧
  (Kept LinkOk ∧ Kept UrgentOk ∧ Kept ReceiverOk ∧ Kept GasQueueOk)

/-- R103, R160. Between events the pump is ON exactly while a slot is held, and each owned cue shows its derived value. -/
def Obligations.EveryStepKeepsPumpAndCues : Prop := Kept ShownOk

/-- R20, R23, R27. Every channel's window goes with its state, and its counts stay in their ranges.
R66, R72. No keg holds more than was loaded, and no vent count passes 255.
R41, R43. Each destination is fed by at most one channel.
R178. A clear flag has an empty index set, and every index set is in strictly ascending order. -/
def Obligations.EveryStepKeepsTheRecords : Prop :=
  (Kept ChannelsOk) ∧
  (Kept KegsOk) ∧
  (Kept RoutesOk) ∧
  (Kept FlagsOk)

/-- R99, R100. No more holders than the limit in force, which is 1 in HOT; no requester holds or waits twice or holds while it waits; and lines wait ahead of kegs.
R101, R104, R105, R108, R109. Beside this, so that the step keeps it: the thermostats in COOLING hold and those in WANT_COOL wait, only kegs under control have one,
and a line is active exactly while its bay's keg is under control in SERVING. -/
def Obligations.EveryStepKeepsTheChiller : Prop := Kept ChillerOk

/-- Every invariant that the five statements above say a step keeps holds right after reset. -/
def Obligations.TheResetStateIsInOrder : Prop :=
  PoolOk State.reset ∧ ChannelsOk State.reset ∧ UpQueueOk State.reset ∧ LinkOk State.reset ∧ UrgentOk State.reset ∧ ReceiverOk State.reset ∧
  GasQueueOk State.reset ∧ KegsOk State.reset ∧ RoutesOk State.reset ∧ ShownOk State.reset ∧ FlagsOk State.reset ∧ ChillerOk State.reset
end

