-- ==== Sys2Proof/Laws/State.lean ====
section
/-! SUPPORT. What each update of one part of the state leaves in each field; and the entries of an updated vector. -/

namespace Sys2Proof.Machine

/-! ## Vectors -/

@[simp] theorem upd_same {α : Type} {n : Nat} (v : Vector α n) (i : Fin n) (f : α → α) : (upd v i f)[i.val] = f v[i.val] := by
  simp [upd]

theorem upd_other {α : Type} {n : Nat} (v : Vector α n) {i j : Fin n} (f : α → α) (h : j ≠ i) : (upd v i f)[j.val] = v[j.val] := by
  have h2 : i.val ≠ j.val := fun e => h (Fin.ext e.symm)
  simp [upd, h2]

theorem upd_get {α : Type} {n : Nat} (v : Vector α n) (i j : Fin n) (f : α → α) : (upd v i f)[j] = if j = i then f v[i] else v[j] := by
  split
  · rename_i h; subst h; exact upd_same v j f
  · rename_i h; exact upd_other v f h

@[simp] theorem upd_upd {α : Type} {n : Nat} (v : Vector α n) (i : Fin n) (f g : α → α) : upd (upd v i f) i g = upd v i fun a => g (f a) := by
  simp [upd]

/-- A projection that `f` keeps is kept by the update of one entry. -/
theorem upd_map {α β : Type} {n : Nat} (v : Vector α n) (i : Fin n) (f : α → α) (g : α → β) (h : ∀ a, g (f a) = g a) : (upd v i f).map g = v.map g := by
  ext j hj
  simp only [upd, Vector.getElem_map, Vector.getElem_set]
  split
  · rename_i e; subst e; exact h _
  · rfl

/-! ## Fields -/

@[simp] theorem modBlc_pending (f : Blc → Blc) (s : State) : (s.modBlc f).pending = s.pending := rfl
@[simp] theorem modBlc_inReset (f : Blc → Blc) (s : State) : (s.modBlc f).inReset = s.inReset := rfl
@[simp] theorem modBlc_blc (f : Blc → Blc) (s : State) : (s.modBlc f).blc = f s.blc := rfl
@[simp] theorem modBlc_ccu (f : Blc → Blc) (s : State) : (s.modBlc f).ccu = s.ccu := rfl
@[simp] theorem modBlc_rte (f : Blc → Blc) (s : State) : (s.modBlc f).rte = s.rte := rfl
@[simp] theorem modBlc_kegs (f : Blc → Blc) (s : State) : (s.modBlc f).kegs = s.kegs := rfl
@[simp] theorem modBlc_sch (f : Blc → Blc) (s : State) : (s.modBlc f).sch = s.sch := rfl
@[simp] theorem modBlc_chl (f : Blc → Blc) (s : State) : (s.modBlc f).chl = s.chl := rfl
@[simp] theorem modBlc_man (f : Blc → Blc) (s : State) : (s.modBlc f).man = s.man := rfl
@[simp] theorem modBlc_tap (f : Blc → Blc) (s : State) : (s.modBlc f).tap = s.tap := rfl
@[simp] theorem modBlc_mgp (f : Blc → Blc) (s : State) : (s.modBlc f).mgp = s.mgp := rfl
@[simp] theorem modBlc_atn (f : Blc → Blc) (s : State) : (s.modBlc f).atn = s.atn := rfl
@[simp] theorem modBlc_free (f : Blc → Blc) (s : State) : (s.modBlc f).free = s.free := rfl

@[simp] theorem modRte_pending (f : Rte → Rte) (s : State) : (s.modRte f).pending = s.pending := rfl
@[simp] theorem modRte_inReset (f : Rte → Rte) (s : State) : (s.modRte f).inReset = s.inReset := rfl
@[simp] theorem modRte_blc (f : Rte → Rte) (s : State) : (s.modRte f).blc = s.blc := rfl
@[simp] theorem modRte_ccu (f : Rte → Rte) (s : State) : (s.modRte f).ccu = s.ccu := rfl
@[simp] theorem modRte_rte (f : Rte → Rte) (s : State) : (s.modRte f).rte = f s.rte := rfl
@[simp] theorem modRte_kegs (f : Rte → Rte) (s : State) : (s.modRte f).kegs = s.kegs := rfl
@[simp] theorem modRte_sch (f : Rte → Rte) (s : State) : (s.modRte f).sch = s.sch := rfl
@[simp] theorem modRte_chl (f : Rte → Rte) (s : State) : (s.modRte f).chl = s.chl := rfl
@[simp] theorem modRte_man (f : Rte → Rte) (s : State) : (s.modRte f).man = s.man := rfl
@[simp] theorem modRte_tap (f : Rte → Rte) (s : State) : (s.modRte f).tap = s.tap := rfl
@[simp] theorem modRte_mgp (f : Rte → Rte) (s : State) : (s.modRte f).mgp = s.mgp := rfl
@[simp] theorem modRte_atn (f : Rte → Rte) (s : State) : (s.modRte f).atn = s.atn := rfl
@[simp] theorem modRte_free (f : Rte → Rte) (s : State) : (s.modRte f).free = s.free := rfl

@[simp] theorem modSch_pending (f : Sch → Sch) (s : State) : (s.modSch f).pending = s.pending := rfl
@[simp] theorem modSch_inReset (f : Sch → Sch) (s : State) : (s.modSch f).inReset = s.inReset := rfl
@[simp] theorem modSch_blc (f : Sch → Sch) (s : State) : (s.modSch f).blc = s.blc := rfl
@[simp] theorem modSch_ccu (f : Sch → Sch) (s : State) : (s.modSch f).ccu = s.ccu := rfl
@[simp] theorem modSch_rte (f : Sch → Sch) (s : State) : (s.modSch f).rte = s.rte := rfl
@[simp] theorem modSch_kegs (f : Sch → Sch) (s : State) : (s.modSch f).kegs = s.kegs := rfl
@[simp] theorem modSch_sch (f : Sch → Sch) (s : State) : (s.modSch f).sch = f s.sch := rfl
@[simp] theorem modSch_chl (f : Sch → Sch) (s : State) : (s.modSch f).chl = s.chl := rfl
@[simp] theorem modSch_man (f : Sch → Sch) (s : State) : (s.modSch f).man = s.man := rfl
@[simp] theorem modSch_tap (f : Sch → Sch) (s : State) : (s.modSch f).tap = s.tap := rfl
@[simp] theorem modSch_mgp (f : Sch → Sch) (s : State) : (s.modSch f).mgp = s.mgp := rfl
@[simp] theorem modSch_atn (f : Sch → Sch) (s : State) : (s.modSch f).atn = s.atn := rfl
@[simp] theorem modSch_free (f : Sch → Sch) (s : State) : (s.modSch f).free = s.free := rfl

@[simp] theorem modChl_pending (f : Chl → Chl) (s : State) : (s.modChl f).pending = s.pending := rfl
@[simp] theorem modChl_inReset (f : Chl → Chl) (s : State) : (s.modChl f).inReset = s.inReset := rfl
@[simp] theorem modChl_blc (f : Chl → Chl) (s : State) : (s.modChl f).blc = s.blc := rfl
@[simp] theorem modChl_ccu (f : Chl → Chl) (s : State) : (s.modChl f).ccu = s.ccu := rfl
@[simp] theorem modChl_rte (f : Chl → Chl) (s : State) : (s.modChl f).rte = s.rte := rfl
@[simp] theorem modChl_kegs (f : Chl → Chl) (s : State) : (s.modChl f).kegs = s.kegs := rfl
@[simp] theorem modChl_sch (f : Chl → Chl) (s : State) : (s.modChl f).sch = s.sch := rfl
@[simp] theorem modChl_chl (f : Chl → Chl) (s : State) : (s.modChl f).chl = f s.chl := rfl
@[simp] theorem modChl_man (f : Chl → Chl) (s : State) : (s.modChl f).man = s.man := rfl
@[simp] theorem modChl_tap (f : Chl → Chl) (s : State) : (s.modChl f).tap = s.tap := rfl
@[simp] theorem modChl_mgp (f : Chl → Chl) (s : State) : (s.modChl f).mgp = s.mgp := rfl
@[simp] theorem modChl_atn (f : Chl → Chl) (s : State) : (s.modChl f).atn = s.atn := rfl
@[simp] theorem modChl_free (f : Chl → Chl) (s : State) : (s.modChl f).free = s.free := rfl

@[simp] theorem modMan_pending (f : Man → Man) (s : State) : (s.modMan f).pending = s.pending := rfl
@[simp] theorem modMan_inReset (f : Man → Man) (s : State) : (s.modMan f).inReset = s.inReset := rfl
@[simp] theorem modMan_blc (f : Man → Man) (s : State) : (s.modMan f).blc = s.blc := rfl
@[simp] theorem modMan_ccu (f : Man → Man) (s : State) : (s.modMan f).ccu = s.ccu := rfl
@[simp] theorem modMan_rte (f : Man → Man) (s : State) : (s.modMan f).rte = s.rte := rfl
@[simp] theorem modMan_kegs (f : Man → Man) (s : State) : (s.modMan f).kegs = s.kegs := rfl
@[simp] theorem modMan_sch (f : Man → Man) (s : State) : (s.modMan f).sch = s.sch := rfl
@[simp] theorem modMan_chl (f : Man → Man) (s : State) : (s.modMan f).chl = s.chl := rfl
@[simp] theorem modMan_man (f : Man → Man) (s : State) : (s.modMan f).man = f s.man := rfl
@[simp] theorem modMan_tap (f : Man → Man) (s : State) : (s.modMan f).tap = s.tap := rfl
@[simp] theorem modMan_mgp (f : Man → Man) (s : State) : (s.modMan f).mgp = s.mgp := rfl
@[simp] theorem modMan_atn (f : Man → Man) (s : State) : (s.modMan f).atn = s.atn := rfl
@[simp] theorem modMan_free (f : Man → Man) (s : State) : (s.modMan f).free = s.free := rfl

@[simp] theorem modMgp_pending (f : Mgp → Mgp) (s : State) : (s.modMgp f).pending = s.pending := rfl
@[simp] theorem modMgp_inReset (f : Mgp → Mgp) (s : State) : (s.modMgp f).inReset = s.inReset := rfl
@[simp] theorem modMgp_blc (f : Mgp → Mgp) (s : State) : (s.modMgp f).blc = s.blc := rfl
@[simp] theorem modMgp_ccu (f : Mgp → Mgp) (s : State) : (s.modMgp f).ccu = s.ccu := rfl
@[simp] theorem modMgp_rte (f : Mgp → Mgp) (s : State) : (s.modMgp f).rte = s.rte := rfl
@[simp] theorem modMgp_kegs (f : Mgp → Mgp) (s : State) : (s.modMgp f).kegs = s.kegs := rfl
@[simp] theorem modMgp_sch (f : Mgp → Mgp) (s : State) : (s.modMgp f).sch = s.sch := rfl
@[simp] theorem modMgp_chl (f : Mgp → Mgp) (s : State) : (s.modMgp f).chl = s.chl := rfl
@[simp] theorem modMgp_man (f : Mgp → Mgp) (s : State) : (s.modMgp f).man = s.man := rfl
@[simp] theorem modMgp_tap (f : Mgp → Mgp) (s : State) : (s.modMgp f).tap = s.tap := rfl
@[simp] theorem modMgp_mgp (f : Mgp → Mgp) (s : State) : (s.modMgp f).mgp = f s.mgp := rfl
@[simp] theorem modMgp_atn (f : Mgp → Mgp) (s : State) : (s.modMgp f).atn = s.atn := rfl
@[simp] theorem modMgp_free (f : Mgp → Mgp) (s : State) : (s.modMgp f).free = s.free := rfl

@[simp] theorem modChan_pending (c : Chan) (f : Channel → Channel) (s : State) : (s.modChan c f).pending = s.pending := rfl
@[simp] theorem modChan_inReset (c : Chan) (f : Channel → Channel) (s : State) : (s.modChan c f).inReset = s.inReset := rfl
@[simp] theorem modChan_blc (c : Chan) (f : Channel → Channel) (s : State) : (s.modChan c f).blc = s.blc := rfl
@[simp] theorem modChan_ccu (c : Chan) (f : Channel → Channel) (s : State) : (s.modChan c f).ccu = upd s.ccu c f := rfl
@[simp] theorem modChan_rte (c : Chan) (f : Channel → Channel) (s : State) : (s.modChan c f).rte = s.rte := rfl
@[simp] theorem modChan_kegs (c : Chan) (f : Channel → Channel) (s : State) : (s.modChan c f).kegs = s.kegs := rfl
@[simp] theorem modChan_sch (c : Chan) (f : Channel → Channel) (s : State) : (s.modChan c f).sch = s.sch := rfl
@[simp] theorem modChan_chl (c : Chan) (f : Channel → Channel) (s : State) : (s.modChan c f).chl = s.chl := rfl
@[simp] theorem modChan_man (c : Chan) (f : Channel → Channel) (s : State) : (s.modChan c f).man = s.man := rfl
@[simp] theorem modChan_tap (c : Chan) (f : Channel → Channel) (s : State) : (s.modChan c f).tap = s.tap := rfl
@[simp] theorem modChan_mgp (c : Chan) (f : Channel → Channel) (s : State) : (s.modChan c f).mgp = s.mgp := rfl
@[simp] theorem modChan_atn (c : Chan) (f : Channel → Channel) (s : State) : (s.modChan c f).atn = s.atn := rfl
@[simp] theorem modChan_free (c : Chan) (f : Channel → Channel) (s : State) : (s.modChan c f).free = s.free := rfl

@[simp] theorem modKeg_pending (b : Bay) (f : Keg → Keg) (s : State) : (s.modKeg b f).pending = s.pending := rfl
@[simp] theorem modKeg_inReset (b : Bay) (f : Keg → Keg) (s : State) : (s.modKeg b f).inReset = s.inReset := rfl
@[simp] theorem modKeg_blc (b : Bay) (f : Keg → Keg) (s : State) : (s.modKeg b f).blc = s.blc := rfl
@[simp] theorem modKeg_ccu (b : Bay) (f : Keg → Keg) (s : State) : (s.modKeg b f).ccu = s.ccu := rfl
@[simp] theorem modKeg_rte (b : Bay) (f : Keg → Keg) (s : State) : (s.modKeg b f).rte = s.rte := rfl
@[simp] theorem modKeg_kegs (b : Bay) (f : Keg → Keg) (s : State) : (s.modKeg b f).kegs = upd s.kegs b f := rfl
@[simp] theorem modKeg_sch (b : Bay) (f : Keg → Keg) (s : State) : (s.modKeg b f).sch = s.sch := rfl
@[simp] theorem modKeg_chl (b : Bay) (f : Keg → Keg) (s : State) : (s.modKeg b f).chl = s.chl := rfl
@[simp] theorem modKeg_man (b : Bay) (f : Keg → Keg) (s : State) : (s.modKeg b f).man = s.man := rfl
@[simp] theorem modKeg_tap (b : Bay) (f : Keg → Keg) (s : State) : (s.modKeg b f).tap = s.tap := rfl
@[simp] theorem modKeg_mgp (b : Bay) (f : Keg → Keg) (s : State) : (s.modKeg b f).mgp = s.mgp := rfl
@[simp] theorem modKeg_atn (b : Bay) (f : Keg → Keg) (s : State) : (s.modKeg b f).atn = s.atn := rfl
@[simp] theorem modKeg_free (b : Bay) (f : Keg → Keg) (s : State) : (s.modKeg b f).free = s.free := rfl

@[simp] theorem modTap_pending (t : Tap) (f : TapRecord → TapRecord) (s : State) : (s.modTap t f).pending = s.pending := rfl
@[simp] theorem modTap_inReset (t : Tap) (f : TapRecord → TapRecord) (s : State) : (s.modTap t f).inReset = s.inReset := rfl
@[simp] theorem modTap_blc (t : Tap) (f : TapRecord → TapRecord) (s : State) : (s.modTap t f).blc = s.blc := rfl
@[simp] theorem modTap_ccu (t : Tap) (f : TapRecord → TapRecord) (s : State) : (s.modTap t f).ccu = s.ccu := rfl
@[simp] theorem modTap_rte (t : Tap) (f : TapRecord → TapRecord) (s : State) : (s.modTap t f).rte = s.rte := rfl
@[simp] theorem modTap_kegs (t : Tap) (f : TapRecord → TapRecord) (s : State) : (s.modTap t f).kegs = s.kegs := rfl
@[simp] theorem modTap_sch (t : Tap) (f : TapRecord → TapRecord) (s : State) : (s.modTap t f).sch = s.sch := rfl
@[simp] theorem modTap_chl (t : Tap) (f : TapRecord → TapRecord) (s : State) : (s.modTap t f).chl = s.chl := rfl
@[simp] theorem modTap_man (t : Tap) (f : TapRecord → TapRecord) (s : State) : (s.modTap t f).man = s.man := rfl
@[simp] theorem modTap_tap (t : Tap) (f : TapRecord → TapRecord) (s : State) : (s.modTap t f).tap = { s.tap with taps := upd s.tap.taps t f } := rfl
@[simp] theorem modTap_mgp (t : Tap) (f : TapRecord → TapRecord) (s : State) : (s.modTap t f).mgp = s.mgp := rfl
@[simp] theorem modTap_atn (t : Tap) (f : TapRecord → TapRecord) (s : State) : (s.modTap t f).atn = s.atn := rfl
@[simp] theorem modTap_free (t : Tap) (f : TapRecord → TapRecord) (s : State) : (s.modTap t f).free = s.free := rfl

@[simp] theorem modAtn_pending (f : Vector FlagRecord 12 → Vector FlagRecord 12) (s : State) : (s.modAtn f).pending = s.pending := rfl
@[simp] theorem modAtn_inReset (f : Vector FlagRecord 12 → Vector FlagRecord 12) (s : State) : (s.modAtn f).inReset = s.inReset := rfl
@[simp] theorem modAtn_blc (f : Vector FlagRecord 12 → Vector FlagRecord 12) (s : State) : (s.modAtn f).blc = s.blc := rfl
@[simp] theorem modAtn_ccu (f : Vector FlagRecord 12 → Vector FlagRecord 12) (s : State) : (s.modAtn f).ccu = s.ccu := rfl
@[simp] theorem modAtn_rte (f : Vector FlagRecord 12 → Vector FlagRecord 12) (s : State) : (s.modAtn f).rte = s.rte := rfl
@[simp] theorem modAtn_kegs (f : Vector FlagRecord 12 → Vector FlagRecord 12) (s : State) : (s.modAtn f).kegs = s.kegs := rfl
@[simp] theorem modAtn_sch (f : Vector FlagRecord 12 → Vector FlagRecord 12) (s : State) : (s.modAtn f).sch = s.sch := rfl
@[simp] theorem modAtn_chl (f : Vector FlagRecord 12 → Vector FlagRecord 12) (s : State) : (s.modAtn f).chl = s.chl := rfl
@[simp] theorem modAtn_man (f : Vector FlagRecord 12 → Vector FlagRecord 12) (s : State) : (s.modAtn f).man = s.man := rfl
@[simp] theorem modAtn_tap (f : Vector FlagRecord 12 → Vector FlagRecord 12) (s : State) : (s.modAtn f).tap = s.tap := rfl
@[simp] theorem modAtn_mgp (f : Vector FlagRecord 12 → Vector FlagRecord 12) (s : State) : (s.modAtn f).mgp = s.mgp := rfl
@[simp] theorem modAtn_atn (f : Vector FlagRecord 12 → Vector FlagRecord 12) (s : State) : (s.modAtn f).atn = f s.atn := rfl
@[simp] theorem modAtn_free (f : Vector FlagRecord 12 → Vector FlagRecord 12) (s : State) : (s.modAtn f).free = s.free := rfl

@[simp] theorem setFree_pending (f : Free) (s : State) : (s.setFree f).pending = s.pending := rfl
@[simp] theorem setFree_inReset (f : Free) (s : State) : (s.setFree f).inReset = s.inReset := rfl
@[simp] theorem setFree_blc (f : Free) (s : State) : (s.setFree f).blc = s.blc := rfl
@[simp] theorem setFree_ccu (f : Free) (s : State) : (s.setFree f).ccu = s.ccu := rfl
@[simp] theorem setFree_rte (f : Free) (s : State) : (s.setFree f).rte = s.rte := rfl
@[simp] theorem setFree_kegs (f : Free) (s : State) : (s.setFree f).kegs = s.kegs := rfl
@[simp] theorem setFree_sch (f : Free) (s : State) : (s.setFree f).sch = s.sch := rfl
@[simp] theorem setFree_chl (f : Free) (s : State) : (s.setFree f).chl = s.chl := rfl
@[simp] theorem setFree_man (f : Free) (s : State) : (s.setFree f).man = s.man := rfl
@[simp] theorem setFree_tap (f : Free) (s : State) : (s.setFree f).tap = s.tap := rfl
@[simp] theorem setFree_mgp (f : Free) (s : State) : (s.setFree f).mgp = s.mgp := rfl
@[simp] theorem setFree_atn (f : Free) (s : State) : (s.setFree f).atn = s.atn := rfl
@[simp] theorem setFree_free (f : Free) (s : State) : (s.setFree f).free = f := rfl

@[simp] theorem setPending_pending (l : List Instr) (s : State) : (s.setPending l).pending = l := rfl
@[simp] theorem setPending_inReset (l : List Instr) (s : State) : (s.setPending l).inReset = s.inReset := rfl
@[simp] theorem setPending_blc (l : List Instr) (s : State) : (s.setPending l).blc = s.blc := rfl
@[simp] theorem setPending_ccu (l : List Instr) (s : State) : (s.setPending l).ccu = s.ccu := rfl
@[simp] theorem setPending_rte (l : List Instr) (s : State) : (s.setPending l).rte = s.rte := rfl
@[simp] theorem setPending_kegs (l : List Instr) (s : State) : (s.setPending l).kegs = s.kegs := rfl
@[simp] theorem setPending_sch (l : List Instr) (s : State) : (s.setPending l).sch = s.sch := rfl
@[simp] theorem setPending_chl (l : List Instr) (s : State) : (s.setPending l).chl = s.chl := rfl
@[simp] theorem setPending_man (l : List Instr) (s : State) : (s.setPending l).man = s.man := rfl
@[simp] theorem setPending_tap (l : List Instr) (s : State) : (s.setPending l).tap = s.tap := rfl
@[simp] theorem setPending_mgp (l : List Instr) (s : State) : (s.setPending l).mgp = s.mgp := rfl
@[simp] theorem setPending_atn (l : List Instr) (s : State) : (s.setPending l).atn = s.atn := rfl
@[simp] theorem setPending_free (l : List Instr) (s : State) : (s.setPending l).free = s.free := rfl

@[simp] theorem modNode_pending (n : Node) (f : NodeRecord → NodeRecord) (s : State) : (s.modNode n f).pending = s.pending := rfl
@[simp] theorem modNode_inReset (n : Node) (f : NodeRecord → NodeRecord) (s : State) : (s.modNode n f).inReset = s.inReset := rfl
@[simp] theorem modNode_blc (n : Node) (f : NodeRecord → NodeRecord) (s : State) : (s.modNode n f).blc = { s.blc with nodes := upd s.blc.nodes n f } := rfl
@[simp] theorem modNode_ccu (n : Node) (f : NodeRecord → NodeRecord) (s : State) : (s.modNode n f).ccu = s.ccu := rfl
@[simp] theorem modNode_rte (n : Node) (f : NodeRecord → NodeRecord) (s : State) : (s.modNode n f).rte = s.rte := rfl
@[simp] theorem modNode_kegs (n : Node) (f : NodeRecord → NodeRecord) (s : State) : (s.modNode n f).kegs = s.kegs := rfl
@[simp] theorem modNode_sch (n : Node) (f : NodeRecord → NodeRecord) (s : State) : (s.modNode n f).sch = s.sch := rfl
@[simp] theorem modNode_chl (n : Node) (f : NodeRecord → NodeRecord) (s : State) : (s.modNode n f).chl = s.chl := rfl
@[simp] theorem modNode_man (n : Node) (f : NodeRecord → NodeRecord) (s : State) : (s.modNode n f).man = s.man := rfl
@[simp] theorem modNode_tap (n : Node) (f : NodeRecord → NodeRecord) (s : State) : (s.modNode n f).tap = s.tap := rfl
@[simp] theorem modNode_mgp (n : Node) (f : NodeRecord → NodeRecord) (s : State) : (s.modNode n f).mgp = s.mgp := rfl
@[simp] theorem modNode_atn (n : Node) (f : NodeRecord → NodeRecord) (s : State) : (s.modNode n f).atn = s.atn := rfl
@[simp] theorem modNode_free (n : Node) (f : NodeRecord → NodeRecord) (s : State) : (s.modNode n f).free = s.free := rfl

@[simp] theorem modThermo_pending (b : Bay) (f : Thermo → Thermo) (s : State) : (s.modThermo b f).pending = s.pending := rfl
@[simp] theorem modThermo_inReset (b : Bay) (f : Thermo → Thermo) (s : State) : (s.modThermo b f).inReset = s.inReset := rfl
@[simp] theorem modThermo_blc (b : Bay) (f : Thermo → Thermo) (s : State) : (s.modThermo b f).blc = s.blc := rfl
@[simp] theorem modThermo_ccu (b : Bay) (f : Thermo → Thermo) (s : State) : (s.modThermo b f).ccu = s.ccu := rfl
@[simp] theorem modThermo_rte (b : Bay) (f : Thermo → Thermo) (s : State) : (s.modThermo b f).rte = s.rte := rfl
@[simp] theorem modThermo_kegs (b : Bay) (f : Thermo → Thermo) (s : State) : (s.modThermo b f).kegs = s.kegs := rfl
@[simp] theorem modThermo_sch (b : Bay) (f : Thermo → Thermo) (s : State) : (s.modThermo b f).sch = s.sch := rfl
@[simp] theorem modThermo_chl (b : Bay) (f : Thermo → Thermo) (s : State) : (s.modThermo b f).chl = { s.chl with thermos := upd s.chl.thermos b (Option.map f) } := rfl
@[simp] theorem modThermo_man (b : Bay) (f : Thermo → Thermo) (s : State) : (s.modThermo b f).man = s.man := rfl
@[simp] theorem modThermo_tap (b : Bay) (f : Thermo → Thermo) (s : State) : (s.modThermo b f).tap = s.tap := rfl
@[simp] theorem modThermo_mgp (b : Bay) (f : Thermo → Thermo) (s : State) : (s.modThermo b f).mgp = s.mgp := rfl
@[simp] theorem modThermo_atn (b : Bay) (f : Thermo → Thermo) (s : State) : (s.modThermo b f).atn = s.atn := rfl
@[simp] theorem modThermo_free (b : Bay) (f : Thermo → Thermo) (s : State) : (s.modThermo b f).free = s.free := rfl

@[simp] theorem modLine_pending (t : Tap) (f : Line → Line) (s : State) : (s.modLine t f).pending = s.pending := rfl
@[simp] theorem modLine_inReset (t : Tap) (f : Line → Line) (s : State) : (s.modLine t f).inReset = s.inReset := rfl
@[simp] theorem modLine_blc (t : Tap) (f : Line → Line) (s : State) : (s.modLine t f).blc = s.blc := rfl
@[simp] theorem modLine_ccu (t : Tap) (f : Line → Line) (s : State) : (s.modLine t f).ccu = s.ccu := rfl
@[simp] theorem modLine_rte (t : Tap) (f : Line → Line) (s : State) : (s.modLine t f).rte = s.rte := rfl
@[simp] theorem modLine_kegs (t : Tap) (f : Line → Line) (s : State) : (s.modLine t f).kegs = s.kegs := rfl
@[simp] theorem modLine_sch (t : Tap) (f : Line → Line) (s : State) : (s.modLine t f).sch = s.sch := rfl
@[simp] theorem modLine_chl (t : Tap) (f : Line → Line) (s : State) : (s.modLine t f).chl = { s.chl with lines := upd s.chl.lines t f } := rfl
@[simp] theorem modLine_man (t : Tap) (f : Line → Line) (s : State) : (s.modLine t f).man = s.man := rfl
@[simp] theorem modLine_tap (t : Tap) (f : Line → Line) (s : State) : (s.modLine t f).tap = s.tap := rfl
@[simp] theorem modLine_mgp (t : Tap) (f : Line → Line) (s : State) : (s.modLine t f).mgp = s.mgp := rfl
@[simp] theorem modLine_atn (t : Tap) (f : Line → Line) (s : State) : (s.modLine t f).atn = s.atn := rfl
@[simp] theorem modLine_free (t : Tap) (f : Line → Line) (s : State) : (s.modLine t f).free = s.free := rfl

theorem modNode_modNode (n : Node) (f g : NodeRecord → NodeRecord) (s : State) : (s.modNode n f).modNode n g = s.modNode n fun r => g (f r) := by
  simp [State.modNode, State.modBlc]

end Sys2Proof.Machine
end

