-- ==== Sys2Proof/Laws/Choices.lean ====
section
/-! SUPPORT. What the orders left open come to (log 6): whichever is drawn, it is an order of the same pieces of work, and only `free` moves on by the draw. -/

namespace Sys2Proof.Machine

/-- A draw names one of the alternatives. -/
theorem choose_spec {n : Nat} (h : 0 < n) (s : State) : ∃ k x, k < n ∧ choose n s = (k, s.setFree x) := by
  unfold choose
  split
  · exact ⟨_, _, Nat.mod_lt _ h, rfl⟩
  · exact ⟨_, _, Nat.mod_lt _ h, rfl⟩

theorem anyOrderFrom_spec {α : Type} (fuel : Nat) :
    ∀ (l : List α) (s : State), ∃ l' x, l'.Perm l ∧ anyOrderFrom fuel l s = (l', s.setFree x) := by
  induction fuel with
  | zero => exact fun l s => ⟨l, s.free, .refl l, rfl⟩
  | succ fuel ih =>
    intro l s
    match l with
    | [] => exact ⟨[], s.free, .refl _, rfl⟩
    | [x] => exact ⟨[x], s.free, .refl _, rfl⟩
    | a :: b :: rest =>
      obtain ⟨k, x, hk, hc⟩ := choose_spec (Nat.succ_pos (rest.length + 1)) s
      obtain ⟨tail, y, hp, ht⟩ := ih ((a :: b :: rest).eraseIdx k) (s.setFree x)
      refine ⟨(a :: b :: rest).getD k a :: tail, y, ?_, by simp only [anyOrderFrom, hc, ht]; rfl⟩
      have hk : k < (a :: b :: rest).length := hk
      rw [List.getD_eq_getElem _ _ hk]
      exact (hp.cons _).trans (List.getElem_cons_eraseIdx_perm hk)

/-- The order drawn is an order of the list. -/
theorem anyOrder_spec {α : Type} (l : List α) (s : State) : ∃ l' x, l'.Perm l ∧ anyOrder l s = (l', s.setFree x) :=
  anyOrderFrom_spec l.length l s

/-- All that `forAny` can do: the work on each element once, in some order. -/
theorem forAny_spec {α : Type} (l : List α) (f : α → State → State) (s : State) :
    ∃ l' x, l'.Perm l ∧ forAny l f s = forAll l' f (s.setFree x) := by
  obtain ⟨l', x, hp, he⟩ := anyOrder_spec l s
  exact ⟨l', x, hp, by simp only [forAny, he]⟩

/-- All that `forAnyWith` can do: the work on each element once in some order, and the other work once, before, after or between. -/
theorem forAnyWith_spec {α : Type} (g : State → State) (l : List α) (f : α → State → State) (s : State) :
    ∃ before after x, (before ++ after).Perm l ∧ forAnyWith g l f s = forAll after f (g (forAll before f (s.setFree x))) := by
  obtain ⟨l', x, hp, he⟩ := anyOrder_spec l s
  obtain ⟨k, y, -, hc⟩ := choose_spec (Nat.succ_pos l'.length) (s.setFree x)
  exact ⟨l'.take k, l'.drop k, y, by rwa [List.take_append_drop], by simp only [forAnyWith, he, hc]; rfl⟩

/-- Work that draws no choice may be moved past one. -/
theorem forAll_setFree {α : Type} {l : List α} {f : α → State → State} {x : Free} {s : State}
    (h : ∀ a u, f a (u.setFree x) = (f a u).setFree x) : forAll l f (s.setFree x) = (forAll l f s).setFree x := by
  unfold forAll
  induction l generalizing s with
  | nil => rfl
  | cons a l ih => rw [List.foldl_cons, h, ih, List.foldl_cons]

end Sys2Proof.Machine
end

