-- ==== Sys2Proof/Laws/Touches.lean ====
section
/-! SUPPORT. The relation `Touches` of Safety, and what the plain updates touch. -/

namespace Sys2Proof.Safety

open Sys2Proof.Machine

@[simp] theorem Same.refl (p : Part) (s : State) : Same p s s := by cases p <;> simp [Same]

theorem Same.trans {p : Part} {s t u : State} (h : Same p s t) (g : Same p t u) : Same p s u := by
  cases p
  case flags =>
    intro i hi
    obtain ⟨h1, h2⟩ := h i hi
    obtain ⟨g1, g2⟩ := g i h1
    exact ⟨g1, fun n hn => g2 n (h2 n hn)⟩
  case sentOn => exact List.IsPrefix.trans h g
  case pourless => exact fun x hx => g x (h x hx)
  case released => exact fun x hx => g x (h x hx)
  all_goals simp only [Same] at *
  all_goals first
    | exact g.trans h
    | exact fun a => g (h a)
    | exact ⟨g.1.trans h.1, g.2.trans h.2⟩
    | (rw [← h, ← g])

@[simp] theorem Touches.refl (l : List Part) (s : State) : Touches l s s := fun p _ => Same.refl p s

theorem Touches.trans {l : List Part} {s t u : State} (h : Touches l s t) (g : Touches l t u) : Touches l s u :=
  fun p hp => (h p hp).trans (g p hp)

theorem Touches.mono {l l' : List Part} {s t : State} (h : Touches l s t) (hl : ∀ p ∈ l, p ∈ l') : Touches l' s t :=
  fun p hp => h p fun hm => hp (hl p hm)

/-- A branch of work touches what its two sides touch. -/
@[simp] theorem Touches.branch {l : List Part} {s t u : State} {c : Prop} {_ : Decidable c} (h : c → Touches l s t) (g : ¬c → Touches l s u) :
    Touches l s (if c then t else u) := by
  split
  · exact h ‹_›
  · exact g ‹_›

/-- A part left open is closed by itself. -/
theorem Touches.close {l : List Part} {q : Part} {s t : State} (h : Touches (q :: l) s t) (g : Same q s t) : Touches l s t := fun p hp => by
  by_cases e : p = q
  · exact e ▸ g
  · exact h p (by simp [e, hp])

end Sys2Proof.Safety

namespace Sys2Proof.Machine

open Sys2Proof.Safety

/-! ## Lists -/

theorem filter_bound {α : Type} {l : List α} {p : α → Bool} {n : Nat} (h : l.length ≤ n) : (l.filter p).length ≤ n :=
  (List.length_filter_le p l).trans h

theorem erase_bound {l : List GasEntry} {e : GasEntry} {n : Nat} (h : l.length ≤ n) : (l.erase e).length ≤ n :=
  (l.erase_sublist).length_le.trans h

/-! ## The plain updates -/

@[simp] theorem setPending_touches {l : List Part} {s t : State} {x : List Instr} (h : Touches l s t) (hc : .control ∈ l) :
    Touches l s (t.setPending x) := h.trans fun p hp => by
  cases p <;> simp_all [Same, LinkOk, UrgentOk, ChannelsOk, PoolOk, chainEntries, KegsOk, GasQueueOk, FlagsOk]

@[simp] theorem setFree_touches {l : List Part} {s t : State} {x : Free} (h : Touches l s t) (hf : .free ∈ l) :
    Touches l s (t.setFree x) := h.trans fun p hp => by
  cases p <;> simp_all [Same, LinkOk, UrgentOk, ChannelsOk, PoolOk, chainEntries, KegsOk, GasQueueOk, FlagsOk]

@[simp] theorem modBlc_touches {l : List Part} {s t : State} {f : Blc → Blc} (h : Touches l s t)
    (hl : .line ∈ l ∨ ∀ x, { f x with outs := x.outs, urgent := x.urgent } = x)
    (hi : .image ∈ l ∨ ∀ x, (f x).outs = x.outs ∧ (f x).urgent = x.urgent)
    (hk : .linkOk ∈ l ∨ ∀ x, LinkOf x → LinkOf (f x))
    (hu : .urgentOk ∈ l ∨ ∀ x, x.urgent.Nodup → (f x).urgent.Nodup)
    (hn : .nodes ∈ l ∨ ∀ x, (f x).nodes.map undue = x.nodes.map undue := by exact .inr fun _ => rfl) : Touches l s (t.modBlc f) := h.trans fun p hp => by
  cases p <;> simp_all [Same, LinkOk, UrgentOk, ChannelsOk, PoolOk, chainEntries, KegsOk, GasQueueOk, FlagsOk]

/-- Work on the outputs and the urgent list alone. -/
theorem modBlc_image {l : List Part} {s t : State} {f : Blc → Blc} (h : Touches l s t) (hi : .image ∈ l)
    (hl : ∀ x, { f x with outs := x.outs, urgent := x.urgent } = x)
    (hu : .urgentOk ∈ l ∨ ∀ x, x.urgent.Nodup → (f x).urgent.Nodup) : Touches l s (t.modBlc f) := by
  have hn : ∀ x, (f x).nodes = x.nodes := fun x => by conv_rhs => rw [← hl x]
  have he : ∀ x, (f x).exchange = x.exchange := fun x => by conv_rhs => rw [← hl x]
  exact modBlc_touches h (.inr hl) (.inl hi) (.inr fun x hx => by simpa [LinkOf, hn, he] using hx) hu (.inr fun x => by rw [hn])

@[simp] theorem modRte_touches {l : List Part} {s t : State} {f : Rte → Rte} (h : Touches l s t)
    (h1 : .routes ∈ l ∨ ∀ x, (f x).routes = x.routes) (h2 : .slots ∈ l ∨ ∀ x, (f x).slots = x.slots)
    (h3 : .drawn ∈ l ∨ ∀ x, (f x).lastControl = x.lastControl) (h4 : .counts ∈ l ∨ ∀ x, (f x).counts = x.counts) :
    Touches l s (t.modRte f) := h.trans fun p hp => by
  cases p <;> simp_all [Same, LinkOk, UrgentOk, ChannelsOk, PoolOk, chainEntries, KegsOk, GasQueueOk, FlagsOk]

@[simp] theorem modSch_touches {l : List Part} {s t : State} {f : Sch → Sch} (h : Touches l s t) (hs : .sch ∈ l) (hp : .poolOk ∈ l) :
    Touches l s (t.modSch f) := h.trans fun p hp => by
  cases p <;> simp_all [Same, LinkOk, UrgentOk, ChannelsOk, KegsOk, GasQueueOk, FlagsOk]

@[simp] theorem modChl_touches {l : List Part} {s t : State} {f : Chl → Chl} (h : Touches l s t) (hc : .chl ∈ l)
    (hs : .chlSettings ∈ l ∨ ∀ x, (f x).configured = x.configured ∧ (f x).policy = x.policy ∧ (f x).quantum = x.quantum
      ∧ (f x).glycolLimit = x.glycolLimit) : Touches l s (t.modChl f) := h.trans fun p hp => by
  cases p <;> simp_all [Same, LinkOk, UrgentOk, ChannelsOk, PoolOk, chainEntries, KegsOk, GasQueueOk, FlagsOk]

@[simp] theorem modMan_touches {l : List Part} {s t : State} {f : Man → Man} (h : Touches l s t) (hc : .man ∈ l)
    (hs : .manSettings ∈ l ∨ ∀ x, (f x).settleTolerance = x.settleTolerance ∧ (f x).pulseLength = x.pulseLength
      ∧ (f x).checkPressure = x.checkPressure ∧ (f x).checkWindow = x.checkWindow ∧ (f x).leakLimit = x.leakLimit
      ∧ (f x).lowThreshold = x.lowThreshold ∧ (f x).checkInterval = x.checkInterval)
    (hq : .gasOk ∈ l ∨ ∀ x, x.queue.length ≤ Config.gasQueueLimit → (f x).queue.length ≤ Config.gasQueueLimit)
    (hL : .latches ∈ l ∨ ∀ x, (f x).leak = x.leak ∧ (f x).supplyLow = x.supplyLow ∧ (f x).result = x.result := by exact .inr fun _ => ⟨rfl, rfl, rfl⟩) :
    Touches l s (t.modMan f) := h.trans fun p hp => by
  cases p <;> simp_all [Same, LinkOk, UrgentOk, ChannelsOk, PoolOk, chainEntries, KegsOk, GasQueueOk, FlagsOk]

@[simp] theorem modMgp_touches {l : List Part} {s t : State} {f : Mgp → Mgp} (h : Touches l s t)
    (h1 : .port ∈ l ∨ ∀ x, { f x with up := x.up, seq := x.seq } = x) (h0 : .receiver ∈ l ∨ ∀ x, (f x).receiver = x.receiver)
    (h2 : .up ∈ l ∨ ∀ x, (f x).up = x.up ∧ (f x).seq = x.seq)
    (h3 : .responses ∈ l ∨ ∀ x, (f x).up.filter UpFrame.isResponse = x.up.filter UpFrame.isResponse)
    (h4 : .upOk ∈ l ∨ ∀ x, RecordsOk x.up → RecordsOk (f x).up)
    (h5 : .sentOn ∈ l ∨ ∀ x, x.up <+: (f x).up := by exact .inr fun _ => List.prefix_rfl) :
    Touches l s (t.modMgp f) := h.trans fun p hp => by
  cases p <;> simp_all [Same, LinkOk, UrgentOk, ChannelsOk, PoolOk, chainEntries, KegsOk, GasQueueOk, FlagsOk]

@[simp] theorem modChan_touches {l : List Part} {s t : State} {c : Chan} {f : Channel → Channel} (h : Touches l s t) (h1 : .chans ∈ l)
    (h2 : .records ∈ l ∨ ∀ x, (f x).record = x.record) (h3 : .chansOk ∈ l ∨ ∀ x, ChannelOk x → ChannelOk (f x)) :
    Touches l s (t.modChan c f) := h.trans fun p hp => by
  cases p
  case chansOk =>
    have h3 := h3.resolve_left hp
    intro hk d
    simp only [State.chan, modChan_ccu, upd_get]
    split
    · exact h3 _ (hk c)
    · exact hk d
  all_goals simp_all [Same, LinkOk, UrgentOk, PoolOk, chainEntries, KegsOk, GasQueueOk, FlagsOk, upd_map]

/-- One keg record changes; the bounds ask for the record as it stands alone. -/
theorem modKeg_at {l : List Part} {s t : State} {b : Bay} {f : Keg → Keg} (h : Touches l s t) (h1 : .kegs ∈ l)
    (h2 : .chains ∈ l ∨ ∀ x, (f x).chain = x.chain) (h3 : .phases ∈ l ∨ ∀ x, (f x).phase = x.phase)
    (h4 : .volumes ∈ l ∨ ∀ x, (f x).loaded = x.loaded ∧ (f x).remaining = x.remaining)
    (h5 : .poolOk ∈ l ∨ (PoolOk t → (f (t.keg b)).chain = (t.keg b).chain ∧
      ((f (t.keg b)).phase = .vacant → (t.keg b).phase = .vacant ∨ (t.keg b).chain = [])))
    (h6 : .kegsOk ∈ l ∨ (KegOk (t.keg b) → KegOk (f (t.keg b))))
    (h7 : .released ∈ l ∨ ∀ x, x.underControl = false → (f x).underControl = false := by first | exact .inr fun _ h => h | exact .inr fun _ _ => rfl) :
    Touches l s (t.modKeg b f) := h.trans fun p hp => by
  cases p
  case released =>
    have h7 := h7.resolve_left hp
    intro d hd
    simp only [State.keg, modKeg_kegs, upd_get]
    split
    · rename_i e; rw [e] at hd; exact h7 _ hd
    · exact hd
  case kegsOk =>
    have h6 := h6.resolve_left hp
    intro hk d
    simp only [State.keg, modKeg_kegs, upd_get]
    split
    · exact h6 (hk b)
    · exact hk d
  case poolOk =>
    have h5 := h5.resolve_left hp
    intro hpool
    have h5 := h5 hpool
    have hc : ∀ d : Bay, ((t.modKeg b f).keg d).chain = (t.keg d).chain := by
      intro d
      simp only [State.keg, modKeg_kegs, upd_get]
      split
      · rename_i e; rw [e]; exact h5.1
      · rfl
    obtain ⟨p1, p2, p3, p4⟩ := hpool
    have hx : chainEntries (t.modKeg b f) = chainEntries t := by simp only [chainEntries, hc]
    refine ⟨by rw [hx]; exact p1, p2, fun i d => by rw [hc]; exact p3 i d, ?_⟩
    intro d hd
    rw [hc]
    by_cases e : d = b
    · subst e
      have : (f (t.keg d)).phase = .vacant := by simpa [State.keg] using hd
      rcases h5.2 this with h7 | h7
      · exact p4 d h7
      · exact h7
    · apply p4
      simpa [State.keg, upd_get, e, upd_other _ _ e] using hd
  all_goals simp_all [Same, LinkOk, UrgentOk, ChannelsOk, GasQueueOk, FlagsOk, upd_map]

@[simp] theorem modKeg_touches {l : List Part} {s t : State} {b : Bay} {f : Keg → Keg} (h : Touches l s t) (h1 : .kegs ∈ l)
    (h2 : .chains ∈ l ∨ ∀ x, (f x).chain = x.chain) (h3 : .phases ∈ l ∨ ∀ x, (f x).phase = x.phase)
    (h4 : .volumes ∈ l ∨ ∀ x, (f x).loaded = x.loaded ∧ (f x).remaining = x.remaining)
    (h5 : .poolOk ∈ l ∨ ∀ x, (f x).chain = x.chain ∧ ((f x).phase = .vacant → x.phase = .vacant ∨ x.chain = []))
    (h6 : .kegsOk ∈ l ∨ ∀ x, KegOk x → KegOk (f x))
    (h7 : .released ∈ l ∨ ∀ x, x.underControl = false → (f x).underControl = false := by first | exact .inr fun _ h => h | exact .inr fun _ _ => rfl) :
    Touches l s (t.modKeg b f) :=
  modKeg_at h h1 h2 h3 h4 (h5.imp id fun g _ => g _) (h6.imp id fun g => g _) h7

/-- One tap record changes; whether a pour begins is asked of the record as it stands alone. -/
theorem modTap_at {l : List Part} {s t : State} {x : Tap} {f : TapRecord → TapRecord} (h : Touches l s t)
    (h1 : .taps ∈ l ∨ ∀ r, untimed (f r) = untimed r)
    (h2 : .tapSettings ∈ l ∨ ∀ r, (f r).set = r.set)
    (h3 : .retry ∈ l ∨ ∀ r, (f r).purgeRetry = r.purgeRetry)
    (h4 : .pourless ∈ l ∨ ((t.tapRec x).pour = none → (f (t.tapRec x)).pour = none)) : Touches l s (t.modTap x f) := h.trans fun p hp => by
  cases p
  case pourless =>
    have h4 := h4.resolve_left hp
    intro d hd
    simp only [State.tapRec, modTap_tap, upd_get]
    split
    · rename_i e; rw [e] at hd; exact h4 hd
    · exact hd
  case taps =>
    refine ⟨?_, rfl⟩
    simp only [modTap_tap]
    exact upd_map _ _ _ _ (h1.resolve_left hp)
  all_goals simp_all [Same, LinkOk, UrgentOk, ChannelsOk, PoolOk, chainEntries, KegsOk, GasQueueOk, FlagsOk, upd_map]

@[simp] theorem modTap_touches {l : List Part} {s t : State} {x : Tap} {f : TapRecord → TapRecord} (h : Touches l s t)
    (h1 : .taps ∈ l ∨ ∀ r, untimed (f r) = untimed r)
    (h2 : .tapSettings ∈ l ∨ ∀ r, (f r).set = r.set)
    (h3 : .retry ∈ l ∨ ∀ r, (f r).purgeRetry = r.purgeRetry := by exact .inr fun _ => rfl)
    (h4 : .pourless ∈ l ∨ ∀ r, r.pour = none → (f r).pour = none := by first | exact .inr fun _ h => h | exact .inr fun _ _ => rfl) :
    Touches l s (t.modTap x f) :=
  modTap_at h h1 h2 h3 (h4.imp id fun g => g _)

@[simp] theorem modAtn_touches {l : List Part} {s t : State} {f : Vector FlagRecord 12 → Vector FlagRecord 12} (h : Touches l s t) (h1 : .atn ∈ l)
    (h2 : .masks ∈ l ∨ ∀ v, (f v).map (·.masked) = v.map (·.masked))
    (h3 : .flags ∈ l ∨ ∀ v : Vector FlagRecord 12, ∀ i : Fin 12, v[i].pending = true →
      (f v)[i].pending = true ∧ ∀ n ∈ v[i].index, n ∈ (f v)[i].index)
    (h4 : .atnOk ∈ l ∨ ∀ v : Vector FlagRecord 12, (∀ i : Fin 12, FlagOk v[i]) → ∀ i : Fin 12, FlagOk (f v)[i]) :
    Touches l s (t.modAtn f) := h.trans fun p hp => by
  cases p
  case flags => exact h3.resolve_left hp t.atn
  case atnOk => exact h4.resolve_left hp t.atn
  all_goals simp_all [Same, LinkOk, UrgentOk, ChannelsOk, PoolOk, chainEntries, KegsOk, GasQueueOk, FlagsOk]

@[simp] theorem modNode_touches {l : List Part} {s t : State} {n : Node} {f : NodeRecord → NodeRecord} (h : Touches l s t) (h1 : .line ∈ l)
    (h2 : .linkOk ∈ l ∨ (NodeOk (t.node n) → NodeOk (f (t.node n))))
    (h3 : .nodes ∈ l ∨ ∀ r, undue (f r) = undue r := by exact .inr fun _ => rfl) : Touches l s (t.modNode n f) := by
  have hm : Touches (.linkOk :: l) t (t.modNode n f) :=
    modBlc_touches (Touches.refl _ _) (.inl (by simp [h1])) (.inr fun x => ⟨rfl, rfl⟩) (by simp) (.inr fun x hx => hx)
      (h3.imp (by simp +contextual) fun g x => upd_map x.nodes n f undue g)
  by_cases hk : Part.linkOk ∈ l
  · exact h.trans (hm.mono (by simp [hk]))
  · have h2 := h2.resolve_left hk
    refine h.trans (hm.close fun hx => ⟨fun m => ?_, hx.2⟩)
    show NodeOk (upd t.blc.nodes n f)[m]
    rw [upd_get]
    split
    · exact h2 (hx.1 n)
    · exact hx.1 m

@[simp] theorem modThermo_touches {l : List Part} {s t : State} {b : Bay} {f : Thermo → Thermo} (h : Touches l s t) (h1 : .chl ∈ l) :
    Touches l s (t.modThermo b f) := by
  simp [State.modThermo, *]

@[simp] theorem modLine_touches {l : List Part} {s t : State} {x : Tap} {f : Line → Line} (h : Touches l s t) (h1 : .chl ∈ l) :
    Touches l s (t.modLine x f) := by
  simp [State.modLine, *]

/-! ## Choices and passes over lists -/

theorem choose_touches {l : List Part} {s t : State} {n : Nat} (h : Touches l s t) (hf : .free ∈ l) : Touches l s (choose n t).2 := by
  unfold choose
  split <;> simp [*]

@[simp] theorem forAll_touches {α : Type} {l : List Part} {s t : State} {xs : List α} {f : α → State → State} (h : Touches l s t)
    (hf : ∀ x u, Touches l s u → Touches l s (f x u)) : Touches l s (forAll xs f t) := by
  unfold forAll
  induction xs generalizing t with
  | nil => simpa using h
  | cons x xs ih => exact ih (hf x t h)

@[simp] theorem forAny_touches {α : Type} {l : List Part} {s t : State} {xs : List α} {f : α → State → State} (h : Touches l s t)
    (hx : .free ∈ l) (hf : ∀ x u, Touches l s u → Touches l s (f x u)) : Touches l s (forAny xs f t) := by
  obtain ⟨_, _, -, he⟩ := forAny_spec xs f t
  exact he ▸ forAll_touches (setFree_touches h hx) hf

theorem forAnyWith_touches {α : Type} {l : List Part} {s t : State} {xs : List α} {f : α → State → State} {g : State → State} (h : Touches l s t)
    (hx : .free ∈ l) (hg : ∀ u, Touches l s u → Touches l s (g u)) (hf : ∀ x u, Touches l s u → Touches l s (f x u)) :
    Touches l s (forAnyWith g xs f t) := by
  obtain ⟨_, _, _, -, he⟩ := forAnyWith_spec g xs f t
  exact he ▸ forAll_touches (hg _ (forAll_touches (setFree_touches h hx) hf)) hf

@[simp] theorem eitherOrder_touches {l : List Part} {s t : State} {f g : State → State} (h : Touches l s t) (hx : .free ∈ l)
    (hf : ∀ u, Touches l s u → Touches l s (f u)) (hg : ∀ u, Touches l s u → Touches l s (g u)) : Touches l s (eitherOrder f g t) := by
  unfold eitherOrder
  have := choose_touches (n := 2) h hx
  simp only
  split
  · exact hg _ (hf _ this)
  · exact hf _ (hg _ this)

/-! ## Outputs -/

@[simp] theorem joinUrgent_touches {l : List Part} {s t : State} {n : Node} (h : Touches l s t) (hi : .image ∈ l) : Touches l s (joinUrgent n t) := by
  unfold joinUrgent
  split
  · exact h
  · rename_i hn
    refine h.trans (Touches.close (q := .urgentOk) (modBlc_image (Touches.refl _ _) (by simp [hi]) (fun _ => rfl) (by simp)) ?_)
    intro hu
    simp only [UrgentOk, modBlc_blc] at *
    exact List.nodup_append.2 ⟨hu, by simp, fun a ha c hc e => hn (by simp at hc; rw [← hc, ← e]; exact ha)⟩

@[simp] theorem commandOut_touches {l : List Part} {s t : State} {o : Output} {v : Nat} (h : Touches l s t) (hi : .image ∈ l) :
    Touches l s (commandOut o v t) := by
  unfold commandOut
  split
  · exact h
  · exact joinUrgent_touches (modBlc_image h hi (fun _ => rfl) (.inr fun _ hx => hx)) hi

@[simp] theorem write_touches {l : List Part} {s t : State} {w : Owner} {o : Output} {v : Nat} (h : Touches l s t) (hi : .image ∈ l) :
    Touches l s (write w o v t) := by
  simp (maxDischargeDepth := 20) [write, *]

@[simp] theorem passing_touches {l : List Part} {s t : State} {os : List Output} {f : State → State} (h : Touches l s (f t)) (hi : .image ∈ l) :
    Touches l s (passing os f t) := by
  simp (maxDischargeDepth := 20) +contextual [passing, *]

/-! ## The upward queue and the flags -/

@[simp] theorem isResponse_report (r : Report) : (UpFrame.report r).isResponse = false := id rfl
@[simp] theorem isResponse_attention (x : Byte) : (UpFrame.attention x).isResponse = false := id rfl
@[simp] theorem isResponse_pourRecord (r : PourReport) : (UpFrame.pourRecord r).isResponse = false := id rfl

@[simp] theorem takeSeq_touches {l : List Part} {s t : State} (h : Touches l s t) (hu : .up ∈ l) : Touches l s (takeSeq t) := by
  simp (maxDischargeDepth := 20) [takeSeq, *]

/-- A frame that is no RESPONSE joins, where it may. -/
theorem joinUp_touches {l : List Part} {s t : State} {f : UpFrame} (h : Touches l s t) (hu : .up ∈ l) (hf : f.isResponse = false)
    (hr : RecordsOk t.mgp.up → RecordsOk (t.mgp.up ++ [f])) : Touches l s (joinUp f t) := by
  refine h.trans (Touches.close (q := .upOk) ?_ ?_)
  · simp (maxDischargeDepth := 20) [joinUp, hu, hf]
  · simpa [Same, joinUp] using hr

theorem isRecord_countP (l : List UpFrame) : l.countP isRecord ≤ l.length := List.countP_le_length

@[simp] theorem handAttention_touches {l : List Part} {s t : State} (h : Touches l s t) (hu : .up ∈ l) : Touches l s (handAttention t) := by
  unfold handAttention
  split
  · exact h
  · rename_i hn
    refine takeSeq_touches (joinUp_touches h hu rfl ?_) hu
    have h0 : t.mgp.up.countP UpFrame.isAttention = 0 := by
      rw [List.countP_eq_zero]
      intro a ha hb
      exact hn (List.any_eq_true.2 ⟨a, ha, hb⟩)
    rintro ⟨_, h2⟩
    refine ⟨?_, ?_⟩
    · rw [List.countP_append, h0]
      simp [UpFrame.isAttention]
    · rw [List.countP_append]
      simpa [isRecord, UpFrame.isAttention] using h2

@[simp] theorem raised_masked (i : Option Nat) (r : FlagRecord) : (r.raised i).masked = r.masked := id rfl

theorem mem_insertIndex {i n : Nat} {l : List Nat} : n ∈ insertIndex i l ↔ n = i ∨ n ∈ l := by
  induction l with
  | nil => simp [insertIndex]
  | cons x xs ih =>
    unfold insertIndex
    split
    · rename_i e; simp [e]
    · split
      · simp
      · simp only [List.mem_cons, ih]
        tauto

theorem raised_index {i : Option Nat} {r : FlagRecord} {n : Nat} (h : n ∈ r.index) : n ∈ (r.raised i).index := by
  cases i with
  | none => exact h
  | some i => exact mem_insertIndex.2 (.inr h)

theorem insertIndex_ascending {i : Nat} {l : List Nat} (h : l.Pairwise (· < ·)) : (insertIndex i l).Pairwise (· < ·) := by
  induction l with
  | nil => simp [insertIndex]
  | cons x xs ih =>
    obtain ⟨hx, hxs⟩ := List.pairwise_cons.1 h
    unfold insertIndex
    split
    · exact h
    · split
      · rename_i hlt
        refine List.pairwise_cons.2 ⟨fun n hn => ?_, h⟩
        rcases List.mem_cons.1 hn with rfl | hn
        · exact hlt
        · exact Nat.lt_trans hlt (hx n hn)
      · refine List.pairwise_cons.2 ⟨fun n hn => ?_, ih hxs⟩
        rcases mem_insertIndex.1 hn with rfl | hn
        · omega
        · exact hx n hn

/-- R178: raising a flag keeps its list of indices in ascending order. -/
theorem raised_flagOk {i : Option Nat} {r : FlagRecord} (h : FlagOk r) : FlagOk (r.raised i) := by
  refine ⟨fun hp => by simp [FlagRecord.raised] at hp, ?_⟩
  cases i with
  | none => exact h.2
  | some i => exact insertIndex_ascending h.2

theorem upd_flagOk {f : Flag} {g : FlagRecord → FlagRecord} (hg : ∀ r, FlagOk r → FlagOk (g r)) (v : Vector FlagRecord 12)
    (h : ∀ i : Fin 12, FlagOk v[i]) (i : Fin 12) : FlagOk (upd v f.idx g)[i] := by
  rw [upd_get]
  split
  · exact hg _ (h _)
  · exact h i

theorem cleared_flagOk (r : FlagRecord) : FlagOk r.cleared := ⟨fun _ => rfl, List.Pairwise.nil⟩

theorem upd_raised {f : Flag} {i : Option Nat} (v : Vector FlagRecord 12) (j : Fin 12) (h : v[j].pending = true) :
    (upd v f.idx (FlagRecord.raised i))[j].pending = true ∧ ∀ n ∈ v[j].index, n ∈ (upd v f.idx (FlagRecord.raised i))[j].index := by
  rw [upd_get]
  split
  · rename_i e
    subst e
    exact ⟨rfl, fun n hn => raised_index hn⟩
  · exact ⟨h, fun _ hn => hn⟩

@[simp] theorem raise_touches {l : List Part} {s t : State} {f : Flag} {i : Option Nat} (h : Touches l s t) (hu : .up ∈ l) (ha : .atn ∈ l) :
    Touches l s (raise f i t) := by
  have hm : ∀ v : Vector FlagRecord 12, (upd v f.idx (FlagRecord.raised i)).map (·.masked) = v.map (·.masked) :=
    fun v => upd_map v f.idx _ _ (raised_masked i)
  have hx := modAtn_touches h ha (.inr hm) (.inr upd_raised) (.inr (upd_flagOk fun _ => raised_flagOk))
  unfold raise
  dsimp only
  split
  · exact handAttention_touches hx hu
  · exact hx

@[simp] theorem raiseLinkError_touches {l : List Part} {s t : State} (h : Touches l s t) (hu : .up ∈ l) (ha : .atn ∈ l) :
    Touches l s (raiseLinkError t) := by
  simp (maxDischargeDepth := 20) [raiseLinkError, *]

/-- A REPORT or POUR_RECORD frame that joins below 14 frames keeps the bound. -/
theorem recordsOk_join {u : List UpFrame} {f : UpFrame} (hl : u.length < Config.pourRecordLimit) (hf : f.isAttention = false) (h : RecordsOk u) :
    RecordsOk (u ++ [f]) := by
  refine ⟨?_, ?_⟩
  · rw [List.countP_append]
    simpa [hf] using h.1
  · refine (isRecord_countP _).trans ?_
    simp only [List.length_append, List.length_cons, List.length_nil]
    omega

@[simp] theorem handReport_touches {l : List Part} {s t : State} {mk : Byte → Report} (h : Touches l s t) (hu : .up ∈ l) (ha : .atn ∈ l) :
    Touches l s (handReport mk t) := by
  unfold handReport
  dsimp only
  split
  · rename_i hr
    refine joinUp_touches (takeSeq_touches h hu) hu rfl (recordsOk_join ?_ rfl)
    have := of_decide_eq_true hr
    simp only [Config.reportLimit] at this
    simp only [takeSeq, modMgp_mgp, Config.pourRecordLimit]
    omega
  · simp (maxDischargeDepth := 20) [*]

@[simp] theorem joinPourRecord_touches {l : List Part} {s t : State} {mk : Byte → PourReport} (h : Touches l s t) (hu : .up ∈ l) :
    Touches l s (joinPourRecord mk t) := by
  unfold joinPourRecord
  split
  · rename_i hr
    exact joinUp_touches (takeSeq_touches h hu) hu rfl (recordsOk_join (by simpa [takeSeq] using of_decide_eq_true hr) rfl)
  · exact takeSeq_touches h hu

@[simp] theorem handPourRecord_touches {l : List Part} {s t : State} {mk : Byte → PourReport} (h : Touches l s t) (hu : .up ∈ l) (ha : .atn ∈ l) :
    Touches l s (handPourRecord mk t) := by
  unfold handPourRecord
  split <;> simp (maxDischargeDepth := 20) [*]

end Sys2Proof.Machine
end

