-- ==== Sys2Proof/Laws/Chiller.lean ====
section
/-! SUPPORT. What the work of the thermostats and the chiller arbiter touches. -/

namespace Sys2Proof.Machine

open Sys2Proof.Safety

@[simp] theorem writeValve_touches {l : List Part} {s t : State} {r : Requester} {v : Nat} (h : Touches l s t) (h0 : .image ∈ l) :
    Touches l s (writeValve r v t) := by
  unfold writeValve
  try dsimp only
  repeat' split
  all_goals simp (maxDischargeDepth := 40) +contextual [KegOk, filter_bound, erase_bound, *]

@[simp] theorem setWant_touches {l : List Part} {s t : State} {r : Requester} (h : Touches l s t) (h0 : .chl ∈ l) :
    Touches l s (setWant r t) := by
  unfold setWant
  try dsimp only
  repeat' split
  all_goals simp (maxDischargeDepth := 40) +contextual [KegOk, filter_bound, erase_bound, *]

@[simp] theorem setCooling_touches {l : List Part} {s t : State} {r : Requester} (h : Touches l s t) (h0 : .chl ∈ l) :
    Touches l s (setCooling r t) := by
  unfold setCooling
  try dsimp only
  repeat' split
  all_goals simp (maxDischargeDepth := 40) +contextual [KegOk, filter_bound, erase_bound, *]

@[simp] theorem setRest_touches {l : List Part} {s t : State} {r : Requester} (h : Touches l s t) (h0 : .chl ∈ l) :
    Touches l s (setRest r t) := by
  unfold setRest
  try dsimp only
  repeat' split
  all_goals simp (maxDischargeDepth := 40) +contextual [KegOk, filter_bound, erase_bound, *]

@[simp] theorem dropHolder_touches {l : List Part} {s t : State} {r : Requester} (h : Touches l s t) (h0 : .chl ∈ l) :
    Touches l s (dropHolder r t) := by
  unfold dropHolder
  try dsimp only
  repeat' split
  all_goals simp (maxDischargeDepth := 40) +contextual [KegOk, filter_bound, erase_bound, *]

@[simp] theorem dropWaiting_touches {l : List Part} {s t : State} {r : Requester} (h : Touches l s t) (h0 : .chl ∈ l) :
    Touches l s (dropWaiting r t) := by
  unfold dropWaiting
  try dsimp only
  repeat' split
  all_goals simp (maxDischargeDepth := 40) +contextual [KegOk, filter_bound, erase_bound, *]

@[simp] theorem grantHead_touches {l : List Part} {s t : State} (h : Touches l s t) (h0 : .image ∈ l) (h1 : .chl ∈ l) :
    Touches l s (grantHead t) := by
  unfold grantHead
  try dsimp only
  repeat' split
  all_goals simp (maxDischargeDepth := 40) +contextual [KegOk, filter_bound, erase_bound, *]

@[simp] theorem grantUpTo_touches {l : List Part} {s t : State} {n : Nat} (h : Touches l s t) (h0 : .image ∈ l) (h1 : .chl ∈ l) :
    Touches l s (grantUpTo n t) := by
  induction n generalizing t with
  | zero => simpa [grantUpTo] using h
  | succ n ih =>
    simp only [grantUpTo]
    split
    · exact ih (grantHead_touches h h0 h1)
    · exact h

@[simp] theorem grants_touches {l : List Part} {s t : State} (h : Touches l s t) (h0 : .image ∈ l) (h1 : .chl ∈ l) :
    Touches l s (grants t) := by
  unfold grants
  try dsimp only
  repeat' split
  all_goals simp (maxDischargeDepth := 40) +contextual [KegOk, filter_bound, erase_bound, *]

@[simp] theorem requestSlot_touches {l : List Part} {s t : State} {r : Requester} (h : Touches l s t) (h0 : .image ∈ l) (h1 : .chl ∈ l) :
    Touches l s (requestSlot r t) := by
  unfold requestSlot
  try dsimp only
  repeat' split
  all_goals simp (maxDischargeDepth := 40) +contextual [KegOk, filter_bound, erase_bound, *]

@[simp] theorem release_touches {l : List Part} {s t : State} {r : Requester} (h : Touches l s t) (h0 : .image ∈ l) (h1 : .chl ∈ l) :
    Touches l s (release r t) := by
  unfold release
  try dsimp only
  repeat' split
  all_goals simp (maxDischargeDepth := 40) +contextual [KegOk, filter_bound, erase_bound, *]

@[simp] theorem withdraw_touches {l : List Part} {s t : State} {r : Requester} (h : Touches l s t) (h0 : .chl ∈ l) :
    Touches l s (withdraw r t) := by
  unfold withdraw
  try dsimp only
  repeat' split
  all_goals simp (maxDischargeDepth := 40) +contextual [KegOk, filter_bound, erase_bound, *]

@[simp] theorem pumpWrite_touches {l : List Part} {s t : State} (h : Touches l s t) (h0 : .image ∈ l) :
    Touches l s (pumpWrite t) := by
  unfold pumpWrite
  try dsimp only
  repeat' split
  all_goals simp (maxDischargeDepth := 40) +contextual [KegOk, filter_bound, erase_bound, *]

@[simp] theorem heatDecision_touches {l : List Part} {s t : State} {b : Bay} {v : Int} (h : Touches l s t) (h0 : .image ∈ l) (h1 : .chl ∈ l) :
    Touches l s (heatDecision b v t) := by
  unfold heatDecision
  try dsimp only
  repeat' split
  all_goals simp (maxDischargeDepth := 40) +contextual [KegOk, filter_bound, erase_bound, *]

@[simp] theorem thermoFromRest_touches {l : List Part} {s t : State} {b : Bay} (h : Touches l s t) (h0 : .image ∈ l) (h1 : .chl ∈ l) :
    Touches l s (thermoFromRest b t) := by
  unfold thermoFromRest
  try dsimp only
  repeat' split
  all_goals simp (maxDischargeDepth := 40) +contextual [KegOk, filter_bound, erase_bound, *]

@[simp] theorem thermoEval_touches {l : List Part} {s t : State} {b : Bay} (h : Touches l s t) (h0 : .image ∈ l) (h1 : .chl ∈ l) :
    Touches l s (thermoEval b t) := by
  unfold thermoEval
  try dsimp only
  repeat' split
  all_goals simp (maxDischargeDepth := 40) +contextual [KegOk, filter_bound, erase_bound, *]

@[simp] theorem thermoTemp_touches {l : List Part} {s t : State} {b : Bay} {v : Int} (h : Touches l s t) (h0 : .image ∈ l) (h1 : .chl ∈ l) :
    Touches l s (thermoTemp b v t) := by
  unfold thermoTemp
  try dsimp only
  repeat' split
  all_goals simp (maxDischargeDepth := 40) +contextual [KegOk, filter_bound, erase_bound, *]

@[simp] theorem thermoSetpoint_touches {l : List Part} {s t : State} {b : Bay} {v : Int} (h : Touches l s t) (h0 : .image ∈ l) (h1 : .chl ∈ l) :
    Touches l s (thermoSetpoint b v t) := by
  unfold thermoSetpoint
  try dsimp only
  repeat' split
  all_goals simp (maxDischargeDepth := 40) +contextual [KegOk, filter_bound, erase_bound, *]

@[simp] theorem thermoBand_touches {l : List Part} {s t : State} {b : Bay} {v : Int} (h : Touches l s t) (h0 : .chl ∈ l) :
    Touches l s (thermoBand b v t) := by
  unfold thermoBand
  try dsimp only
  repeat' split
  all_goals simp (maxDischargeDepth := 40) +contextual [KegOk, filter_bound, erase_bound, *]

@[simp] theorem lineEval_touches {l : List Part} {s t : State} {x : Tap} {v : Int} (h : Touches l s t) (h0 : .image ∈ l) (h1 : .chl ∈ l) :
    Touches l s (lineEval x v t) := by
  unfold lineEval
  try dsimp only
  repeat' split
  all_goals simp (maxDischargeDepth := 40) +contextual [KegOk, filter_bound, erase_bound, *]

@[simp] theorem lineSatisfied_touches {l : List Part} {s t : State} {x : Tap} (h : Touches l s t) (h0 : .image ∈ l) (h1 : .chl ∈ l) :
    Touches l s (lineSatisfied x t) := by
  unfold lineSatisfied
  try dsimp only
  repeat' split
  all_goals simp (maxDischargeDepth := 40) +contextual [KegOk, filter_bound, erase_bound, *]

@[simp] theorem lineEmptied_touches {l : List Part} {s t : State} {x : Tap} (h : Touches l s t) (h0 : .image ∈ l) (h1 : .chl ∈ l) :
    Touches l s (lineEmptied x t) := by
  unfold lineEmptied
  try dsimp only
  repeat' split
  all_goals simp (maxDischargeDepth := 40) +contextual [KegOk, filter_bound, erase_bound, *]

@[simp] theorem lineActivate_touches {l : List Part} {s t : State} {x : Tap} (h : Touches l s t) (h0 : .image ∈ l) (h1 : .chl ∈ l) :
    Touches l s (lineActivate x t) := by
  unfold lineActivate
  try dsimp only
  repeat' split
  all_goals simp (maxDischargeDepth := 40) +contextual [KegOk, filter_bound, erase_bound, *]

@[simp] theorem lineDeactivate_touches {l : List Part} {s t : State} {x : Tap} (h : Touches l s t) (h0 : .image ∈ l) (h1 : .chl ∈ l) :
    Touches l s (lineDeactivate x t) := by
  unfold lineDeactivate
  try dsimp only
  repeat' split
  all_goals simp (maxDischargeDepth := 40) +contextual [KegOk, filter_bound, erase_bound, *]

@[simp] theorem lineRefresh_touches {l : List Part} {s t : State} {x : Tap} (h : Touches l s t) (h0 : .image ∈ l) (h1 : .chl ∈ l) :
    Touches l s (lineRefresh x t) := by
  unfold lineRefresh
  try dsimp only
  repeat' split
  all_goals simp (maxDischargeDepth := 40) +contextual [KegOk, filter_bound, erase_bound, *]

@[simp] theorem linesRefresh_touches {l : List Part} {s t : State} (h : Touches l s t) (h0 : .image ∈ l) (h1 : .chl ∈ l) (h2 : .free ∈ l) :
    Touches l s (linesRefresh t) := by
  unfold linesRefresh
  try dsimp only
  repeat' split
  all_goals simp (maxDischargeDepth := 40) +contextual [KegOk, filter_bound, erase_bound, *]

@[simp] theorem lineSet_touches {l : List Part} {s t : State} {x : Tap} {a : Option Bay} {v : Int} (h : Touches l s t) (h0 : .image ∈ l) (h1 : .chl ∈ l) :
    Touches l s (lineSet x a v t) := by
  unfold lineSet
  try dsimp only
  repeat' split
  all_goals simp (maxDischargeDepth := 40) +contextual [KegOk, filter_bound, erase_bound, *]

@[simp] theorem thermoCreate_touches {l : List Part} {s t : State} {b : Bay} {p : ActivePhase} (h : Touches l s t) (h0 : .image ∈ l) (h1 : .chl ∈ l) (h2 : .free ∈ l) :
    Touches l s (thermoCreate b p t) := by
  unfold thermoCreate
  try dsimp only
  repeat' split
  all_goals simp (maxDischargeDepth := 40) +contextual [KegOk, filter_bound, erase_bound, *]

@[simp] theorem thermoEnd_touches {l : List Part} {s t : State} {b : Bay} (h : Touches l s t) (h0 : .image ∈ l) (h1 : .chl ∈ l) (h2 : .free ∈ l) :
    Touches l s (thermoEnd b t) := by
  unfold thermoEnd
  try dsimp only
  repeat' split
  all_goals simp (maxDischargeDepth := 40) +contextual [KegOk, filter_bound, erase_bound, *]

@[simp] theorem thermoServe_touches {l : List Part} {s t : State} {b : Bay} {v : Int} (h : Touches l s t) (h0 : .image ∈ l) (h1 : .chl ∈ l) (h2 : .free ∈ l) :
    Touches l s (thermoServe b v t) := by
  unfold thermoServe
  try dsimp only
  repeat' split
  all_goals simp (maxDischargeDepth := 40) +contextual [KegOk, filter_bound, erase_bound, *]

@[simp] theorem turnExpired_touches {l : List Part} {s t : State} {b : Bay} (h : Touches l s t) (h0 : .image ∈ l) (h1 : .chl ∈ l) :
    Touches l s (turnExpired b t) := by
  unfold turnExpired
  try dsimp only
  repeat' split
  all_goals simp (maxDischargeDepth := 40) +contextual [KegOk, filter_bound, erase_bound, *]

@[simp] theorem revokeOne_touches {l : List Part} {s t : State} {r : Requester} (h : Touches l s t) (h0 : .image ∈ l) (h1 : .chl ∈ l) :
    Touches l s (revokeOne r t) := by
  unfold revokeOne
  try dsimp only
  repeat' split
  all_goals simp (maxDischargeDepth := 40) +contextual [KegOk, filter_bound, erase_bound, *]

@[simp] theorem revoke_touches {l : List Part} {s t : State} {rs : List Requester} (h : Touches l s t) (h0 : .image ∈ l) (h1 : .chl ∈ l) :
    Touches l s (revoke rs t) := by
  unfold revoke
  try dsimp only
  repeat' split
  all_goals simp (maxDischargeDepth := 40) +contextual [KegOk, filter_bound, erase_bound, *]

@[simp] theorem guardHot_touches {l : List Part} {s t : State} (h : Touches l s t) (h0 : .image ∈ l) (h1 : .chl ∈ l) (h2 : .up ∈ l) (h3 : .atn ∈ l) :
    Touches l s (guardHot t) := by
  unfold guardHot
  try dsimp only
  repeat' split
  all_goals simp (maxDischargeDepth := 40) +contextual [KegOk, filter_bound, erase_bound, *]

@[simp] theorem guardNormal_touches {l : List Part} {s t : State} (h : Touches l s t) (h0 : .image ∈ l) (h1 : .chl ∈ l) :
    Touches l s (guardNormal t) := by
  unfold guardNormal
  try dsimp only
  repeat' split
  all_goals simp (maxDischargeDepth := 40) +contextual [KegOk, filter_bound, erase_bound, *]

@[simp] theorem guardEval_touches {l : List Part} {s t : State} {v : Int} (h : Touches l s t) (h0 : .image ∈ l) (h1 : .chl ∈ l) (h2 : .up ∈ l) (h3 : .atn ∈ l) :
    Touches l s (guardEval v t) := by
  unfold guardEval
  try dsimp only
  repeat' split
  all_goals simp (maxDischargeDepth := 40) +contextual [KegOk, filter_bound, erase_bound, *]

@[simp] theorem chillerLost_touches {l : List Part} {s t : State} (h : Touches l s t) (h0 : .image ∈ l) (h1 : .chl ∈ l) :
    Touches l s (chillerLost t) := by
  unfold chillerLost
  try dsimp only
  repeat' split
  all_goals simp (maxDischargeDepth := 40) +contextual [KegOk, filter_bound, erase_bound, *]

@[simp] theorem chillerReturned_touches {l : List Part} {s t : State} (h : Touches l s t) (h0 : .image ∈ l) (h1 : .chl ∈ l) :
    Touches l s (chillerReturned t) := by
  unfold chillerReturned
  try dsimp only
  repeat' split
  all_goals simp (maxDischargeDepth := 40) +contextual [KegOk, filter_bound, erase_bound, *]

@[simp] theorem chillerHold_touches {l : List Part} {s t : State} (h : Touches l s t) (h0 : .chl ∈ l) :
    Touches l s (chillerHold t) := by
  unfold chillerHold
  try dsimp only
  repeat' split
  all_goals simp (maxDischargeDepth := 40) +contextual [KegOk, filter_bound, erase_bound, *]

@[simp] theorem chillerSoftReset_touches {l : List Part} {s t : State} (h : Touches l s t) (h0 : .chl ∈ l) :
    Touches l s (chillerSoftReset t) := by
  unfold chillerSoftReset
  try dsimp only
  repeat' split
  all_goals simp (maxDischargeDepth := 40) +contextual [KegOk, filter_bound, erase_bound, *]

end Sys2Proof.Machine
end

