-- ==== Sys2Proof/Laws/Gas.lean ====
section
/-! SUPPORT. What the work of the gas manifold's core touches. -/

namespace Sys2Proof.Machine

open Sys2Proof.Safety

@[simp] theorem chargeMarked_touches {l : List Part} {s t : State} {b : Bay} (h : Touches l s t) (h0 : .kegs ∈ l) :
    Touches l s (chargeMarked b t) := by
  unfold chargeMarked
  try dsimp only
  repeat' split
  all_goals simp (maxDischargeDepth := 40) +contextual [KegOk, filter_bound, erase_bound, *]

@[simp] theorem chargeEnded_touches {l : List Part} {s t : State} {b : Bay} {c : Bool} (h : Touches l s t) (h0 : .kegs ∈ l) :
    Touches l s (chargeEnded b c t) := by
  unfold chargeEnded
  try dsimp only
  repeat' split
  all_goals simp (maxDischargeDepth := 40) +contextual [KegOk, filter_bound, erase_bound, *]

@[simp] theorem tryStart_touches {l : List Part} {s t : State} {x : Tap} (h : Touches l s t) (h0 : .image ∈ l) (h1 : .taps ∈ l) :
    Touches l s (tryStart x t) := by
  unfold tryStart
  split
  · rename_i p hp
    split
    · exact write_touches (modTap_at h (.inl h1) (.inr fun _ => rfl) (.inr fun _ => rfl) (.inr fun e => (by rw [hp] at e; cases e))) h0
    · exact h
  · exact h

@[simp] theorem grantPour_touches {l : List Part} {s t : State} {x : Tap} (h : Touches l s t) (h0 : .image ∈ l) (h1 : .taps ∈ l) :
    Touches l s (grantPour x t) := by
  unfold grantPour
  try dsimp only
  repeat' split
  all_goals simp (maxDischargeDepth := 40) +contextual [KegOk, filter_bound, erase_bound, *]

@[simp] theorem purgeServed_touches {l : List Part} {s t : State} {x : Tap} (h : Touches l s t) (h0 : .taps ∈ l) :
    Touches l s (purgeServed x t) := by
  unfold purgeServed
  try dsimp only
  repeat' split
  all_goals simp (maxDischargeDepth := 40) +contextual [KegOk, filter_bound, erase_bound, *]

@[simp] theorem tellServed_touches {l : List Part} {s t : State} {n : GasNeed} (h : Touches l s t) (h0 : .kegs ∈ l) (h1 : .taps ∈ l) :
    Touches l s (tellServed n t) := by
  unfold tellServed
  try dsimp only
  repeat' split
  all_goals simp (maxDischargeDepth := 40) +contextual [KegOk, filter_bound, erase_bound, *]

@[simp] theorem startOperation_touches {l : List Part} {s t : State} {e : GasEntry} (h : Touches l s t) (h0 : .image ∈ l) (h1 : .man ∈ l) (h2 : .kegs ∈ l) (h3 : .taps ∈ l) :
    Touches l s (startOperation e t) := by
  unfold startOperation
  try dsimp only
  repeat' split
  all_goals simp (maxDischargeDepth := 40) +contextual [KegOk, filter_bound, erase_bound, *]

@[simp] theorem serveEntry_touches {l : List Part} {s t : State} {e : GasEntry} (h : Touches l s t) (h0 : .image ∈ l) (h1 : .man ∈ l) (h2 : .kegs ∈ l) (h3 : .taps ∈ l) :
    Touches l s (serveEntry e t) := by
  unfold serveEntry
  try dsimp only
  repeat' split
  all_goals simp (maxDischargeDepth := 40) +contextual [KegOk, filter_bound, erase_bound, *]

@[simp] theorem serveQueue_touches {l : List Part} {s t : State} (h : Touches l s t) (h0 : .image ∈ l) (h1 : .man ∈ l) (h2 : .kegs ∈ l) (h3 : .taps ∈ l) :
    Touches l s (serveQueue t) := by
  unfold serveQueue
  try dsimp only
  repeat' split
  all_goals simp (maxDischargeDepth := 40) +contextual [KegOk, filter_bound, erase_bound, *]

@[simp] theorem becomeIdle_touches {l : List Part} {s t : State} (h : Touches l s t) (h0 : .image ∈ l) (h1 : .man ∈ l) (h2 : .kegs ∈ l) (h3 : .taps ∈ l) :
    Touches l s (becomeIdle t) := by
  unfold becomeIdle
  try dsimp only
  repeat' split
  all_goals simp (maxDischargeDepth := 40) +contextual [KegOk, filter_bound, erase_bound, *]

@[simp] theorem joinPour_touches {l : List Part} {s t : State} {e : GasEntry} (h : Touches l s t) (h0 : .image ∈ l) (h1 : .man ∈ l) (h2 : .taps ∈ l) :
    Touches l s (joinPour e t) := by
  unfold joinPour
  try dsimp only
  repeat' split
  all_goals simp (maxDischargeDepth := 40) +contextual [KegOk, filter_bound, erase_bound, *]

/-- Table 7-4. A need is queued only while fewer than 8 entries wait. -/
theorem answerNeed_queued {v : Bool} {e : GasEntry} {t : State} (h : answerNeed v e t = .queued) : t.man.queue.length < Config.gasQueueLimit := by
  unfold answerNeed turnedAway at h
  repeat' split at h
  all_goals first | omega | simp at h

theorem raiseNeed_touches {l : List Part} {s t : State} {v : Bool} {e : GasEntry} (h : Touches l s t) (h0 : .image ∈ l) (h1 : .man ∈ l)
    (h2 : .kegs ∈ l) (h3 : .taps ∈ l) : Touches l s (raiseNeed v e t).2 := by
  unfold raiseNeed
  split
  · simp [*]
  · simp [*]
  · rename_i hq
    refine h.trans (Touches.close (q := .gasOk) (by simp [*]) fun _ => ?_)
    have := answerNeed_queued hq
    simp only [GasQueueOk, modMan_man, List.length_append, List.length_cons, List.length_nil]
    omega
  · exact h

@[simp] theorem raiseCharge_touches {l : List Part} {s t : State} {b : Bay} {v : Int} (h : Touches l s t) (h0 : .image ∈ l) (h1 : .man ∈ l) (h2 : .kegs ∈ l) (h3 : .taps ∈ l) :
    Touches l s (raiseCharge b v t) := by
  have := raiseNeed_touches (v := true) (e := { need := .charge b, pressure := v }) h h0 h1 h2 h3
  unfold raiseCharge
  split <;> simp_all

@[simp] theorem setActive_touches {l : List Part} {s t : State} (h : Touches l s t) (h0 : .man ∈ l) :
    Touches l s (setActive t) := by
  unfold setActive
  try dsimp only
  repeat' split
  all_goals simp (maxDischargeDepth := 40) +contextual [KegOk, filter_bound, erase_bound, *]

@[simp] theorem activate_touches {l : List Part} {s t : State} {op : Operation} (h : Touches l s t) (h0 : .image ∈ l) (h1 : .man ∈ l) (h2 : .taps ∈ l) :
    Touches l s (activate op t) := by
  unfold activate
  try dsimp only
  repeat' split
  all_goals simp (maxDischargeDepth := 40) +contextual [KegOk, filter_bound, erase_bound, *]

@[simp] theorem settleTest_touches {l : List Part} {s t : State} {v : Int} (h : Touches l s t) (h0 : .image ∈ l) (h1 : .man ∈ l) (h2 : .taps ∈ l) :
    Touches l s (settleTest v t) := by
  unfold settleTest
  try dsimp only
  repeat' split
  all_goals simp (maxDischargeDepth := 40) +contextual [KegOk, filter_bound, erase_bound, *]

@[simp] theorem clearOp_touches {l : List Part} {s t : State} (h : Touches l s t) (h0 : .man ∈ l) :
    Touches l s (clearOp t) := by
  unfold clearOp
  try dsimp only
  repeat' split
  all_goals simp (maxDischargeDepth := 40) +contextual [KegOk, filter_bound, erase_bound, *]

@[simp] theorem pourEnded_touches {l : List Part} {s t : State} {x : Tap} (h : Touches l s t) (h0 : .image ∈ l) (h1 : .man ∈ l) (h2 : .kegs ∈ l) (h3 : .taps ∈ l) :
    Touches l s (pourEnded x t) := by
  unfold pourEnded
  try dsimp only
  repeat' split
  all_goals simp (maxDischargeDepth := 40) +contextual [KegOk, filter_bound, erase_bound, *]

@[simp] theorem chargesEnd_touches {l : List Part} {s t : State} {b : Bay} (h : Touches l s t) (h0 : .image ∈ l) (h1 : .man ∈ l) (h2 : .kegs ∈ l) (h3 : .taps ∈ l) :
    Touches l s (chargesEnd b t) := by
  unfold chargesEnd
  try dsimp only
  repeat' split
  all_goals simp (maxDischargeDepth := 40) +contextual [KegOk, filter_bound, erase_bound, *]

end Sys2Proof.Machine
end

