-- ==== Sys2Proof/Laws/Taps.lean ====
section
/-! SUPPORT. What the work of the tap controller's core touches. -/

namespace Sys2Proof.Machine

open Sys2Proof.Safety

@[simp] theorem startBlink_touches {l : List Part} {s t : State} {x : Tap} (h : Touches l s t) (h0 : .taps ∈ l) :
    Touches l s (startBlink x t) := by
  unfold startBlink
  try dsimp only
  repeat' split
  all_goals simp (maxDischargeDepth := 40) +contextual [KegOk, filter_bound, erase_bound, *]

@[simp] theorem evalPurge_touches {l : List Part} {s t : State} {v : Bool} {x : Tap} (h : Touches l s t) (h0 : .image ∈ l) (h1 : .man ∈ l)
    (h2 : .kegs ∈ l) (h3 : .taps ∈ l) : Touches l s (evalPurge v x t) := by
  have := raiseNeed_touches (v := v) (e := purgeEntry x t) h h0 h1 h2 h3
  unfold evalPurge
  repeat' split
  all_goals simp_all

@[simp] theorem tapIdle_touches {l : List Part} {s t : State} {x : Tap} (h : Touches l s t) (h0 : .image ∈ l) (h1 : .man ∈ l) (h2 : .kegs ∈ l) (h3 : .taps ∈ l) :
    Touches l s (tapIdle x t) := by
  unfold tapIdle
  try dsimp only
  repeat' split
  all_goals simp (maxDischargeDepth := 40) +contextual [KegOk, filter_bound, erase_bound, *]

@[simp] theorem pourGone_set (r : TapRecord) : r.pourGone.set = r.set := id rfl
@[simp] theorem pourGone_purgeRetry (r : TapRecord) : r.pourGone.purgeRetry = r.purgeRetry := id rfl
@[simp] theorem pourGone_pour (r : TapRecord) : r.pourGone.pour = none := id rfl

@[simp] theorem endPour_touches {l : List Part} {s t : State} {r : PourReason} {x : Tap} (h : Touches l s t) (h0 : .image ∈ l) (h1 : .man ∈ l) (h2 : .kegs ∈ l) (h3 : .taps ∈ l) (h4 : .up ∈ l) (h5 : .atn ∈ l) :
    Touches l s (endPour r x t) := by
  unfold endPour
  split
  · exact h
  · dsimp only
    repeat' split
    all_goals simp (maxDischargeDepth := 60) +contextual [KegOk, filter_bound, erase_bound, *]

@[simp] theorem endPoursFrom_touches {l : List Part} {s t : State} {r : PourReason} {b : Bay} (h : Touches l s t) (h0 : .image ∈ l) (h1 : .man ∈ l) (h2 : .kegs ∈ l) (h3 : .taps ∈ l) (h4 : .up ∈ l) (h5 : .atn ∈ l) (h6 : .free ∈ l) :
    Touches l s (endPoursFrom r b t) := by
  unfold endPoursFrom
  try dsimp only
  repeat' split
  all_goals simp (maxDischargeDepth := 40) +contextual [KegOk, filter_bound, erase_bound, *]

@[simp] theorem endAllPours_touches {l : List Part} {s t : State} {r : PourReason} (h : Touches l s t) (h0 : .image ∈ l) (h1 : .man ∈ l) (h2 : .kegs ∈ l) (h3 : .taps ∈ l) (h4 : .up ∈ l) (h5 : .atn ∈ l) (h6 : .free ∈ l) :
    Touches l s (endAllPours r t) := by
  unfold endAllPours
  try dsimp only
  repeat' split
  all_goals simp (maxDischargeDepth := 40) +contextual [KegOk, filter_bound, erase_bound, *]

@[simp] theorem purgeEnded_touches {l : List Part} {s t : State} {x : Tap} (h : Touches l s t) (h0 : .image ∈ l) (h1 : .man ∈ l) (h2 : .kegs ∈ l) (h3 : .taps ∈ l) :
    Touches l s (purgeEnded x t) := by
  unfold purgeEnded
  try dsimp only
  repeat' split
  all_goals simp (maxDischargeDepth := 40) +contextual [KegOk, filter_bound, erase_bound, *]

@[simp] theorem purgeCleaned_touches {l : List Part} {s t : State} {x : Tap} (h : Touches l s t) (h0 : .taps ∈ l) :
    Touches l s (purgeCleaned x t) := by
  unfold purgeCleaned
  try dsimp only
  repeat' split
  all_goals simp (maxDischargeDepth := 40) +contextual [KegOk, filter_bound, erase_bound, *]

@[simp] theorem purgeRemoved_touches {l : List Part} {s t : State} {x : Tap} (h : Touches l s t) (h0 : .taps ∈ l) :
    Touches l s (purgeRemoved x t) := by
  unfold purgeRemoved
  try dsimp only
  repeat' split
  all_goals simp (maxDischargeDepth := 40) +contextual [KegOk, filter_bound, erase_bound, *]

@[simp] theorem cueWrite_touches {l : List Part} {s t : State} {x : Tap} (h : Touches l s t) (h0 : .image ∈ l) :
    Touches l s (cueWrite x t) := by
  unfold cueWrite
  try dsimp only
  repeat' split
  all_goals simp (maxDischargeDepth := 40) +contextual [KegOk, filter_bound, erase_bound, *]

@[simp] theorem retrySync_touches {l : List Part} {s t : State} {x : Tap} (h : Touches l s t) (h0 : .retry ∈ l) :
    Touches l s (retrySync x t) := by
  exact modTap_touches h (.inr fun _ => rfl) (.inr fun _ => rfl) (.inl h0)

end Sys2Proof.Machine
end

