-- ==== Sys2Proof/Laws/Manifold.lean ====
section
/-! SUPPORT. What the manifold's own ends of work touch. -/

namespace Sys2Proof.Machine

open Sys2Proof.Safety

@[simp] theorem closeOp_touches {l : List Part} {s t : State} (h : Touches l s t) (h0 : .image ∈ l) :
    Touches l s (closeOp t) := by
  unfold closeOp
  try dsimp only
  repeat' split
  all_goals simp (maxDischargeDepth := 40) +contextual [KegOk, filter_bound, erase_bound, *]

@[simp] theorem returnOp_touches {l : List Part} {s t : State} (h : Touches l s t) (h0 : .image ∈ l) (h1 : .man ∈ l) :
    Touches l s (returnOp t) := by
  unfold returnOp
  try dsimp only
  repeat' split
  all_goals simp (maxDischargeDepth := 40) +contextual [KegOk, filter_bound, erase_bound, *]

@[simp] theorem tellEnded_touches {l : List Part} {s t : State} {r : PourReason} {op : Operation} (h : Touches l s t) (h0 : .image ∈ l) (h1 : .man ∈ l) (h2 : .kegs ∈ l) (h3 : .taps ∈ l) (h4 : .up ∈ l) (h5 : .atn ∈ l) (h6 : .free ∈ l) :
    Touches l s (tellEnded r op t) := by
  unfold tellEnded
  try dsimp only
  repeat' split
  all_goals simp (maxDischargeDepth := 40) +contextual [KegOk, filter_bound, erase_bound, *]

@[simp] theorem dropEntry_touches {l : List Part} {s t : State} {e : GasEntry} (h : Touches l s t) (h0 : .kegs ∈ l) (h1 : .taps ∈ l) :
    Touches l s (dropEntry e t) := by
  unfold dropEntry
  try dsimp only
  repeat' split
  all_goals simp (maxDischargeDepth := 40) +contextual [KegOk, filter_bound, erase_bound, *]

@[simp] theorem emptyQueue_touches {l : List Part} {s t : State} {r : PourReason} (h : Touches l s t) (h0 : .image ∈ l) (h1 : .man ∈ l) (h2 : .kegs ∈ l) (h3 : .taps ∈ l) (h4 : .up ∈ l) (h5 : .atn ∈ l) (h6 : .free ∈ l) :
    Touches l s (emptyQueue r t) := by
  unfold emptyQueue
  try dsimp only
  repeat' split
  all_goals simp (maxDischargeDepth := 40) +contextual [KegOk, filter_bound, erase_bound, *]

@[simp] theorem enterDown_touches {l : List Part} {s t : State} (h : Touches l s t) (h0 : .image ∈ l) (h1 : .man ∈ l) (h2 : .kegs ∈ l) (h3 : .taps ∈ l) (h4 : .up ∈ l) (h5 : .atn ∈ l) (h6 : .free ∈ l) :
    Touches l s (enterDown t) := by
  unfold enterDown
  try dsimp only
  repeat' split
  all_goals simp (maxDischargeDepth := 40) +contextual [KegOk, filter_bound, erase_bound, *]

@[simp] theorem sensingTest_touches {l : List Part} {s t : State} (h : Touches l s t) (h0 : .image ∈ l) (h1 : .man ∈ l) (h2 : .kegs ∈ l) (h3 : .taps ∈ l) :
    Touches l s (sensingTest t) := by
  unfold sensingTest
  try dsimp only
  repeat' split
  all_goals simp (maxDischargeDepth := 40) +contextual [KegOk, filter_bound, erase_bound, *]

@[simp] theorem manifoldValue_touches {l : List Part} {s t : State} {v : Int} (h : Touches l s t) (h0 : .image ∈ l) (h1 : .man ∈ l) (h2 : .kegs ∈ l) (h3 : .taps ∈ l) :
    Touches l s (manifoldValue v t) := by
  unfold manifoldValue
  try dsimp only
  repeat' split
  all_goals simp (maxDischargeDepth := 40) +contextual [KegOk, filter_bound, erase_bound, *]

@[simp] theorem manifoldLost_touches {l : List Part} {s t : State} (h : Touches l s t) (h0 : .image ∈ l) (h1 : .man ∈ l) (h2 : .kegs ∈ l) (h3 : .taps ∈ l) (h4 : .up ∈ l) (h5 : .atn ∈ l) (h6 : .free ∈ l) :
    Touches l s (manifoldLost t) := by
  unfold manifoldLost
  try dsimp only
  repeat' split
  all_goals simp (maxDischargeDepth := 40) +contextual [KegOk, filter_bound, erase_bound, *]

@[simp] theorem manifoldOnline_touches {l : List Part} {s t : State} (h : Touches l s t) (h0 : .image ∈ l) (h1 : .man ∈ l) (h2 : .kegs ∈ l) (h3 : .taps ∈ l) :
    Touches l s (manifoldOnline t) := by
  unfold manifoldOnline
  try dsimp only
  repeat' split
  all_goals simp (maxDischargeDepth := 40) +contextual [KegOk, filter_bound, erase_bound, *]

@[simp] theorem settleFailed_touches {l : List Part} {s t : State} (h : Touches l s t) (h0 : .image ∈ l) (h1 : .man ∈ l) (h2 : .kegs ∈ l) (h3 : .taps ∈ l) (h4 : .up ∈ l) (h5 : .atn ∈ l) (h6 : .free ∈ l) :
    Touches l s (settleFailed t) := by
  unfold settleFailed
  try dsimp only
  repeat' split
  all_goals simp (maxDischargeDepth := 40) +contextual [KegOk, filter_bound, erase_bound, *]

@[simp] theorem pulseEnded_touches {l : List Part} {s t : State} {b : Bay} (h : Touches l s t) (h0 : .image ∈ l) (h1 : .man ∈ l) (h2 : .kegs ∈ l) (h3 : .taps ∈ l) :
    Touches l s (pulseEnded b t) := by
  unfold pulseEnded
  try dsimp only
  repeat' split
  all_goals simp (maxDischargeDepth := 40) +contextual [KegOk, filter_bound, erase_bound, *]

@[simp] theorem purgeCompleted_touches {l : List Part} {s t : State} {x : Tap} (h : Touches l s t) (h0 : .image ∈ l) (h1 : .man ∈ l) (h2 : .kegs ∈ l) (h3 : .taps ∈ l) :
    Touches l s (purgeCompleted x t) := by
  unfold purgeCompleted
  try dsimp only
  repeat' split
  all_goals simp (maxDischargeDepth := 40) +contextual [KegOk, filter_bound, erase_bound, *]

@[simp] theorem enterLockout_touches {l : List Part} {s t : State} (h : Touches l s t) (h0 : .image ∈ l) (h1 : .man ∈ l) (h2 : .kegs ∈ l) (h3 : .taps ∈ l) (h4 : .up ∈ l) (h5 : .atn ∈ l) (h6 : .free ∈ l) :
    Touches l s (enterLockout t) := by
  unfold enterLockout
  try dsimp only
  repeat' split
  all_goals simp (maxDischargeDepth := 40) +contextual [KegOk, filter_bound, erase_bound, *]

@[simp] theorem checkClosed_touches {l : List Part} {s t : State} {p q c : Int} (h : Touches l s t) (h0 : .image ∈ l) (h1 : .man ∈ l) (h2 : .kegs ∈ l) (h3 : .taps ∈ l) (h4 : .up ∈ l) (h5 : .atn ∈ l) (h6 : .free ∈ l) (h7 : .latches ∈ l) :
    Touches l s (checkClosed p q c t) := by
  unfold checkClosed
  try dsimp only
  repeat' split
  all_goals simp (maxDischargeDepth := 40) +contextual [KegOk, filter_bound, erase_bound, *]

@[simp] theorem raiseCheck_touches {l : List Part} {s t : State} (h : Touches l s t) (h0 : .image ∈ l) (h1 : .man ∈ l) (h2 : .kegs ∈ l) (h3 : .taps ∈ l) :
    Touches l s (raiseCheck t) := by
  exact raiseNeed_touches h h0 h1 h2 h3

@[simp] theorem intervalExpired_touches {l : List Part} {s t : State} (h : Touches l s t) (h0 : .image ∈ l) (h1 : .man ∈ l) (h2 : .kegs ∈ l) (h3 : .taps ∈ l) :
    Touches l s (intervalExpired t) := by
  unfold intervalExpired
  try dsimp only
  repeat' split
  all_goals simp (maxDischargeDepth := 40) +contextual [KegOk, filter_bound, erase_bound, *]

@[simp] theorem manifoldRun_touches {l : List Part} {s t : State} (h : Touches l s t) (h0 : .image ∈ l) (h1 : .man ∈ l) (h2 : .kegs ∈ l) (h3 : .taps ∈ l) (h4 : .up ∈ l) (h5 : .atn ∈ l) (h6 : .free ∈ l) :
    Touches l s (manifoldRun t) := by
  unfold manifoldRun
  try dsimp only
  repeat' split
  all_goals simp (maxDischargeDepth := 40) +contextual [KegOk, filter_bound, erase_bound, *]

@[simp] theorem manifoldHold_touches {l : List Part} {s t : State} (h : Touches l s t) (h0 : .image ∈ l) (h1 : .man ∈ l) (h2 : .kegs ∈ l) (h3 : .taps ∈ l) (h4 : .up ∈ l) (h5 : .atn ∈ l) (h6 : .free ∈ l) :
    Touches l s (manifoldHold t) := by
  unfold manifoldHold
  try dsimp only
  repeat' split
  all_goals simp (maxDischargeDepth := 40) +contextual [KegOk, filter_bound, erase_bound, *]

@[simp] theorem manifoldSoftReset_touches {l : List Part} {s t : State} (h : Touches l s t) (h0 : .man ∈ l) :
    Touches l s (manifoldSoftReset t) := by
  unfold manifoldSoftReset
  try dsimp only
  repeat' split
  all_goals simp (maxDischargeDepth := 40) +contextual [KegOk, filter_bound, erase_bound, *]

end Sys2Proof.Machine
end

