-- ==== Sys2Proof/Laws/Kegs.lean ====
section
/-! SUPPORT. What the work of the keg controller touches. -/

namespace Sys2Proof.Machine

open Sys2Proof.Safety

@[simp] theorem ventEval_fields (k : Keg) : k.ventEval.chain = k.chain ∧ k.ventEval.phase = k.phase ∧ k.ventEval.loaded = k.loaded
    ∧ k.ventEval.remaining = k.remaining ∧ k.ventEval.underControl = k.underControl := by
  unfold Keg.ventEval Keg.spund Keg.serveVent
  repeat' split
  all_goals simp

theorem countOpening_le {v : Vector Nat 6} (h : ∀ i : Fin 6, v[i] ≤ 255) (i : Fin 6) : (countOpening v)[i] ≤ 255 := by
  unfold countOpening
  rw [upd_get]
  split
  · exact Nat.min_le_left _ _
  · exact h i

theorem ventEval_ok {k : Keg} (h : KegOk k) : KegOk k.ventEval := by
  refine ⟨by simpa [ventEval_fields] using h.1, ?_⟩
  unfold Keg.ventEval Keg.spund Keg.serveVent
  repeat' split
  all_goals first | exact h.2 | exact countOpening_le h.2

@[simp] theorem writeVent_touches {l : List Part} {s t : State} {b : Bay} (h : Touches l s t) (h0 : .image ∈ l) :
    Touches l s (writeVent b t) := by
  unfold writeVent
  try dsimp only
  repeat' split
  all_goals simp (maxDischargeDepth := 40) +contextual [KegOk, filter_bound, erase_bound, *]

@[simp] theorem ventRestart_touches {l : List Part} {s t : State} {b : Bay} (h : Touches l s t) (h0 : .image ∈ l) (h1 : .kegs ∈ l) :
    Touches l s (ventRestart b t) := by
  have hv := ventEval_fields
  unfold ventRestart
  exact writeVent_touches (modKeg_touches h h1 (.inr fun x => (hv _).1) (.inr fun x => (hv _).2.1) (.inr fun x => ⟨(hv _).2.2.1, (hv _).2.2.2.1⟩)
    (.inr fun x => ⟨(hv _).1, fun e => .inl ((hv { x with ventOpen := false }).2.1.symm.trans e)⟩) (.inr fun x hx => ventEval_ok hx) (.inr fun x hx => (hv _).2.2.2.2.trans hx)) h0

@[simp] theorem ventStep_touches {l : List Part} {s t : State} {b : Bay} (h : Touches l s t) (h0 : .image ∈ l) (h1 : .kegs ∈ l) :
    Touches l s (ventStep b t) := by
  have hv := ventEval_fields
  unfold ventStep
  exact writeVent_touches (modKeg_touches h h1 (.inr fun x => (hv _).1) (.inr fun x => (hv _).2.1) (.inr fun x => ⟨(hv _).2.2.1, (hv _).2.2.2.1⟩)
    (.inr fun x => ⟨(hv _).1, fun e => .inl ((hv x).2.1.symm.trans e)⟩) (.inr fun x hx => ventEval_ok hx) (.inr fun x hx => (hv _).2.2.2.2.trans hx)) h0

@[simp] theorem reliefEval_touches {l : List Part} {s t : State} {b : Bay} (h : Touches l s t) (h0 : .image ∈ l) (h1 : .kegs ∈ l) (h2 : .up ∈ l) (h3 : .atn ∈ l) :
    Touches l s (reliefEval b t) := by
  unfold reliefEval
  try dsimp only
  repeat' split
  all_goals simp (maxDischargeDepth := 40) +contextual [KegOk, filter_bound, erase_bound, *]

@[simp] theorem comeUnderControl_touches {l : List Part} {s t : State} {b : Bay} {p : ActivePhase} (h : Touches l s t) (h0 : .image ∈ l) (h1 : .chl ∈ l) (h2 : .kegs ∈ l) (h3 : .free ∈ l) (h4 : .released ∈ l) :
    Touches l s (comeUnderControl b p t) := by
  unfold comeUnderControl
  try dsimp only
  repeat' split
  all_goals simp (maxDischargeDepth := 40) +contextual [KegOk, filter_bound, erase_bound, *]

@[simp] theorem leaveControl_touches {l : List Part} {s t : State} {b : Bay} (h : Touches l s t) (h0 : .image ∈ l) (h1 : .chl ∈ l) (h2 : .man ∈ l) (h3 : .kegs ∈ l) (h4 : .taps ∈ l) (h5 : .free ∈ l) :
    Touches l s (leaveControl b t) := by
  unfold leaveControl
  try dsimp only
  repeat' split
  all_goals simp (maxDischargeDepth := 40) +contextual [KegOk, filter_bound, erase_bound, *]

@[simp] theorem haltKeg_touches {l : List Part} {s t : State} {b : Bay} {r : HaltReason} (h : Touches l s t) (h0 : .image ∈ l) (h1 : .chl ∈ l) (h2 : .man ∈ l) (h3 : .kegs ∈ l) (h4 : .taps ∈ l) (h5 : .free ∈ l) (h6 : .phases ∈ l) (h7 : .up ∈ l) (h8 : .atn ∈ l) :
    Touches l s (haltKeg b r t) := by
  unfold haltKeg
  try dsimp only
  repeat' split
  all_goals simp (maxDischargeDepth := 40) +contextual [KegOk, filter_bound, erase_bound, *]

@[simp] theorem enterControl_touches {l : List Part} {s t : State} {b : Bay} (h : Touches l s t) (h0 : .image ∈ l) (h1 : .chl ∈ l) (h2 : .man ∈ l) (h3 : .kegs ∈ l) (h4 : .taps ∈ l) (h5 : .free ∈ l) (h6 : .phases ∈ l) (h7 : .up ∈ l) (h8 : .atn ∈ l) (h9 : .released ∈ l) :
    Touches l s (enterControl b t) := by
  unfold enterControl
  try dsimp only
  repeat' split
  all_goals simp (maxDischargeDepth := 40) +contextual [KegOk, filter_bound, erase_bound, *]

@[simp] theorem debit_touches {l : List Part} {s t : State} {b : Bay} {v : Nat} (h : Touches l s t) (h0 : .kegs ∈ l) (h1 : .volumes ∈ l) :
    Touches l s (debit b v t) := by
  exact modKeg_touches h h0 (.inr fun _ => rfl) (.inr fun _ => rfl) (.inl h1) (.inr fun _ => ⟨rfl, .inl⟩)
    (.inr fun x hx => ⟨(Nat.sub_le _ _).trans hx.1, hx.2⟩)

theorem becomeSpent_touches {l : List Part} {s t : State} {b : Bay} (h : Touches l s t) (h0 : .image ∈ l) (h1 : .chl ∈ l) (h2 : .man ∈ l)
    (h3 : .kegs ∈ l) (h4 : .taps ∈ l) (h5 : .free ∈ l) (h6 : .phases ∈ l) (h7 : .up ∈ l) (h8 : .atn ∈ l) :
    Touches l s (becomeSpent b t).2 := by
  unfold becomeSpent
  split
  all_goals simp (maxDischargeDepth := 40) +contextual [KegOk, filter_bound, erase_bound, *]

@[simp] theorem spentNotice_touches {l : List Part} {s t : State} {b : Bay} {x : Tap} (h : Touches l s t) (h0 : .image ∈ l) (h1 : .man ∈ l) (h2 : .kegs ∈ l) (h3 : .taps ∈ l) (h4 : .up ∈ l) (h5 : .atn ∈ l) :
    Touches l s (spentNotice b x t) := by
  unfold spentNotice
  try dsimp only
  repeat' split
  all_goals simp (maxDischargeDepth := 40) +contextual [KegOk, filter_bound, erase_bound, *]

@[simp] theorem chargeTest_touches {l : List Part} {s t : State} {b : Bay} {v : Int} (h : Touches l s t) (h0 : .image ∈ l) (h1 : .man ∈ l) (h2 : .kegs ∈ l) (h3 : .taps ∈ l) :
    Touches l s (chargeTest b v t) := by
  unfold chargeTest
  try dsimp only
  repeat' split
  all_goals simp (maxDischargeDepth := 40) +contextual [KegOk, filter_bound, erase_bound, *]

@[simp] theorem pressureValue_touches {l : List Part} {s t : State} {b : Bay} {v : Int} (h : Touches l s t) (h0 : .image ∈ l) (h1 : .man ∈ l) (h2 : .kegs ∈ l) (h3 : .taps ∈ l) (h4 : .up ∈ l) (h5 : .atn ∈ l) :
    Touches l s (pressureValue b v t) := by
  unfold pressureValue
  try dsimp only
  repeat' split
  all_goals simp (maxDischargeDepth := 40) +contextual [KegOk, filter_bound, erase_bound, *]

@[simp] theorem pressureEmptied_touches {l : List Part} {s t : State} {b : Bay} (h : Touches l s t) (h0 : .image ∈ l) (h1 : .chl ∈ l) (h2 : .man ∈ l) (h3 : .kegs ∈ l) (h4 : .taps ∈ l) (h5 : .free ∈ l) (h6 : .phases ∈ l) (h7 : .up ∈ l) (h8 : .atn ∈ l) :
    Touches l s (pressureEmptied b t) := by
  unfold pressureEmptied
  try dsimp only
  repeat' split
  all_goals simp (maxDischargeDepth := 40) +contextual [KegOk, filter_bound, erase_bound, *]

@[simp] theorem controlValue_touches {l : List Part} {s t : State} {b : Bay} {c : ControlTemp} (h : Touches l s t) (h0 : .image ∈ l) (h1 : .chl ∈ l) (h2 : .man ∈ l) (h3 : .kegs ∈ l) (h4 : .taps ∈ l) (h5 : .up ∈ l) (h6 : .atn ∈ l) (h7 : .free ∈ l) :
    Touches l s (controlValue b c t) := by
  unfold controlValue
  try dsimp only
  repeat' split
  all_goals simp (maxDischargeDepth := 40) +contextual [KegOk, filter_bound, erase_bound, *]

@[simp] theorem controlLost_touches {l : List Part} {s t : State} {b : Bay} (h : Touches l s t) (h0 : .image ∈ l) (h1 : .chl ∈ l) (h2 : .man ∈ l) (h3 : .kegs ∈ l) (h4 : .taps ∈ l) (h5 : .free ∈ l) (h6 : .phases ∈ l) (h7 : .up ∈ l) (h8 : .atn ∈ l) :
    Touches l s (controlLost b t) := by
  unfold controlLost
  try dsimp only
  repeat' split
  all_goals simp (maxDischargeDepth := 40) +contextual [KegOk, filter_bound, erase_bound, *]

end Sys2Proof.Machine
end

