-- ==== Sys2Proof/Laws/Pool.lean ====
section
/-! SUPPORT. The step pool's bookkeeping (R81 to R85): returning entries and allocating them keep every entry in one place. -/

namespace Sys2Proof.Machine

open Sys2Proof.Safety

theorem freeEntries_get (l : List PoolIx) (v : Vector (Option PoolEntry) 48) (i : PoolIx) :
    (freeEntries l v)[i] = if i ∈ l then none else v[i] := by
  induction l generalizing v with
  | nil => simp [freeEntries]
  | cons a l ih =>
    have : freeEntries (a :: l) v = freeEntries l (upd v a fun _ => none) := rfl
    rw [this, ih, upd_get]
    by_cases h : i ∈ l <;> by_cases e : i = a <;> simp [h, e]

theorem fillEntries_get (b : Bay) (l : List (PoolIx × Step)) (v : Vector (Option PoolEntry) 48) (i : PoolIx) :
    (fillEntries b l v)[i].map (·.bay) = if i ∈ l.map Prod.fst then some b else v[i].map (·.bay) := by
  induction l generalizing v with
  | nil => simp [fillEntries]
  | cons a l ih =>
    have : fillEntries b (a :: l) v = fillEntries b l (upd v a.1 fun _ => some { bay := b, step := a.2 }) := rfl
    rw [this, ih, upd_get]
    by_cases h : i ∈ l.map Prod.fst <;> by_cases e : i = a.1 <;> simp [h, e]

/-- The chains of all bays with one of them replaced, up to order. -/
theorem chainEntries_perm (s t : State) (b : Bay) (l l' : List PoolIx) (hb : (l ++ (t.keg b).chain).Perm (l' ++ (s.keg b).chain))
    (hd : ∀ d, d ≠ b → (t.keg d).chain = (s.keg d).chain) : (l ++ chainEntries t).Perm (l' ++ chainEntries s) := by
  rw [List.perm_iff_count] at hb ⊢
  intro a
  have hb := hb a
  simp only [List.count_append] at hb
  have h0 : b ≠ 0 → (t.keg 0).chain.count a = (s.keg 0).chain.count a := fun h => by rw [hd 0 h.symm]
  have h1 : b ≠ 1 → (t.keg 1).chain.count a = (s.keg 1).chain.count a := fun h => by rw [hd 1 h.symm]
  have h2 : b ≠ 2 → (t.keg 2).chain.count a = (s.keg 2).chain.count a := fun h => by rw [hd 2 h.symm]
  have h3 : b ≠ 3 → (t.keg 3).chain.count a = (s.keg 3).chain.count a := fun h => by rw [hd 3 h.symm]
  have h4 : b ≠ 4 → (t.keg 4).chain.count a = (s.keg 4).chain.count a := fun h => by rw [hd 4 h.symm]
  have h5 : b ≠ 5 → (t.keg 5).chain.count a = (s.keg 5).chain.count a := fun h => by rw [hd 5 h.symm]
  simp only [chainEntries, allBays, List.flatMap_cons, List.flatMap_nil, List.count_append, List.count_nil]
  fin_cases b <;> simp at hb h0 h1 h2 h3 h4 h5 ⊢ <;> omega

theorem keg_modSch (s : State) (f : Sch → Sch) (d : Bay) : (s.modSch f).keg d = s.keg d := rfl

theorem keg_modKeg (s : State) (b d : Bay) (f : Keg → Keg) : (s.modKeg b f).keg d = if d = b then f (s.keg b) else s.keg d := by
  simp only [State.keg, modKeg_kegs, upd_get]

/-- R85. Entries taken from the front of a chain return to the free list. -/
theorem returnEntries_ok {b : Bay} {l rest : List PoolIx} {s : State} (hc : (s.keg b).chain = l ++ rest) (h : PoolOk s) :
    PoolOk (returnEntries b l rest s) := by
  obtain ⟨p1, p2, p3, p4⟩ := h
  have hk : ∀ d, ((returnEntries b l rest s).keg d).chain = if d = b then rest else (s.keg d).chain := by
    intro d
    unfold returnEntries
    rw [keg_modSch, keg_modKeg]
    split <;> rfl
  have hp : ∀ d, ((returnEntries b l rest s).keg d).phase = (s.keg d).phase := by
    intro d
    unfold returnEntries
    rw [keg_modSch, keg_modKeg]
    split
    · rename_i e; rw [e]
    · rfl
  have hf : (returnEntries b l rest s).sch.freeList = s.sch.freeList ++ l := rfl
  have hv : (returnEntries b l rest s).sch.pool = freeEntries l s.sch.pool := rfl
  have hperm : (s.sch.freeList ++ l ++ chainEntries (returnEntries b l rest s)).Perm (s.sch.freeList ++ chainEntries s) := by
    rw [List.append_assoc]
    refine List.Perm.append_left _ (chainEntries_perm s _ b l [] ?_ fun d hd => by rw [hk, if_neg hd])
    rw [hk, if_pos rfl, hc]
    simp
  have hn := p1
  rw [← hperm.nodup_iff] at hn
  refine ⟨by rw [hf]; exact hn, ?_, ?_, ?_⟩
  · intro i
    rw [hf, hv, freeEntries_get, List.mem_append, p2 i]
    by_cases e : i ∈ l <;> simp [e]
  · intro i d
    rw [hv, freeEntries_get, hk]
    by_cases e : i ∈ l
    · simp only [e, if_true, Option.map_none, reduceCtorEq, iff_false]
      have hb : i ∈ (s.keg b).chain := by rw [hc]; exact List.mem_append_left _ e
      split
      · intro hr
        rw [List.append_assoc] at hn
        have h2 := (List.nodup_append.1 hn).2.1
        refine (List.nodup_append.1 h2).2.2 i e i ?_ rfl
        unfold chainEntries
        rw [List.mem_flatMap]
        refine ⟨b, by fin_cases b <;> simp, ?_⟩
        rw [hk, if_pos rfl]
        exact hr
      · rename_i hdb
        intro hr
        have q1 := (p3 i d).1 hr
        have q2 := (p3 i b).1 hb
        rw [q1] at q2
        exact hdb (Option.some.inj q2)
    · rw [if_neg e, ← p3 i d]
      split
      · rename_i hdb
        rw [hdb, hc, List.mem_append]
        simp [e]
      · rfl
  · intro d hd
    rw [hp] at hd
    rw [hk]
    split
    · rename_i hdb
      rw [hdb] at hd
      have := p4 b hd
      rw [hc] at this
      exact (List.append_eq_nil_iff.1 this).2
    · exact p4 d hd

/-- R83. Entries taken from the head of the free list join the tail of a chain. -/
theorem allocate_ok {b : Bay} {steps : List Step} {s : State} (hv : (s.keg b).phase ≠ .vacant) (h : PoolOk s) : PoolOk (allocate b steps s) := by
  obtain ⟨p1, p2, p3, p4⟩ := h
  have hk : ∀ d, ((allocate b steps s).keg d).chain = if d = b then (s.keg b).chain ++ allocation steps.length s else (s.keg d).chain := by
    intro d
    unfold allocate
    rw [keg_modSch, keg_modKeg]
    split <;> rfl
  have hp : ∀ d, ((allocate b steps s).keg d).phase = (s.keg d).phase := by
    intro d
    unfold allocate
    rw [keg_modSch, keg_modKeg]
    split
    · rename_i e; rw [e]
    · rfl
  have hf : (allocate b steps s).sch.freeList = s.sch.freeList.drop steps.length := rfl
  have hpool : (allocate b steps s).sch.pool = fillEntries b ((allocation steps.length s).zip steps) s.sch.pool := rfl
  have hz : ((allocation steps.length s).zip steps).map Prod.fst = allocation steps.length s := by
    rw [List.map_fst_zip]
    unfold allocation
    rw [List.length_take]
    exact Nat.min_le_left _ _
  have hsplit : s.sch.freeList = allocation steps.length s ++ s.sch.freeList.drop steps.length := (List.take_append_drop _ _).symm
  have hperm : (s.sch.freeList.drop steps.length ++ chainEntries (allocate b steps s)).Perm (s.sch.freeList ++ chainEntries s) := by
    refine (List.Perm.append_left _ (chainEntries_perm s _ b [] (allocation steps.length s) ?_ fun d hd => by rw [hk, if_neg hd])).trans ?_
    · rw [hk, if_pos rfl, List.nil_append]
      exact List.perm_append_comm
    · conv_rhs => rw [hsplit]
      rw [← List.append_assoc]
      exact List.Perm.append_right _ List.perm_append_comm
  have hnf : s.sch.freeList.Nodup := (List.nodup_append.1 p1).1
  have hin : ∀ i, i ∈ allocation steps.length s → i ∈ s.sch.freeList := fun i hi => List.mem_of_mem_take hi
  have hnone : ∀ i, (fillEntries b ((allocation steps.length s).zip steps) s.sch.pool)[i] = none ↔
      (i ∉ allocation steps.length s ∧ s.sch.pool[i] = none) := by
    intro i
    have := fillEntries_get b ((allocation steps.length s).zip steps) s.sch.pool i
    rw [hz] at this
    by_cases e : i ∈ allocation steps.length s
    · rw [if_pos e] at this
      refine ⟨fun hc => ?_, fun hc => absurd e hc.1⟩
      rw [hc] at this
      cases this
    · rw [if_neg e] at this
      rw [← Option.map_eq_none_iff (f := (·.bay)), this, Option.map_eq_none_iff]
      simp [e]
  refine ⟨?_, ?_, ?_, ?_⟩
  · rw [hf, hperm.nodup_iff]
    exact p1
  · intro i
    rw [hf, hpool, hnone, ← p2 i]
    have hn2 := hnf
    rw [hsplit] at hn2
    constructor
    · intro hi
      exact ⟨fun ha => (List.nodup_append.1 hn2).2.2 i ha i hi rfl, List.mem_of_mem_drop hi⟩
    · rintro ⟨ha, hi⟩
      rw [hsplit, List.mem_append] at hi
      exact hi.resolve_left ha
  · intro i d
    rw [hpool, fillEntries_get, hz, hk]
    by_cases e : i ∈ allocation steps.length s
    · rw [if_pos e]
      have hno : s.sch.pool[i] = none := (p2 i).1 (hin i e)
      split
      · rename_i hd; simp [hd, e]
      · rename_i hd
        rw [p3 i d, hno]
        simp [Ne.symm hd]
    · rw [if_neg e, ← p3 i d]
      split
      · rename_i hd; rw [hd]; simp [e]
      · rfl
  · intro d hd
    rw [hp] at hd
    rw [hk]
    split
    · rename_i e; rw [e] at hd; exact absurd hd hv
    · exact p4 d hd

end Sys2Proof.Machine
end

