-- ==== Sys2Proof/Laws/Schedules.lean ====
section
/-! SUPPORT. What the work of the schedule unit touches. -/

namespace Sys2Proof.Machine

open Sys2Proof.Safety

theorem returnEntries_touches {l : List Part} {s t : State} {b : Bay} {a c : List PoolIx} (h : Touches l s t) (h0 : .kegs ∈ l) (h1 : .chains ∈ l) (h2 : .sch ∈ l) (hc : (t.keg b).chain = a ++ c) :
    Touches l s (returnEntries b a c t) := by
  refine h.trans (Touches.close (q := .poolOk) ?_ (returnEntries_ok hc))
  unfold returnEntries
  simp (maxDischargeDepth := 40) +contextual [KegOk, *]

@[simp] theorem returnHead_touches {l : List Part} {s t : State} {b : Bay} (h : Touches l s t) (h0 : .kegs ∈ l) (h1 : .chains ∈ l) (h2 : .sch ∈ l) :
    Touches l s (returnHead b t) := by
  unfold returnHead
  split
  · exact h
  · rename_i i rest hc
    exact returnEntries_touches h h0 h1 h2 hc

@[simp] theorem returnChain_touches {l : List Part} {s t : State} {b : Bay} (h : Touches l s t) (h0 : .kegs ∈ l) (h1 : .chains ∈ l) (h2 : .sch ∈ l) :
    Touches l s (returnChain b t) := by
  exact returnEntries_touches h h0 h1 h2 (by simp)

theorem allocate_touches {l : List Part} {s t : State} {b : Bay} {a : List Step} (h : Touches l s t) (h0 : .kegs ∈ l) (h1 : .chains ∈ l) (h2 : .sch ∈ l) (hv : (t.keg b).phase ≠ .vacant) :
    Touches l s (allocate b a t) := by
  refine h.trans (Touches.close (q := .poolOk) ?_ (allocate_ok hv))
  unfold allocate
  simp (maxDischargeDepth := 40) +contextual [KegOk, *]

@[simp] theorem startTimers_fields (k : Keg) (x : Step) : (k.startTimers x).chain = k.chain ∧ (k.startTimers x).phase = k.phase
    ∧ (k.startTimers x).loaded = k.loaded ∧ (k.startTimers x).remaining = k.remaining ∧ (k.startTimers x).buckets = k.buckets
    ∧ (k.startTimers x).underControl = k.underControl := by
  unfold Keg.startTimers
  split <;> simp

@[simp] theorem clearTimers_fields (k : Keg) : k.clearTimers.chain = k.chain ∧ k.clearTimers.phase = k.phase
    ∧ k.clearTimers.loaded = k.loaded ∧ k.clearTimers.remaining = k.remaining ∧ k.clearTimers.buckets = k.buckets
    ∧ k.clearTimers.underControl = k.underControl :=
  ⟨rfl, rfl, rfl, rfl, rfl, rfl⟩

@[simp] theorem enterStep_touches {l : List Part} {s t : State} {b : Bay} {a : Step} (h : Touches l s t) (h0 : .image ∈ l) (h1 : .chl ∈ l) (h2 : .kegs ∈ l) :
    Touches l s (enterStep b a t) := by
  have hs := startTimers_fields
  have hc := clearTimers_fields
  unfold enterStep
  simp (maxDischargeDepth := 60) +contextual [KegOk, filter_bound, erase_bound, *]

theorem changePhase_touches {l : List Part} {s t : State} {b : Bay} {f : Keg → Keg} (h : Touches l s t) (h0 : .image ∈ l) (h1 : .kegs ∈ l)
    (h2 : .chains ∈ l ∨ ∀ x, (f x).chain = x.chain) (h3 : .phases ∈ l ∨ ∀ x, (f x).phase = x.phase)
    (h4 : .volumes ∈ l ∨ ∀ x, (f x).loaded = x.loaded ∧ (f x).remaining = x.remaining)
    (h5 : .poolOk ∈ l ∨ ∀ x, (f x).chain = x.chain ∧ ((f x).phase = .vacant → x.phase = .vacant ∨ x.chain = []))
    (h6 : .kegsOk ∈ l ∨ ∀ x, KegOk x → KegOk (f x))
    (h7 : .released ∈ l ∨ ∀ x, x.underControl = false → (f x).underControl = false := by first | exact .inr fun _ h => h | exact .inr fun _ _ => rfl) :
    Touches l s (changePhase b f t) := by
  unfold changePhase
  exact passing_touches (modKeg_touches h h1 h2 h3 h4 h5 h6 h7) h0

@[simp] theorem reachServe_touches {l : List Part} {s t : State} {b : Bay} {v w : Int} (h : Touches l s t) (h0 : .image ∈ l) (h1 : .chl ∈ l) (h2 : .man ∈ l) (h3 : .kegs ∈ l) (h4 : .phases ∈ l) (h5 : .taps ∈ l) (h6 : .up ∈ l) (h7 : .atn ∈ l) (h8 : .free ∈ l) (h9 : .released ∈ l) :
    Touches l s (reachServe b v w t) := by
  unfold reachServe
  try dsimp only
  repeat' split
  all_goals simp (maxDischargeDepth := 60) +contextual [KegOk, changePhase_touches, *]

@[simp] theorem reachEnd_touches {l : List Part} {s t : State} {b : Bay} (h : Touches l s t) (h0 : .image ∈ l) (h1 : .chl ∈ l) (h2 : .man ∈ l) (h3 : .kegs ∈ l) (h4 : .phases ∈ l) (h5 : .taps ∈ l) (h6 : .free ∈ l) :
    Touches l s (reachEnd b t) := by
  unfold reachEnd
  try dsimp only
  repeat' split
  all_goals simp (maxDischargeDepth := 60) +contextual [KegOk, changePhase_touches, *]

@[simp] theorem enterTerminal_touches {l : List Part} {s t : State} {b : Bay} {a : Step} (h : Touches l s t) (h0 : .image ∈ l) (h1 : .chl ∈ l) (h2 : .man ∈ l) (h3 : .kegs ∈ l) (h4 : .phases ∈ l) (h5 : .taps ∈ l) (h6 : .up ∈ l) (h7 : .atn ∈ l) (h8 : .free ∈ l) (h9 : .chains ∈ l) (h10 : .sch ∈ l) (h11 : .released ∈ l) :
    Touches l s (enterTerminal b a t) := by
  have hc := clearTimers_fields
  unfold enterTerminal
  dsimp only
  split
  all_goals simp (maxDischargeDepth := 60) +contextual [KegOk, filter_bound, erase_bound, *]

@[simp] theorem runOut_touches {l : List Part} {s t : State} {b : Bay} (h : Touches l s t) (h0 : .image ∈ l) (h1 : .kegs ∈ l) (h2 : .up ∈ l) (h3 : .atn ∈ l) :
    Touches l s (runOut b t) := by
  have hc := clearTimers_fields
  unfold runOut
  simp (maxDischargeDepth := 60) +contextual [KegOk, filter_bound, erase_bound, *]

@[simp] theorem enterChain_touches {l : List Part} {s t : State} {b : Bay} {a : List PoolIx} (h : Touches l s t) (h0 : .image ∈ l) (h1 : .chl ∈ l) (h2 : .man ∈ l) (h3 : .kegs ∈ l) (h4 : .phases ∈ l) (h5 : .taps ∈ l) (h6 : .up ∈ l) (h7 : .atn ∈ l) (h8 : .free ∈ l) (h9 : .chains ∈ l) (h10 : .sch ∈ l) (h11 : .released ∈ l) :
    Touches l s (enterChain b a t) := by
  induction a generalizing t with
  | nil => simp (maxDischargeDepth := 60) [enterChain, *]
  | cons i rest ih =>
    unfold enterChain
    split
    · exact h
    · dsimp only
      repeat' split
      · simp (maxDischargeDepth := 60) [*]
      · apply ih
        simp (maxDischargeDepth := 60) [*]
      · simp (maxDischargeDepth := 60) [*]

@[simp] theorem enterHead_touches {l : List Part} {s t : State} {b : Bay} (h : Touches l s t) (h0 : .image ∈ l) (h1 : .chl ∈ l) (h2 : .man ∈ l) (h3 : .kegs ∈ l) (h4 : .phases ∈ l) (h5 : .taps ∈ l) (h6 : .up ∈ l) (h7 : .atn ∈ l) (h8 : .free ∈ l) (h9 : .chains ∈ l) (h10 : .sch ∈ l) (h11 : .released ∈ l) :
    Touches l s (enterHead b t) := by
  unfold enterHead
  try dsimp only
  repeat' split
  all_goals simp (maxDischargeDepth := 40) +contextual [KegOk, filter_bound, erase_bound, *]

@[simp] theorem completeStep_touches {l : List Part} {s t : State} {b : Bay} (h : Touches l s t) (h0 : .image ∈ l) (h1 : .chl ∈ l) (h2 : .man ∈ l) (h3 : .kegs ∈ l) (h4 : .phases ∈ l) (h5 : .taps ∈ l) (h6 : .up ∈ l) (h7 : .atn ∈ l) (h8 : .free ∈ l) (h9 : .chains ∈ l) (h10 : .sch ∈ l) (h11 : .released ∈ l) :
    Touches l s (completeStep b t) := by
  unfold completeStep
  try dsimp only
  repeat' split
  all_goals simp (maxDischargeDepth := 40) +contextual [KegOk, filter_bound, erase_bound, *]

theorem rollBuckets_le {v : Vector Nat 6} (h : ∀ i : Fin 6, v[i] ≤ 255) (i : Fin 6) : (rollBuckets v)[i] ≤ 255 := by
  have h1 := h 1
  have h2 := h 2
  have h3 := h 3
  have h4 := h 4
  have h5 := h 5
  unfold rollBuckets
  fin_cases i <;> simp_all

@[simp] theorem activityExpired_touches {l : List Part} {s t : State} {b : Bay} (h : Touches l s t) (h0 : .image ∈ l) (h1 : .chl ∈ l) (h2 : .man ∈ l) (h3 : .kegs ∈ l) (h4 : .phases ∈ l) (h5 : .taps ∈ l) (h6 : .up ∈ l) (h7 : .atn ∈ l) (h8 : .free ∈ l) (h9 : .chains ∈ l) (h10 : .sch ∈ l) (h11 : .released ∈ l) :
    Touches l s (activityExpired b t) := by
  have hr : Touches l s (t.modKeg b fun k => { k with buckets := rollBuckets k.buckets, activity := 0 }) :=
    modKeg_touches h h3 (.inl h9) (.inl h4) (.inr fun _ => ⟨rfl, rfl⟩) (.inr fun _ => ⟨rfl, .inl⟩) (.inr fun _ hx => ⟨hx.1, rollBuckets_le hx.2⟩)
  unfold activityExpired
  dsimp only
  split
  · exact completeStep_touches hr h0 h1 h2 h3 h4 h5 h6 h7 h8 h9 h10 h11
  · exact hr

@[simp] theorem rampExpired_touches {l : List Part} {s t : State} {b : Bay} {v w : Int} (h : Touches l s t) (h0 : .image ∈ l) (h1 : .chl ∈ l) (h2 : .man ∈ l) (h3 : .kegs ∈ l) (h4 : .phases ∈ l) (h5 : .taps ∈ l) (h6 : .up ∈ l) (h7 : .atn ∈ l) (h8 : .free ∈ l) (h9 : .chains ∈ l) (h10 : .sch ∈ l) (h11 : .released ∈ l) :
    Touches l s (rampExpired b v w t) := by
  unfold rampExpired
  try dsimp only
  repeat' split
  all_goals simp (maxDischargeDepth := 40) +contextual [KegOk, filter_bound, erase_bound, *]

@[simp] theorem quietExpired_touches {l : List Part} {s t : State} {b : Bay} (h : Touches l s t) (h0 : .image ∈ l) (h1 : .chl ∈ l) (h2 : .man ∈ l) (h3 : .kegs ∈ l) (h4 : .phases ∈ l) (h5 : .taps ∈ l) (h6 : .up ∈ l) (h7 : .atn ∈ l) (h8 : .free ∈ l) (h9 : .chains ∈ l) (h10 : .sch ∈ l) (h11 : .released ∈ l) :
    Touches l s (quietExpired b t) := by
  unfold quietExpired
  try dsimp only
  repeat' split
  all_goals simp (maxDischargeDepth := 40) +contextual [KegOk, filter_bound, erase_bound, *]

end Sys2Proof.Machine
end

