-- ==== Sys2Proof/Laws/Routes.lean ====
section
/-! SUPPORT. What the work of the route table touches. -/

namespace Sys2Proof.Machine

open Sys2Proof.Safety

@[simp] theorem deliverControl_touches {l : List Part} {s t : State} {b : Bay} {c : Bool} (h : Touches l s t) (h0 : .image ∈ l) (h1 : .chl ∈ l) (h2 : .man ∈ l) (h3 : .kegs ∈ l) (h4 : .phases ∈ l) (h5 : .taps ∈ l) (h6 : .up ∈ l) (h7 : .atn ∈ l) (h8 : .free ∈ l) (h9 : .drawn ∈ l) :
    Touches l s (deliverControl b c t) := by
  unfold deliverControl
  try dsimp only
  repeat' split
  all_goals simp (maxDischargeDepth := 40) +contextual [KegOk, filter_bound, erase_bound, *]

@[simp] theorem slotStored_touches {l : List Part} {s t : State} {d : Dest} {v : Int} (h : Touches l s t) (h0 : .image ∈ l) (h1 : .chl ∈ l) (h2 : .man ∈ l) (h3 : .kegs ∈ l) (h4 : .phases ∈ l) (h5 : .taps ∈ l) (h6 : .up ∈ l) (h7 : .atn ∈ l) (h8 : .free ∈ l) (h9 : .drawn ∈ l) :
    Touches l s (slotStored d v t) := by
  unfold slotStored
  try dsimp only
  repeat' split
  all_goals simp (maxDischargeDepth := 40) +contextual [KegOk, filter_bound, erase_bound, *]

@[simp] theorem slotEmptied_touches {l : List Part} {s t : State} {d : Dest} (h : Touches l s t) (h0 : .image ∈ l) (h1 : .chl ∈ l) (h2 : .man ∈ l) (h3 : .kegs ∈ l) (h4 : .phases ∈ l) (h5 : .taps ∈ l) (h6 : .up ∈ l) (h7 : .atn ∈ l) (h8 : .free ∈ l) (h9 : .drawn ∈ l) :
    Touches l s (slotEmptied d t) := by
  unfold slotEmptied
  try dsimp only
  repeat' split
  all_goals simp (maxDischargeDepth := 40) +contextual [KegOk, filter_bound, erase_bound, *]

@[simp] theorem setSlot_touches {l : List Part} {s t : State} {d : Dest} {c : Option Slot} (h : Touches l s t) (h0 : .slots ∈ l) :
    Touches l s (setSlot d c t) := by
  unfold setSlot
  try dsimp only
  repeat' split
  all_goals simp (maxDischargeDepth := 40) +contextual [KegOk, filter_bound, erase_bound, *]

@[simp] theorem emptySlot_touches {l : List Part} {s t : State} {d : Dest} (h : Touches l s t) (h0 : .image ∈ l) (h1 : .chl ∈ l) (h2 : .man ∈ l) (h3 : .kegs ∈ l) (h4 : .phases ∈ l) (h5 : .taps ∈ l) (h6 : .up ∈ l) (h7 : .atn ∈ l) (h8 : .free ∈ l) (h9 : .drawn ∈ l) (h10 : .slots ∈ l) :
    Touches l s (emptySlot d t) := by
  unfold emptySlot
  try dsimp only
  repeat' split
  all_goals simp (maxDischargeDepth := 40) +contextual [KegOk, filter_bound, erase_bound, *]

@[simp] theorem leftLive_touches {l : List Part} {s t : State} {c : Chan} (h : Touches l s t) (h0 : .image ∈ l) (h1 : .chl ∈ l) (h2 : .man ∈ l) (h3 : .kegs ∈ l) (h4 : .phases ∈ l) (h5 : .taps ∈ l) (h6 : .up ∈ l) (h7 : .atn ∈ l) (h8 : .free ∈ l) (h9 : .drawn ∈ l) (h10 : .slots ∈ l) :
    Touches l s (leftLive c t) := by
  unfold leftLive
  try dsimp only
  repeat' split
  all_goals simp (maxDischargeDepth := 40) +contextual [KegOk, filter_bound, erase_bound, *]

@[simp] theorem reportCount_touches {l : List Part} {s t : State} {c : Chan} {v : Int} {m : Marks} (h : Touches l s t) (h0 : .up ∈ l) (h1 : .atn ∈ l) (h2 : .counts ∈ l) :
    Touches l s (reportCount c v m t) := by
  unfold reportCount
  try dsimp only
  repeat' split
  all_goals simp (maxDischargeDepth := 40) +contextual [KegOk, filter_bound, erase_bound, *]

@[simp] theorem storePublication_touches {l : List Part} {s t : State} {c : Chan} {v : Int} {m : Marks} (h : Touches l s t) (h0 : .image ∈ l) (h1 : .chl ∈ l) (h2 : .man ∈ l) (h3 : .kegs ∈ l) (h4 : .phases ∈ l) (h5 : .taps ∈ l) (h6 : .up ∈ l) (h7 : .atn ∈ l) (h8 : .free ∈ l) (h9 : .drawn ∈ l) (h10 : .slots ∈ l) (h11 : .counts ∈ l) :
    Touches l s (storePublication c v m t) := by
  unfold storePublication
  try dsimp only
  repeat' split
  all_goals simp (maxDischargeDepth := 40) +contextual [KegOk, filter_bound, erase_bound, *]

@[simp] theorem loadRoutes_touches {l : List Part} {s t : State} {a : List Route} (h : Touches l s t) (h0 : .image ∈ l) (h1 : .chl ∈ l) (h2 : .man ∈ l) (h3 : .kegs ∈ l) (h4 : .phases ∈ l) (h5 : .taps ∈ l) (h6 : .up ∈ l) (h7 : .atn ∈ l) (h8 : .free ∈ l) (h9 : .drawn ∈ l) (h10 : .slots ∈ l) (h11 : .counts ∈ l) (h12 : .routes ∈ l) (h13 : .port ∈ l) :
    Touches l s (loadRoutes a t) := by
  unfold loadRoutes
  try dsimp only
  repeat' split
  all_goals simp (maxDischargeDepth := 40) +contextual [KegOk, filter_bound, erase_bound, *]

@[simp] theorem routeSoftReset_touches {l : List Part} {s t : State} (h : Touches l s t) (h0 : .slots ∈ l) (h1 : .counts ∈ l) (h2 : .drawn ∈ l) :
    Touches l s (routeSoftReset t) := by
  unfold routeSoftReset
  try dsimp only
  repeat' split
  all_goals simp (maxDischargeDepth := 40) +contextual [KegOk, filter_bound, erase_bound, *]

end Sys2Proof.Machine
end

