-- ==== Sys2Proof/Laws/Channels.lean ====
section
/-! SUPPORT. What the work of the channels touches. -/

namespace Sys2Proof.Machine

open Sys2Proof.Safety

/-! ## One channel keeps its bounds -/

theorem count_ok {ch : Channel} (ht : ch.state.takes = true) (hw : ch.window.length ≤ ch.record.window)
    (hl : ch.state = .live → ch.window.length = ch.record.window)
    (h1 : 1 ≤ ch.record.window ∧ ch.record.window ≤ 8 ∧ 1 ≤ ch.record.decimation) (h2 : ch.rejectRun ≤ 2)
    (h3 : ch.decimationCount < ch.record.decimation) (h4 : ch.state ≠ .live → ch.decimationCount = 0) (he : ch.record.enabled = true) :
    ChannelOk ch.count.1 := by
  unfold Channel.count
  split
  · rename_i hf
    have hf := of_decide_eq_true hf
    split
    · exact ⟨h1.1, h1.2.1, h1.2.2, h2, by simp only; omega, fun e => absurd rfl e, fun e => (by cases e), by simp [he], hf⟩
    · exact ⟨h1.1, h1.2.1, h1.2.2, h2, by simp only; omega, fun e => absurd rfl e, fun e => (by cases e), by simp [he], hf⟩
  · rename_i hf
    have hn : ch.window.length ≠ ch.record.window := fun e => hf (by simp [Channel.full, e])
    refine ⟨h1.1, h1.2.1, h1.2.2, h2, h3, h4, fun e => (by rw [ht] at e; cases e), ?_, ?_⟩
    · cases hs : ch.state <;> simp_all [ChannelState.takes]
    · cases hs : ch.state <;> simp_all [ChannelState.takes]
      omega

theorem takes_enabled {ch : Channel} (h : ChannelOk ch) (ht : ch.state.takes = true) : ch.record.enabled = true := by
  obtain ⟨_, _, _, _, _, _, _, he, _⟩ := h
  cases hs : ch.state <;> simp_all [ChannelState.takes]

theorem condition_ok {raw : Nat} {ch : Channel} (h : ChannelOk ch) (ht : ch.state.takes = true) : ChannelOk (ch.condition raw).1 := by
  have hen := takes_enabled h ht
  obtain ⟨h1, h2, h3, h4, h5, h8, h9, h6, h7⟩ := h
  have hlen : ch.window.length ≤ ch.record.window := by
    cases hs : ch.state <;> simp_all [ChannelState.takes]
    omega
  have hlive : ch.state = .live → ch.window.length = ch.record.window := by
    intro e
    rw [e] at h7
    exact h7
  unfold Channel.condition
  dsimp only
  split
  · split
    · rename_i hr
      exact ⟨h1, h2, h3, by simp only; omega, h5, h8, fun e => (by rw [show _ = _ from ht] at e; cases e), h6, h7⟩
    · exact count_ok (ch := ch.reseed _) ht (by simpa [Channel.reseed] using hlen) (by simpa [Channel.reseed] using hlive)
        ⟨h1, h2, h3⟩ (by simp [Channel.reseed]) h5 h8 hen
  · refine count_ok (ch := ch.accept _) ht ?_ ?_ ⟨h1, h2, h3⟩ (by simp [Channel.accept]) h5 h8 hen
    · simp only [Channel.accept, List.length_append, List.length_cons, List.length_nil]
      split
      · rename_i hf
        have := of_decide_eq_true hf
        rw [List.length_drop]
        omega
      · rename_i hf
        have hn : ch.window.length ≠ ch.record.window := fun e => hf (by simp [Channel.full, e])
        omega
    · intro e
      have := hlive e
      simp only [Channel.accept, Channel.full, this, decide_true, if_true, List.length_append, List.length_cons, List.length_nil, List.length_drop]
      omega

theorem restart_ok {st : ChannelState} {ch : Channel} (h : ChannelOk ch) (hs : st ≠ .live) (he : st = .off ↔ ch.record.enabled = false) :
    ChannelOk (ch.restart st) := by
  obtain ⟨h1, h2, h3, h4, h5, h8, h9, h6, h7⟩ := h
  refine ⟨h1, h2, h3, by simp [Channel.restart], by simp only [Channel.restart]; omega, fun _ => rfl, fun _ => rfl, he, ?_⟩
  cases st <;> simp_all [Channel.restart]
  omega

theorem nodeLost_ok {ch : Channel} (h : ChannelOk ch) : ChannelOk ch.nodeLost := by
  unfold Channel.nodeLost
  split
  · rename_i ht
    exact restart_ok h (by simp) (by simp [takes_enabled h ht])
  · exact h

theorem nodeReturned_ok {ch : Channel} (h : ChannelOk ch) : ChannelOk ch.nodeReturned := by
  unfold Channel.nodeReturned
  split
  · exact h
  · rename_i ho
    have he : ch.record.enabled = true := by
      have := (not_congr h.2.2.2.2.2.2.2.1).1 ho
      simpa using this
    exact restart_ok h (by simp) (by simp [he])

theorem softReset_ok {ch : Channel} (h : ChannelOk ch) : ChannelOk ch.softReset := by
  have := restart_ok (st := if ch.record.enabled then .priming else .off) h (by split <;> simp) (by split <;> simp_all)
  exact this

/-! ## Frames -/

@[simp] theorem condition_record (raw : Nat) (ch : Channel) : (ch.condition raw).1.record = ch.record := by
  unfold Channel.condition Channel.count Channel.accept Channel.reseed
  dsimp only
  repeat' split
  all_goals rfl

@[simp] theorem restart_record (st : ChannelState) (ch : Channel) : (ch.restart st).record = ch.record := id rfl

@[simp] theorem nodeLost_record (ch : Channel) : ch.nodeLost.record = ch.record := by
  unfold Channel.nodeLost
  split <;> rfl

@[simp] theorem nodeReturned_record (ch : Channel) : ch.nodeReturned.record = ch.record := by
  unfold Channel.nodeReturned
  split <;> rfl

@[simp] theorem publish_touches {l : List Part} {s t : State} {c : Chan} (h : Touches l s t) (h0 : .image ∈ l) (h1 : .chl ∈ l) (h2 : .man ∈ l) (h3 : .kegs ∈ l) (h4 : .phases ∈ l) (h5 : .taps ∈ l) (h6 : .up ∈ l) (h7 : .atn ∈ l) (h8 : .free ∈ l) (h9 : .drawn ∈ l) (h10 : .slots ∈ l) (h11 : .counts ∈ l) (h12 : .chans ∈ l) :
    Touches l s (publish c t) := by
  have hm : Touches l s (t.modChan c fun ch => { ch with subst := ch.subst.next }) :=
    modChan_touches h h12 (.inr fun _ => rfl) (.inr fun _ hx => hx)
  unfold publish
  simp (maxDischargeDepth := 60) [*]

@[simp] theorem conditionChan_touches {l : List Part} {s t : State} {a : Nat} {c : Chan} (h : Touches l s t) (h0 : .chans ∈ l) :
    Touches l s (conditionChan a c t) := by
  refine modChan_touches h h0 (.inr fun x => ?_) (.inr fun x hx => ?_)
  · split <;> simp
  · split
    · rename_i ht
      exact condition_ok hx ht
    · exact hx

@[simp] theorem conditionReadings_touches {l : List Part} {s t : State} {n : Node} {r : Reply} (h : Touches l s t) (h0 : .chans ∈ l) :
    Touches l s (conditionReadings n r t) := forAll_touches h fun _ _ hu => conditionChan_touches hu h0

/-- Conditioning draws no choice: it may be moved past one. -/
theorem conditionReadings_setFree (n : Node) (r : Reply) (x : Free) (s : State) :
    conditionReadings n r (s.setFree x) = (conditionReadings n r s).setFree x := forAll_setFree fun _ _ => rfl

@[simp] theorem takeReadings_touches {l : List Part} {s t : State} {n : Node} {r : Reply} (h : Touches l s t) (h0 : .image ∈ l) (h1 : .chl ∈ l) (h2 : .man ∈ l) (h3 : .kegs ∈ l) (h4 : .phases ∈ l) (h5 : .taps ∈ l) (h6 : .up ∈ l) (h7 : .atn ∈ l) (h8 : .free ∈ l) (h9 : .drawn ∈ l) (h10 : .slots ∈ l) (h11 : .counts ∈ l) (h12 : .chans ∈ l) :
    Touches l s (takeReadings n r t) := by
  unfold takeReadings
  try dsimp only
  repeat' split
  all_goals simp (maxDischargeDepth := 40) +contextual [KegOk, filter_bound, erase_bound, *]

theorem moveChannels_touches {l : List Part} {s t : State} {n : Node} {f : Channel → Channel} (h : Touches l s t) (hf : ∀ x, (f x).record = x.record)
    (hk : ∀ x, ChannelOk x → ChannelOk (f x)) (h0 : .chans ∈ l) : Touches l s (moveChannels n f t) :=
  forAll_touches h fun _ _ hu => Touches.branch (fun _ => modChan_touches hu h0 (.inr hf) (.inr hk)) fun _ => hu

theorem changeChannels_touches {l : List Part} {s t : State} {n : Node} {f : Channel → Channel} {role : State → State} (h : Touches l s t) (hf : ∀ x, (f x).record = x.record)
    (hk : ∀ x, ChannelOk x → ChannelOk (f x)) (hr : ∀ u, Touches l s u → Touches l s (role u)) (h0 : .image ∈ l) (h1 : .chl ∈ l) (h2 : .man ∈ l) (h3 : .kegs ∈ l) (h4 : .phases ∈ l) (h5 : .taps ∈ l) (h6 : .up ∈ l) (h7 : .atn ∈ l) (h8 : .free ∈ l) (h9 : .drawn ∈ l) (h10 : .slots ∈ l) (h11 : .chans ∈ l) : Touches l s (changeChannels n f role t) :=
  forAnyWith_touches (moveChannels_touches h hf hk h11) h8 hr fun _ _ hu => leftLive_touches hu h0 h1 h2 h3 h4 h5 h6 h7 h8 h9 h10

theorem setRecord_touches {l : List Part} {s t : State} {c : Chan} {r : ChannelRecord} (h : Touches l s t) (h0 : .image ∈ l) (h1 : .chl ∈ l) (h2 : .man ∈ l) (h3 : .kegs ∈ l) (h4 : .phases ∈ l) (h5 : .taps ∈ l) (h6 : .up ∈ l) (h7 : .atn ∈ l) (h8 : .free ∈ l) (h9 : .drawn ∈ l) (h10 : .slots ∈ l) (h11 : .chans ∈ l) (h12 : .records ∈ l) (hr : 1 ≤ r.window ∧ r.window ≤ 8 ∧ 1 ≤ r.decimation) :
    Touches l s (setRecord c r t) := by
  have hm : Touches l s (t.modChan c fun ch => { ch.restart (if r.enabled then .priming else .off) with record := r, subst := .off }) := by
    refine modChan_touches h h11 (.inl h12) (.inr fun x _ => ⟨hr.1, hr.2.1, hr.2.2, by simp [Channel.restart], by simp only [Channel.restart]; omega, fun _ => rfl, fun _ => rfl, ?_, ?_⟩)
    · cases he : r.enabled <;> simp [Channel.restart]
    · cases he : r.enabled <;> simp [Channel.restart]
      omega
  unfold setRecord
  dsimp only
  split
  · simp (maxDischargeDepth := 60) [*]
  · exact hm

theorem seed_touches {l : List Part} {s t : State} {c : Chan} {v : Int} (h : Touches l s t) (h0 : .image ∈ l) (h1 : .chl ∈ l) (h2 : .man ∈ l) (h3 : .kegs ∈ l) (h4 : .phases ∈ l) (h5 : .taps ∈ l) (h6 : .up ∈ l) (h7 : .atn ∈ l) (h8 : .free ∈ l) (h9 : .drawn ∈ l) (h10 : .slots ∈ l) (h11 : .counts ∈ l) (h12 : .chans ∈ l) (ht : (t.chan c).state.takes = true) :
    Touches l s (seed c v t) := by
  have hm : Touches l s (t.modChan c fun ch => { ch with window := List.replicate ch.record.window (entryOf ch.record.kind v), rejectRun := 0, decimationCount := 0, state := .live }) := by
    refine h.trans (Touches.close (q := .chansOk) (modChan_touches (Touches.refl _ _) (by simp [h12]) (.inr fun _ => rfl) (by simp)) ?_)
    intro hk d
    simp only [State.chan, modChan_ccu, upd_get]
    split
    · have he := takes_enabled (hk c) ht
      obtain ⟨q1, q2, q3, q4, q5, _⟩ := hk c
      exact ⟨q1, q2, q3, Nat.zero_le _, Nat.lt_of_lt_of_le Nat.zero_lt_one q3, fun _ => rfl, fun _ => rfl, ⟨fun e => (by cases e), fun e => (by rw [he] at e; cases e)⟩,
        List.length_replicate⟩
    · exact hk d
  unfold seed
  simp (maxDischargeDepth := 60) [*]

@[simp] theorem substitute_touches {l : List Part} {s t : State} {c : Chan} {a : Subst} (h : Touches l s t) (h0 : .image ∈ l) (h1 : .chl ∈ l) (h2 : .man ∈ l) (h3 : .kegs ∈ l) (h4 : .phases ∈ l) (h5 : .taps ∈ l) (h6 : .up ∈ l) (h7 : .atn ∈ l) (h8 : .free ∈ l) (h9 : .drawn ∈ l) (h10 : .slots ∈ l) (h11 : .counts ∈ l) (h12 : .chans ∈ l) :
    Touches l s (substitute c a t) := by
  have hm : Touches l s (t.modChan c fun ch => { ch with subst := a }) := modChan_touches h h12 (.inr fun _ => rfl) (.inr fun _ hx => hx)
  unfold substitute
  dsimp only
  repeat' split
  all_goals simp (maxDischargeDepth := 60) +contextual [*]

end Sys2Proof.Machine
end

