-- ==== Sys2Proof/Laws/Pours.lean ====
section
/-! SUPPORT. What the work of the pours and the panel touches. -/

namespace Sys2Proof.Machine

open Sys2Proof.Safety

@[simp] theorem takePourNumber_touches {l : List Part} {s t : State} (h : Touches l s t) (h0 : .taps ∈ l) :
    Touches l s (takePourNumber t) := by
  exact h.trans fun p hp => by
    cases p <;> first | exact fun a => a | simp_all [Same, takePourNumber]

@[simp] theorem withPour_set (p : Pour) (r : TapRecord) : (r.withPour p).set = r.set := id rfl
@[simp] theorem withPour_purgeRetry (p : Pour) (r : TapRecord) : (r.withPour p).purgeRetry = r.purgeRetry := id rfl

theorem requestPour_touches {l : List Part} {s t : State} {a : PourSource} {v : Nat} {x : Tap} (h : Touches l s t) (h0 : .image ∈ l) (h1 : .man ∈ l)
    (h2 : .kegs ∈ l) (h3 : .taps ∈ l) (h4 : .pourless ∈ l) : Touches l s (requestPour a v x t).2 := by
  unfold requestPour
  split
  · exact h
  · exact h
  · rename_i b _ _
    have := raiseNeed_touches (v := true) (e := pourEntry x b t)
      (t := t.modTap x (TapRecord.withPour (newPour a v b t))) (l := l) (s := s) (by simp [*]) h0 h1 h2 h3
    dsimp only
    split
    · exact h
    · simp_all (maxDischargeDepth := 40) +contextual [KegOk]

@[simp] theorem panelRefusal_touches {l : List Part} {s t : State} {r : PourReason} {x : Tap} (h : Touches l s t) (h0 : .taps ∈ l) (h1 : .up ∈ l) (h2 : .atn ∈ l) :
    Touches l s (panelRefusal r x t) := by
  unfold panelRefusal
  try dsimp only
  repeat' split
  all_goals simp (maxDischargeDepth := 40) +contextual [KegOk, filter_bound, erase_bound, *]

@[simp] theorem panelRequest_touches {l : List Part} {s t : State} {a : Nat} {x : Tap} (h : Touches l s t) (h0 : .image ∈ l) (h1 : .man ∈ l) (h2 : .kegs ∈ l) (h3 : .taps ∈ l) (h4 : .up ∈ l) (h5 : .atn ∈ l) (h6 : .pourless ∈ l) :
    Touches l s (panelRequest a x t) := by
  have := requestPour_touches (a := .panel) (v := a) (x := x) h h0 h1 h2 h3 h6
  unfold panelRequest
  split <;> simp_all

theorem meterPour_touches {l : List Part} {s t : State} {x : Tap} {p : Pour} {a : Nat} (h : Touches l s t)
    (h0 : .image ∈ l) (h1 : .chl ∈ l) (h2 : .man ∈ l) (h3 : .kegs ∈ l) (h4 : .taps ∈ l) (h5 : .free ∈ l) (h6 : .phases ∈ l) (h7 : .up ∈ l) (h8 : .atn ∈ l) (h9 : .volumes ∈ l) (h10 : .pourless ∈ l) : Touches l s (meterPour x p a t).2 := by
  unfold meterPour
  dsimp only
  split
  · simp [*]
  · split
    · have key := becomeSpent_touches (l := l) (s := s) (b := p.bay) (t := endPour .empty x (debit p.bay
        (meteredVolume p.carry a (t.tapRec x).set.pulsesPerLitre).1 (t.modTap x fun r => { r with pour := some <|
          (p.meter a (meteredVolume p.carry a (t.tapRec x).set.pulsesPerLitre).1 (meteredVolume p.carry a (t.tapRec x).set.pulsesPerLitre).2) })))
        (by simp (maxDischargeDepth := 40) [*]) h0 h1 h2 h3 h4 h5 h6 h7 h8
      split <;> simp_all
    · split
      · simp (maxDischargeDepth := 40) [*]
      · simp (maxDischargeDepth := 40) [*]

theorem meterTap_touches {l : List Part} {s t : State} {x : Tap} {a : BitVec 16} (h : Touches l s t)
    (h0 : .image ∈ l) (h1 : .chl ∈ l) (h2 : .man ∈ l) (h3 : .kegs ∈ l) (h4 : .taps ∈ l) (h5 : .free ∈ l) (h6 : .phases ∈ l) (h7 : .up ∈ l) (h8 : .atn ∈ l) (h9 : .volumes ∈ l) (h10 : .pourless ∈ l) : Touches l s (meterTap x a t).2 := by
  have key := fun p d => meterPour_touches (l := l) (s := s) (x := x) (p := p) (a := d) (t := t.modTap x fun r => { r with lastFlow := some a })
    (by simp [*]) h0 h1 h2 h3 h4 h5 h6 h7 h8 h9 h10
  unfold meterTap
  dsimp only
  repeat' split
  all_goals simp_all

@[simp] theorem noticeFor_touches {l : List Part} {s t : State} {x : Tap} {c : Option Bay} (h : Touches l s t) (h0 : .image ∈ l) (h1 : .man ∈ l) (h2 : .kegs ∈ l) (h3 : .taps ∈ l) (h4 : .up ∈ l) (h5 : .atn ∈ l) :
    Touches l s (noticeFor x c t) := by
  unfold noticeFor
  try dsimp only
  repeat' split
  all_goals simp (maxDischargeDepth := 40) +contextual [KegOk, filter_bound, erase_bound, *]

@[simp] theorem meterBoth_touches {l : List Part} {s t : State} {a c : BitVec 16} (h : Touches l s t)
    (h0 : .image ∈ l) (h1 : .chl ∈ l) (h2 : .man ∈ l) (h3 : .kegs ∈ l) (h4 : .taps ∈ l) (h5 : .free ∈ l) (h6 : .phases ∈ l) (h7 : .up ∈ l) (h8 : .atn ∈ l) (h9 : .volumes ∈ l) (h10 : .pourless ∈ l) : Touches l s (meterBoth a c t) := by
  have hm := fun x a u hu => meterTap_touches (l := l) (s := s) (t := u) (x := x) (a := a) hu h0 h1 h2 h3 h4 h5 h6 h7 h8 h9 h10
  have hn := fun x c u hu => @noticeFor_touches l s u x c hu h0 h2 h3 h4 h7 h8
  have hsn := fun b x u hu => @spentNotice_touches l s u b x hu h0 h2 h3 h4 h7 h8
  have hc := fun n u hu => @choose_touches l s u n hu h5
  unfold meterBoth
  dsimp only
  repeat' split
  · exact hn _ _ _ (hm _ _ _ (hsn _ _ _ (hc _ _ (hm _ _ _ h))))
  · exact hn _ _ _ (hsn _ _ _ (hm _ _ _ (hc _ _ (hm _ _ _ h))))
  · exact hn _ _ _ (hm _ _ _ (hm _ _ _ h))
  · exact hn _ _ _ (hm _ _ _ (hm _ _ _ h))

@[simp] theorem pressTaken_touches {l : List Part} {s t : State} {x : Tap} {p : Press} (h : Touches l s t) (h0 : .image ∈ l) (h1 : .man ∈ l) (h2 : .kegs ∈ l) (h3 : .taps ∈ l) (h4 : .up ∈ l) (h5 : .atn ∈ l) (h6 : .pourless ∈ l) :
    Touches l s (pressTaken x p t) := by
  unfold pressTaken
  try dsimp only
  repeat' split
  all_goals simp (maxDischargeDepth := 40) +contextual [KegOk, filter_bound, erase_bound, *]

@[simp] theorem pressTap_touches {l : List Part} {s t : State} {x : Tap} {p : PanelTap} (h : Touches l s t) (h0 : .image ∈ l) (h1 : .man ∈ l) (h2 : .kegs ∈ l) (h3 : .taps ∈ l) (h4 : .up ∈ l) (h5 : .atn ∈ l) (h6 : .pourless ∈ l) :
    Touches l s (pressTap x p t) := by
  unfold pressTap
  try dsimp only
  repeat' split
  all_goals simp (maxDischargeDepth := 40) +contextual [KegOk, filter_bound, erase_bound, *]

@[simp] theorem panelBaseline_touches {l : List Part} {s t : State} {v : Vector PanelTap 2} (h : Touches l s t) (h0 : .taps ∈ l) :
    Touches l s (panelBaseline v t) := by
  unfold panelBaseline
  try dsimp only
  repeat' split
  all_goals simp (maxDischargeDepth := 40) +contextual [KegOk, filter_bound, erase_bound, *]

@[simp] theorem panelData_touches {l : List Part} {s t : State} {c : Bool} {v : Vector PanelTap 2} (h : Touches l s t) (h0 : .image ∈ l) (h1 : .chl ∈ l) (h2 : .man ∈ l) (h3 : .kegs ∈ l) (h4 : .taps ∈ l) (h5 : .free ∈ l) (h6 : .phases ∈ l) (h7 : .up ∈ l) (h8 : .atn ∈ l) (h9 : .volumes ∈ l) (h10 : .pourless ∈ l) :
    Touches l s (panelData c v t) := by
  unfold panelData
  try dsimp only
  repeat' split
  all_goals simp (maxDischargeDepth := 40) +contextual [KegOk, filter_bound, erase_bound, *]

@[simp] theorem waitExpired_touches {l : List Part} {s t : State} {x : Tap} (h : Touches l s t) (h0 : .image ∈ l) (h1 : .man ∈ l) (h2 : .kegs ∈ l) (h3 : .taps ∈ l) (h4 : .up ∈ l) (h5 : .atn ∈ l) :
    Touches l s (waitExpired x t) := by
  unfold waitExpired
  try dsimp only
  repeat' split
  all_goals simp (maxDischargeDepth := 40) +contextual [KegOk, filter_bound, erase_bound, *]

@[simp] theorem stallNotice_touches {l : List Part} {s t : State} {b : Bay} {x : Tap} (h : Touches l s t)
    (h0 : .image ∈ l) (h1 : .chl ∈ l) (h2 : .man ∈ l) (h3 : .kegs ∈ l) (h4 : .taps ∈ l) (h5 : .free ∈ l) (h6 : .phases ∈ l) (h7 : .up ∈ l) (h8 : .atn ∈ l) (h9 : .volumes ∈ l) : Touches l s (stallNotice b x t) := by
  have key := becomeSpent_touches (l := l) (s := s) (b := b) (t := t.modKeg b fun k => { k with remaining := 0 }) (by simp +contextual [KegOk, *]) h0 h1 h2 h3 h4 h5 h6 h7 h8
  unfold stallNotice
  split <;> simp_all

@[simp] theorem stallExpired_touches {l : List Part} {s t : State} {b : Bay} {x : Tap} (h : Touches l s t) (h0 : .image ∈ l) (h1 : .chl ∈ l) (h2 : .man ∈ l) (h3 : .kegs ∈ l) (h4 : .taps ∈ l) (h5 : .free ∈ l) (h6 : .phases ∈ l) (h7 : .up ∈ l) (h8 : .atn ∈ l) (h9 : .volumes ∈ l) :
    Touches l s (stallExpired b x t) := by
  unfold stallExpired
  try dsimp only
  repeat' split
  all_goals simp (maxDischargeDepth := 40) +contextual [KegOk, filter_bound, erase_bound, *]

@[simp] theorem overdueRaise_touches {l : List Part} {s t : State} {p : PurgeStatus} {x : Tap} (h : Touches l s t) (h0 : .up ∈ l) (h1 : .atn ∈ l) :
    Touches l s (overdueRaise p x t) := by
  unfold overdueRaise
  try dsimp only
  repeat' split
  all_goals simp (maxDischargeDepth := 40) +contextual [KegOk, filter_bound, erase_bound, *]

@[simp] theorem minute_set (r : TapRecord) : r.minute.set = r.set := id rfl
@[simp] theorem minute_purgeRetry (r : TapRecord) : r.minute.purgeRetry = r.purgeRetry := id rfl
@[simp] theorem minute_pour (r : TapRecord) : r.minute.pour = r.pour := id rfl

@[simp] theorem minuteExpired_touches {l : List Part} {s t : State} {x : Tap} (h : Touches l s t) (h0 : .image ∈ l) (h1 : .man ∈ l) (h2 : .kegs ∈ l) (h3 : .taps ∈ l) (h4 : .up ∈ l) (h5 : .atn ∈ l) :
    Touches l s (minuteExpired x t) := by
  unfold minuteExpired
  try dsimp only
  repeat' split
  all_goals simp (maxDischargeDepth := 40) +contextual [KegOk, filter_bound, erase_bound, *]

@[simp] theorem retryExpired_touches {l : List Part} {s t : State} {x : Tap} (h : Touches l s t) (h0 : .image ∈ l) (h1 : .man ∈ l) (h2 : .kegs ∈ l) (h3 : .taps ∈ l) (h4 : .retry ∈ l) :
    Touches l s (retryExpired x t) := by
  exact evalPurge_touches (modTap_touches h (.inr fun _ => rfl) (.inr fun _ => rfl) (.inl h4)) h0 h1 h2 h3

@[simp] theorem blinkEnded_touches {l : List Part} {s t : State} {x : Tap} (h : Touches l s t) (h0 : .taps ∈ l) :
    Touches l s (blinkEnded x t) := by
  unfold blinkEnded
  try dsimp only
  repeat' split
  all_goals simp (maxDischargeDepth := 40) +contextual [KegOk, filter_bound, erase_bound, *]

end Sys2Proof.Machine
end

