-- ==== Sys2Proof/Laws/Exchange.lean ====
section
/-! SUPPORT. What the work of the exchanges touches, the judgement of a reply that goes on, and the end of an event. -/

namespace Sys2Proof.Machine

open Sys2Proof.Safety

@[simp] theorem beginRound_touches {l : List Part} {s t : State} (h : Touches l s t) (h0 : .line ∈ l) :
    Touches l s (beginRound t) := by
  refine modBlc_touches h (.inl h0) (.inr fun _ => ⟨rfl, rfl⟩) (.inr fun x hx => ⟨fun n => ?_, hx.2⟩) (.inr fun _ hx => hx)
    (.inr fun x => by simp [undue, Function.comp_def])
  have := hx.1 n
  simpa [NodeOk] using this

theorem startAttempt_touches {l : List Part} {s t : State} {x : Exchange} (h : Touches l s t) (h0 : .line ∈ l) (hb : .linkOk ∈ l ∨ x.busyCount ≤ 3) :
    Touches l s (startAttempt x t) := by
  refine modBlc_touches h (.inl h0) (.inr fun _ => ⟨rfl, rfl⟩) (hb.imp id fun hb y hy => ⟨hy.1, ?_⟩) (.inr fun _ hx => hx)
  rintro _ ⟨⟩
  exact hb

@[simp] theorem beginExchange_touches {l : List Part} {s t : State} {n : Node} (h : Touches l s t) (h0 : .line ∈ l) (h1 : .image ∈ l) :
    Touches l s (beginExchange n t) := by
  have hm : Touches l s (t.modBlc fun blc => { blc with urgent := blc.urgent.filter fun m => decide (m ≠ n) }) :=
    modBlc_image h h1 (fun _ => rfl) (.inr fun _ hx => hx.filter _)
  exact startAttempt_touches (modNode_touches hm h0 (.inr fun hx => hx)) h0 (.inr (Nat.zero_le _))

@[simp] theorem kick_touches {l : List Part} {s t : State} (h : Touches l s t) (h0 : .line ∈ l) (h1 : .image ∈ l) :
    Touches l s (kick t) := by
  unfold kick
  try dsimp only
  repeat' split
  all_goals simp (maxDischargeDepth := 40) +contextual [KegOk, filter_bound, erase_bound, *]

@[simp] theorem finish_touches {l : List Part} {s t : State} (h : Touches l s t) (h0 : .line ∈ l) (h1 : .image ∈ l) (h2 : .retry ∈ l) :
    Touches l s (finish t) := by
  unfold finish
  try dsimp only
  repeat' split
  all_goals simp (maxDischargeDepth := 40) +contextual [KegOk, filter_bound, erase_bound, *]

@[simp] theorem endRound_touches {l : List Part} {s t : State} (h : Touches l s t) (h0 : .line ∈ l) :
    Touches l s (endRound t) := by
  have hm : Touches l s (t.modBlc fun x => { x with roundOpen := false }) :=
    modBlc_touches h (.inl h0) (.inr fun _ => ⟨rfl, rfl⟩) (.inr fun _ hx => hx) (.inr fun _ hx => hx)
  unfold endRound
  repeat' split
  · exact hm
  · exact beginRound_touches h h0
  · exact h

@[simp] theorem endExchange_touches {l : List Part} {s t : State} (h : Touches l s t) (h0 : .line ∈ l) :
    Touches l s (endExchange t) := by
  exact endRound_touches (modBlc_touches h (.inl h0) (.inr fun _ => ⟨rfl, rfl⟩) (.inr fun _ hx => ⟨hx.1, fun _ e => (by cases e)⟩)
    (.inr fun _ hx => hx)) h0

@[simp] theorem roleLost_touches {l : List Part} {s t : State} {n : Node} (h : Touches l s t) (h0 : .image ∈ l) (h1 : .chl ∈ l) (h2 : .man ∈ l) (h3 : .kegs ∈ l) (h4 : .phases ∈ l) (h5 : .taps ∈ l) (h6 : .up ∈ l) (h7 : .atn ∈ l) (h8 : .free ∈ l) :
    Touches l s (roleLost n t) := by
  unfold roleLost
  try dsimp only
  repeat' split
  all_goals simp (maxDischargeDepth := 40) +contextual [KegOk, filter_bound, erase_bound, *]

@[simp] theorem roleOnline_touches {l : List Part} {s t : State} {n : Node} {c : Bool} (h : Touches l s t) (h0 : .image ∈ l) (h1 : .chl ∈ l) (h2 : .man ∈ l) (h3 : .kegs ∈ l) (h4 : .taps ∈ l) :
    Touches l s (roleOnline n c t) := by
  unfold roleOnline
  try dsimp only
  repeat' split
  all_goals simp (maxDischargeDepth := 40) +contextual [KegOk, filter_bound, erase_bound, *]

@[simp] theorem deliverLost_touches {l : List Part} {s t : State} {n : Node} (h : Touches l s t) (h0 : .image ∈ l) (h1 : .chl ∈ l) (h2 : .man ∈ l) (h3 : .kegs ∈ l) (h4 : .phases ∈ l) (h5 : .taps ∈ l) (h6 : .up ∈ l) (h7 : .atn ∈ l) (h8 : .free ∈ l) (h9 : .drawn ∈ l) (h10 : .slots ∈ l) (h11 : .chans ∈ l) :
    Touches l s (deliverLost n t) := by
  exact changeChannels_touches h (by simp) (fun _ hx => nodeLost_ok hx)
    (fun _ hu => roleLost_touches hu h0 h1 h2 h3 h4 h5 h6 h7 h8) h0 h1 h2 h3 h4 h5 h6 h7 h8 h9 h10 h11

@[simp] theorem deliverOnline_touches {l : List Part} {s t : State} {n : Node} {c : Bool} (h : Touches l s t) (h0 : .image ∈ l) (h1 : .chl ∈ l) (h2 : .man ∈ l) (h3 : .kegs ∈ l) (h4 : .phases ∈ l) (h5 : .taps ∈ l) (h6 : .up ∈ l) (h7 : .atn ∈ l) (h8 : .free ∈ l) (h9 : .drawn ∈ l) (h10 : .slots ∈ l) (h11 : .chans ∈ l) :
    Touches l s (deliverOnline n c t) := by
  unfold deliverOnline
  split
  · exact changeChannels_touches h (by simp) (fun _ hx => nodeReturned_ok hx)
      (fun _ hu => roleOnline_touches hu h0 h1 h2 h3 h5) h0 h1 h2 h3 h4 h5 h6 h7 h8 h9 h10 h11
  · exact roleOnline_touches h h0 h1 h2 h3 h5

@[simp] theorem exchangeFailed_touches {l : List Part} {s t : State} {n : Node} (h : Touches l s t) (h0 : .image ∈ l) (h1 : .chl ∈ l) (h2 : .man ∈ l) (h3 : .kegs ∈ l) (h4 : .phases ∈ l) (h5 : .taps ∈ l) (h6 : .up ∈ l) (h7 : .atn ∈ l) (h8 : .free ∈ l) (h9 : .drawn ∈ l) (h10 : .slots ∈ l) (h11 : .chans ∈ l) (h12 : .line ∈ l) (h13 : .nodes ∈ l) :
    Touches l s (exchangeFailed n t) := by
  have hold : NodeOk (t.node n) → (t.node n).failures ≤ 3 ∧ ((t.node n).state = .lost ↔ (t.node n).failures = 3) := id
  unfold exchangeFailed
  dsimp only
  split
  · rename_i hc
    rw [modNode_modNode]
    have hm : Touches l s (t.modNode n fun r => { r with failures := min 3 ((t.node n).failures + 1), state := .lost }) :=
      modNode_touches h h12 (.inr fun _ => ⟨Nat.min_le_left _ _, fun _ => hc.1, fun _ => rfl⟩) (.inl h13)
    exact endExchange_touches (deliverLost_touches (raise_touches hm h6 h7) h0 h1 h2 h3 h4 h5 h6 h7 h8 h9 h10 h11) h12
  · rename_i hc
    have hm : Touches l s (t.modNode n fun r => { r with failures := min 3 ((t.node n).failures + 1) }) := by
      refine modNode_touches h h12 (.inr fun hx => ⟨Nat.min_le_left _ _, ?_⟩) (.inl h13)
      have := hold hx
      constructor
      · intro e
        have := this.2.1 e
        show min 3 _ = 3
        omega
      · intro e
        by_contra hn
        exact hc ⟨e, hn⟩
    exact endExchange_touches hm h12

@[simp] theorem handOver_touches {l : List Part} {s t : State} {n : Node} {r : Reply} {c : Bool} (h : Touches l s t) (h0 : .image ∈ l) (h1 : .chl ∈ l) (h2 : .man ∈ l) (h3 : .kegs ∈ l) (h4 : .phases ∈ l) (h5 : .taps ∈ l) (h6 : .up ∈ l) (h7 : .atn ∈ l) (h8 : .free ∈ l) (h9 : .drawn ∈ l) (h10 : .slots ∈ l) (h11 : .counts ∈ l) (h12 : .chans ∈ l) (h13 : .volumes ∈ l) (h14 : .pourless ∈ l) :
    Touches l s (handOver n r c t) := by
  unfold handOver
  split
  · exact forAnyWith_touches (conditionReadings_touches h h12) h8
      (fun _ hu => panelData_touches hu h0 h1 h2 h3 h5 h8 h4 h6 h7 h13 h14)
      fun _ _ hu => publish_touches hu h0 h1 h2 h3 h4 h5 h6 h7 h8 h9 h10 h11 h12
  · exact takeReadings_touches h h0 h1 h2 h3 h4 h5 h6 h7 h8 h9 h10 h11 h12

@[simp] theorem exchangeSucceeded_touches {l : List Part} {s t : State} {n : Node} {r : Reply} (h : Touches l s t) (h0 : .image ∈ l) (h1 : .chl ∈ l) (h2 : .man ∈ l) (h3 : .kegs ∈ l) (h4 : .phases ∈ l) (h5 : .taps ∈ l) (h6 : .up ∈ l) (h7 : .atn ∈ l) (h8 : .free ∈ l) (h9 : .drawn ∈ l) (h10 : .slots ∈ l) (h11 : .counts ∈ l) (h12 : .chans ∈ l) (h13 : .volumes ∈ l) (h14 : .line ∈ l) (h15 : .pourless ∈ l) (h16 : .nodes ∈ l) :
    Touches l s (exchangeSucceeded n r t) := by
  have hm : Touches l s (t.modNode n fun x => { x with lastReply := some r, failures := 0, state := .online }) :=
    modNode_touches h h14 (.inr fun _ => ⟨by simp, by simp⟩) (.inl h16)
  unfold exchangeSucceeded
  dsimp only
  split
  all_goals simp (maxDischargeDepth := 60) [*]

@[simp] theorem exchangeBusy_touches {l : List Part} {s t : State} {x : Exchange} (h : Touches l s t) (h0 : .image ∈ l) (h1 : .chl ∈ l) (h2 : .man ∈ l) (h3 : .kegs ∈ l) (h4 : .phases ∈ l) (h5 : .taps ∈ l) (h6 : .up ∈ l) (h7 : .atn ∈ l) (h8 : .free ∈ l) (h9 : .drawn ∈ l) (h10 : .slots ∈ l) (h11 : .chans ∈ l) (h12 : .line ∈ l) (h13 : .nodes ∈ l) :
    Touches l s (exchangeBusy x t) := by
  unfold exchangeBusy
  split
  · rename_i hb
    refine modBlc_touches h (.inl h12) (.inr fun _ => ⟨rfl, rfl⟩) (.inr fun _ hx => ⟨hx.1, ?_⟩) (.inr fun _ hx => hx)
    rintro _ ⟨⟩
    exact hb
  · simp (maxDischargeDepth := 60) [*]

@[simp] theorem blcSoftReset_touches {l : List Part} {s t : State} (h : Touches l s t) (h0 : .line ∈ l) (h1 : .image ∈ l) (h2 : .nodes ∈ l) :
    Touches l s (blcSoftReset t) := by
  unfold blcSoftReset
  refine modBlc_touches h (.inl h0) (.inl h1) (.inr fun _ _ => ⟨fun n => ?_, fun _ e => (by cases e)⟩) (.inr fun _ _ => (by decide : allNodes.Nodup)) (.inl h2)
  simp [NodeOk, NodeRecord.reset]

/-- R9. Once a reply has been judged, the characters that follow do not touch the judgement. -/
theorem judgeReply_append {n : Node} {l : List Char9} (m : List Char9) (h : judgeReply n l ≠ .unfinished) :
    judgeReply n (l ++ m) = judgeReply n l := by
  have key : ∀ {k : Nat} {c d : Char9} {l : List Char9}, ¬ (c :: d :: l).length < k →
      (c :: d :: (l ++ m)).take k = (c :: d :: l).take k ∧ ¬ (c :: d :: (l ++ m)).length < k := fun h =>
    ⟨List.take_append_of_le_length (l₁ := _ :: _ :: _) (Nat.le_of_not_lt h), by simp only [List.length_cons, List.length_append] at h ⊢; omega⟩
  match l with
  | [] => exact absurd rfl h
  | c :: rest =>
    by_cases hc : c = BitVec.ofNat 9 (nodeNum n)
    · match rest with
      | [] => exact absurd (if_neg (not_not_intro hc)) h
      | d :: l =>
        simp only [judgeReply, List.cons_append, if_neg (not_not_intro hc)] at h ⊢
        by_cases h1 : dataOf d = 0x01
        · simp only [if_pos h1] at h ⊢
          by_cases hl : (c :: d :: l).length < readyLength n
          · exact absurd (if_pos hl) h
          · simp only [if_neg hl, if_neg (key hl).2, (key hl).1]
        · simp only [if_neg h1] at h ⊢
          by_cases h2 : dataOf d = 0x02
          · simp only [if_pos h2] at h ⊢
            by_cases hl : (c :: d :: l).length < busyLength
            · exact absurd (if_pos hl) h
            · simp only [if_neg hl, if_neg (key hl).2, (key hl).1]
          · simp only [if_neg h2]
    · simp only [judgeReply, List.cons_append, if_pos (show c ≠ _ from hc)]

end Sys2Proof.Machine
end

