-- ==== Sys2Proof/Laws/Requests.lean ====
section
/-! SUPPORT. How a request is served: the RESPONSE and the receiver queue, and what the handlers touch. -/

namespace Sys2Proof.Machine

open Sys2Proof.Safety

/-! ## The handler of each request -/

/-- What carries a request out. -/
def handlerOf : Request → State → Answer × State
  | .channelSet p => withParams p channelSetRequest
  | .routeLoad p => withParams p routeLoadRequest
  | .tapLoad p => withParams p tapLoadRequest
  | .gasSet p => withParams p gasSetRequest
  | .chillSet p => withParams p chillSetRequest
  | .channelSeed p => withParams p channelSeedRequest
  | .channelSubst p => withParams p channelSubstRequest
  | .run p => withParams p fun _ => runRequest
  | .hold p => withParams p fun _ => holdRequest
  | .softReset p => withParams p fun _ s => okay (softReset s)
  | .kegLoad p => withParams p kegLoadRequest
  | .kegSchedule p => withParams p kegScheduleRequest
  | .kegAppend p => withParams p kegAppendRequest
  | .kegServe p => withParams p kegServeRequest
  | .kegAbort p => withParams p kegAbortRequest
  | .kegResume p => withParams p kegResumeRequest
  | .kegRemove p => withParams p kegRemoveRequest
  | .kegVolume p => withParams p kegVolumeRequest
  | .kegLimits p => withParams p kegLimitsRequest
  | .tapBind p => withParams p tapBindRequest
  | .tapLock p => withParams p tapLockRequest
  | .pour p => withParams p pourRequest
  | .pourCancel p => withParams p pourCancelRequest
  | .gasCheck p => withParams p fun _ => gasCheckRequest
  | .gasUnlock p => withParams p fun _ => gasUnlockRequest
  | .attnMask p => withParams p attnMaskRequest
  | .attnAck p => withParams p attnAckRequest
  | .qStatus p => withParams p fun _ s => okayWith (.status (statusResult s)) s
  | .qKeg p => withParams p fun p => withBay p.bay fun b s => okayWith (.keg (kegResult b s)) s
  | .qChannel p => withParams p fun p => withNumber (chanOf p.channel) fun c s => okayWith (.channel (channelResult c s)) s
  | .qQueues p => withParams p fun _ s => okayWith (.queues (queuesResult s)) s
  | .qTap p => withParams p fun p => withNumber (tapOf p.tap) fun t s => okayWith (.tap (tapResult t s)) s
  | .qIdent p => withParams p fun _ s => okayWith identResult s
  | .nodeWrite p => withParams p nodeWriteRequest
  | .nodeRead p => withParams p fun p => withNumber (nodeOf p.node) fun n s => okayWith (.node (nodeResult n s)) s
  | .unknown _ => refuse .unknownRequest

/-- A request that writes no output: its event has no end of its own. -/
def isQuiet : Request → Bool
  | .gasSet _ | .attnMask _ | .attnAck _ | .qStatus _ | .qKeg _ | .qChannel _ | .qQueues _ | .qTap _ | .qIdent _ | .nodeRead _ | .unknown _ => true
  | _ => false

/-- The end of a request's event. -/
def closeOf (r : Request) : State → State := if isQuiet r then id else finish

/-- Every request is served in one way. -/
theorem exec_frameCommand (tag : Byte) (r : Request) (s : State) :
    exec (frameCommand { tag := tag, request := r }) s = .next (serve (closeOf r) tag r (handlerOf r) s) := by
  cases r <;> rfl

/-! ## Serving -/

/-- A request is served now: no reset lasts, its frame stands at the head of the receiver queue, and no RESPONSE waits. -/
def Served (tag : Byte) (r : Request) (s : State) : Prop := s.inReset = false ∧ mayTake tag r s = true

theorem serve_of_served {close : State → State} {tag : Byte} {r : Request} {handler : State → Answer × State} {s : State} (h : Served tag r s) :
    serve close tag r handler s =
      respond tag r (handler s).1 (if (handler s).1.status = .ok then close (handler s).2 else (handler s).2) := by
  simp [serve, h.1, h.2]

theorem serve_of_not_served {close : State → State} {tag : Byte} {r : Request} {handler : State → Answer × State} {s : State} (h : ¬ Served tag r s) :
    serve close tag r handler s = s := by
  unfold serve
  rw [if_neg]
  intro hc
  simp only [Bool.and_eq_true, Bool.not_eq_true'] at hc
  exact h hc

theorem served_iff (tag : Byte) (r : Request) (s : State) :
    Served tag r s ↔ s.inReset = false ∧ s.mgp.receiver.head? = some { tag := tag, request := r } ∧ ∀ f ∈ s.mgp.up, f.isResponse = false := by
  unfold Served mayTake responseWaits
  simp

/-- R170. What the RESPONSE's joining leaves: the frame at the tail of the upward queue, and the receiver queue without its head. -/
theorem respond_up (tag : Byte) (r : Request) (a : Answer) (s : State) :
    (respond tag r a s).mgp.up = s.mgp.up ++ [.response (formResponse tag r a s)] := rfl

theorem respond_receiver (tag : Byte) (r : Request) (a : Answer) (s : State) :
    (respond tag r a s).mgp.receiver = s.mgp.receiver.tail := rfl

theorem respond_touches {l : List Part} {s t : State} {tag : Byte} {r : Request} {a : Answer} (h : Touches l s t) (h0 : .port ∈ l)
    (h1 : .receiver ∈ l) (h2 : .up ∈ l) (h3 : .responses ∈ l) : Touches l s (respond tag r a t) := by
  refine h.trans (Touches.close (q := .upOk) ?_ ?_)
  · unfold respond joinUp
    simp (maxDischargeDepth := 40) [*]
  · intro hr
    rw [respond_up]
    refine ⟨?_, ?_⟩
    · rw [List.countP_append]
      simpa [UpFrame.isAttention] using hr.1
    · rw [List.countP_append]
      simpa [isRecord, UpFrame.isResponse] using hr.2

/-! ## Frames of the handlers -/

@[simp] theorem refuse_state (st : Status) (s : State) : (refuse st s).2 = s := rfl
@[simp] theorem refuseWith_state (st : Status) (r : Result) (s : State) : (refuseWith st r s).2 = s := rfl
@[simp] theorem okay_state (s : State) : (okay s).2 = s := rfl
@[simp] theorem okayWith_state (r : Result) (s : State) : (okayWith r s).2 = s := rfl

theorem withParams_touches {α : Type} {l : List Part} {s t : State} {p : Payload α} {handler : α → State → Answer × State} (h : Touches l s t)
    (g : ∀ x, Touches l s (handler x t).2) : Touches l s (withParams p handler t).2 := by
  unfold withParams
  split
  · exact g _
  · exact h

theorem withNumber_touches {α : Type} {l : List Part} {s t : State} {n : Option α} {handler : α → State → Answer × State} (h : Touches l s t)
    (g : ∀ x, n = some x → Touches l s (handler x t).2) : Touches l s (withNumber n handler t).2 := by
  unfold withNumber
  split
  · exact g _ rfl
  · exact h

theorem require_touches {l : List Part} {s t : State} {ok : Bool} {st : Status} {next : State → Answer × State} (h : Touches l s t)
    (g : ok = true → Touches l s (next t).2) : Touches l s (require ok st next t).2 := by
  unfold require
  split
  · exact g ‹_›
  · exact h

/-! ## Frames of the actions -/

@[simp] theorem load_purgeRetry (x : TapSettings) (r : TapRecord) : (r.load x).purgeRetry = r.purgeRetry := id rfl
@[simp] theorem load_pour (x : TapSettings) (r : TapRecord) : (r.load x).pour = r.pour := id rfl

@[simp] theorem loadTap_touches {l : List Part} {s t : State} {x : Tap} {a : TapSettings} (h : Touches l s t) (h0 : .image ∈ l) (h1 : .chl ∈ l) (h2 : .taps ∈ l) (h3 : .tapSettings ∈ l) (h4 : .up ∈ l) (h5 : .atn ∈ l) :
    Touches l s (loadTap x a t) := by
  unfold loadTap
  try dsimp only
  repeat' split
  all_goals simp (maxDischargeDepth := 40) +contextual [KegOk, filter_bound, erase_bound, *]

@[simp] theorem bindTap_touches {l : List Part} {s t : State} {x : Tap} {a : Option Bay} (h : Touches l s t) (h0 : .image ∈ l) (h1 : .chl ∈ l) (h2 : .taps ∈ l) (h3 : .tapSettings ∈ l) :
    Touches l s (bindTap x a t) := by
  unfold bindTap
  try dsimp only
  repeat' split
  all_goals simp (maxDischargeDepth := 40) +contextual [KegOk, filter_bound, erase_bound, *]

@[simp] theorem lockTap_touches {l : List Part} {s t : State} {x : Tap} {c : Bool} (h : Touches l s t) (h0 : .image ∈ l) (h1 : .man ∈ l) (h2 : .kegs ∈ l) (h3 : .taps ∈ l) (h4 : .up ∈ l) (h5 : .atn ∈ l) (h6 : .tapSettings ∈ l) :
    Touches l s (lockTap x c t) := by
  unfold lockTap
  try dsimp only
  repeat' split
  all_goals simp (maxDischargeDepth := 40) +contextual [KegOk, filter_bound, erase_bound, *]

@[simp] theorem setChiller_touches {l : List Part} {s t : State} {p : ChillSetParams} {q : Policy} (h : Touches l s t) (h0 : .image ∈ l) (h1 : .chl ∈ l) (h2 : .chlSettings ∈ l) (h3 : .up ∈ l) (h4 : .atn ∈ l) :
    Touches l s (setChiller p q t) := by
  unfold setChiller
  try dsimp only
  repeat' split
  all_goals simp (maxDischargeDepth := 40) +contextual [KegOk, filter_bound, erase_bound, *]

theorem loadKeg_touches {l : List Part} {s t : State} {b : Bay} {v : Nat} {m : SenseMode} (h : Touches l s t) (h0 : .image ∈ l) (h1 : .chl ∈ l) (h2 : .man ∈ l) (h3 : .kegs ∈ l) (h4 : .phases ∈ l) (h5 : .taps ∈ l) (h6 : .up ∈ l) (h7 : .atn ∈ l) (h8 : .free ∈ l) (h9 : .drawn ∈ l) (h10 : .chains ∈ l) (h11 : .volumes ∈ l) (hv : (t.keg b).phase = .vacant) :
    Touches l s (loadKeg b v m t) := by
  refine deliverControl_touches (passing_touches (modKeg_at h h3 (.inl h10) (.inl h4) (.inl h11)
    (.inr fun hp => ⟨?_, fun e => (by cases e)⟩) (.inr fun _ => ⟨Nat.le_refl _, ?_⟩)) h0) h0 h1 h2 h3 h4 h5 h6 h7 h8 h9
  · rw [hp.2.2.2 b hv]
    rfl
  · exact (by decide : ∀ i : Fin 6, Keg.reset.buckets[i] ≤ 255)

@[simp] theorem serveKeg_touches {l : List Part} {s t : State} {b : Bay} {v w : Int} (h : Touches l s t) (h0 : .image ∈ l) (h1 : .chl ∈ l) (h2 : .man ∈ l) (h3 : .kegs ∈ l) (h4 : .phases ∈ l) (h5 : .taps ∈ l) (h6 : .up ∈ l) (h7 : .atn ∈ l) (h8 : .free ∈ l) (h9 : .released ∈ l) :
    Touches l s (serveKeg b v w t) := by
  unfold serveKeg
  try dsimp only
  repeat' split
  all_goals simp (maxDischargeDepth := 60) +contextual [KegOk, changePhase_touches, *]

@[simp] theorem abortKeg_touches {l : List Part} {s t : State} {b : Bay} (h : Touches l s t) (h0 : .image ∈ l) (h1 : .chl ∈ l) (h2 : .man ∈ l) (h3 : .kegs ∈ l) (h4 : .phases ∈ l) (h5 : .taps ∈ l) (h6 : .up ∈ l) (h7 : .atn ∈ l) (h8 : .free ∈ l) (h9 : .chains ∈ l) (h10 : .sch ∈ l) :
    Touches l s (abortKeg b t) := by
  have hc := clearTimers_fields
  unfold abortKeg
  try dsimp only
  repeat' split
  all_goals simp (maxDischargeDepth := 60) +contextual [KegOk, changePhase_touches, *]

@[simp] theorem removeKeg_touches {l : List Part} {s t : State} {b : Bay} (h : Touches l s t) (h0 : .image ∈ l) (h1 : .chl ∈ l) (h2 : .man ∈ l) (h3 : .kegs ∈ l) (h4 : .phases ∈ l) (h5 : .taps ∈ l) (h6 : .up ∈ l) (h7 : .atn ∈ l) (h8 : .free ∈ l) (h9 : .drawn ∈ l) (h10 : .chains ∈ l) (h11 : .volumes ∈ l) (h12 : .sch ∈ l) :
    Touches l s (removeKeg b t) := by
  unfold removeKeg
  split
  · exact h
  · have hr := returnChain_touches (b := b) (leaveControl_touches (b := b) h h0 h1 h2 h3 h5 h8) h3 h10 h12
    have hv := writeVent_touches (b := b) (passing_touches (os := [.vent b]) (f := (·.modKeg b fun k => { k with relief := false }))
      (modKeg_touches hr h3 (.inr fun _ => rfl) (.inr fun _ => rfl) (.inr fun _ => ⟨rfl, rfl⟩) (.inr fun _ => ⟨rfl, .inl⟩) (.inr fun _ hx => hx)) h0) h0
    have hn : ((writeVent b (passing [.vent b] (·.modKeg b fun k => { k with relief := false }) (returnChain b (leaveControl b t)))).keg b).chain = [] := by
      have h1 : ∀ u : State, ((returnChain b u).keg b).chain = [] := by
        intro u
        simp [returnChain, returnEntries]
      have h2 : ∀ u : State, ((writeVent b (passing [.vent b] (·.modKeg b fun k => { k with relief := false }) u)).keg b).chain = (u.keg b).chain := by
        intro u
        have := (writeVent_touches (l := [.image, .kegs]) (b := b) (passing_touches (os := [.vent b]) (f := (·.modKeg b fun k => { k with relief := false }))
          (modKeg_touches (Touches.refl _ u) (by simp) (.inr fun _ => rfl) (.inr fun _ => rfl) (.inr fun _ => ⟨rfl, rfl⟩) (.inr fun _ => ⟨rfl, .inl⟩)
            (.inr fun _ hx => hx)) (by simp)) (by simp)) .chains (by simp)
        have hb := congrArg (fun v => v[b]) this
        simpa using hb
      rw [h2, h1]
    refine modRte_touches (passing_touches (modKeg_at hv h3 (.inl h10) (.inl h4) (.inl h11) (.inr fun _ => ⟨?_, fun _ => .inr hn⟩)
      (.inr fun _ => ⟨Nat.le_refl _, (by decide : ∀ i : Fin 6, Keg.reset.buckets[i] ≤ 255)⟩)) h0) (.inr fun _ => rfl) (.inr fun _ => rfl) (.inl h9) (.inr fun _ => rfl)
    rw [hn]
    rfl

@[simp] theorem activePhase_not_vacant (p : ActivePhase) : (p.phase = .vacant) = False := by
  cases p <;> simp [ActivePhase.phase]

@[simp] theorem resumeKeg_touches {l : List Part} {s t : State} {b : Bay} (h : Touches l s t) (h0 : .image ∈ l) (h1 : .chl ∈ l) (h2 : .man ∈ l) (h3 : .kegs ∈ l) (h4 : .phases ∈ l) (h5 : .taps ∈ l) (h6 : .up ∈ l) (h7 : .atn ∈ l) (h8 : .free ∈ l) (h9 : .released ∈ l) :
    Touches l s (resumeKeg b t) := by
  have hp : ∀ k : Keg, (match k.prior with | some p => p.phase | none => k.phase) = .vacant → k.phase = .vacant ∨ k.chain = [] := by
    intro k e
    split at e
    · simp at e
    · exact .inl e
  exact enterControl_touches (changePhase_touches (f := fun k => { k with phase := (match k.prior with | some p => p.phase | none => k.phase), prior := none, haltReason := none })
    h h0 h3 (.inr fun _ => rfl) (.inl h4) (.inr fun _ => ⟨rfl, rfl⟩)
    (.inr fun k => ⟨rfl, hp k⟩) (.inr fun _ hx => hx) (.inr fun _ hx => hx)) h0 h1 h2 h3 h5 h8 h4 h6 h7 h9

@[simp] theorem limitKeg_touches {l : List Part} {s t : State} {b : Bay} {v w : Int} {m : SenseMode} (h : Touches l s t) (h0 : .image ∈ l) (h1 : .chl ∈ l) (h2 : .man ∈ l) (h3 : .kegs ∈ l) (h4 : .phases ∈ l) (h5 : .taps ∈ l) (h6 : .up ∈ l) (h7 : .atn ∈ l) (h8 : .free ∈ l) (h9 : .drawn ∈ l) :
    Touches l s (limitKeg b v m w t) := by
  unfold limitKeg
  try dsimp only
  repeat' split
  all_goals simp (maxDischargeDepth := 40) +contextual [KegOk, filter_bound, erase_bound, *]

theorem scheduleKeg_touches {l : List Part} {s t : State} {b : Bay} {a : List Step} (h : Touches l s t) (h0 : .image ∈ l) (h1 : .chl ∈ l) (h2 : .man ∈ l) (h3 : .kegs ∈ l) (h4 : .phases ∈ l) (h5 : .taps ∈ l) (h6 : .up ∈ l) (h7 : .atn ∈ l) (h8 : .free ∈ l) (h9 : .chains ∈ l) (h10 : .sch ∈ l) (h11 : .released ∈ l) (hv : (t.keg b).phase ≠ .vacant) :
    Touches l s (scheduleKeg b a t) := by
  have ha := allocate_touches (a := a) h h3 h9 h10 hv
  have hc := changePhase_touches (b := b) (f := fun k => { k with phase := .scheduled, buckets := .replicate 6 0, activity := 0 }) ha h0 h3
    (.inr fun _ => rfl) (.inl h4) (.inr fun _ => ⟨rfl, rfl⟩) (.inr fun _ => ⟨rfl, fun e => (by cases e)⟩)
    (.inr fun _ hx => ⟨hx.1, (by decide : ∀ i : Fin 6, (Vector.replicate 6 0)[i] ≤ 255)⟩)
  unfold scheduleKeg
  simp (maxDischargeDepth := 60) [*]

theorem appendSteps_touches {l : List Part} {s t : State} {b : Bay} {a : List Step} (h : Touches l s t) (h0 : .image ∈ l) (h1 : .chl ∈ l) (h2 : .man ∈ l) (h3 : .kegs ∈ l) (h4 : .phases ∈ l) (h5 : .taps ∈ l) (h6 : .up ∈ l) (h7 : .atn ∈ l) (h8 : .free ∈ l) (h9 : .chains ∈ l) (h10 : .sch ∈ l) (h11 : .released ∈ l) (hv : (t.keg b).phase ≠ .vacant) :
    Touches l s (appendSteps b a t) := by
  have ha := allocate_touches (a := a) h h3 h9 h10 hv
  unfold appendSteps
  dsimp only
  split
  · exact enterHead_touches ha h0 h1 h2 h3 h4 h5 h6 h7 h8 h9 h10 h11
  · exact ha

@[simp] theorem unlockGas_touches {l : List Part} {s t : State} (h : Touches l s t) (h0 : .image ∈ l) (h1 : .man ∈ l) (h2 : .kegs ∈ l) (h3 : .taps ∈ l) (h4 : .latches ∈ l) :
    Touches l s (unlockGas t) := by
  unfold unlockGas
  try dsimp only
  repeat' split
  all_goals simp (maxDischargeDepth := 40) +contextual [KegOk, filter_bound, erase_bound, *]

theorem ofFn_flagOk {g : Fin 12 → FlagRecord → FlagRecord} (hg : ∀ i r, FlagOk r → FlagOk (g i r)) (v : Vector FlagRecord 12)
    (h : ∀ i : Fin 12, FlagOk v[i]) (i : Fin 12) : FlagOk (Vector.ofFn fun i : Fin 12 => g i v[i])[i] := by
  have := hg i _ (h i)
  simpa using this

@[simp] theorem setMasks_touches {l : List Part} {s t : State} {a : List Bool} (h : Touches l s t) (h0 : .up ∈ l) (h1 : .atn ∈ l) (h2 : .masks ∈ l) :
    Touches l s (setMasks a t) := by
  have := modAtn_touches (f := fun v => Vector.ofFn fun i : Fin 12 => { v[i] with masked := a.getD i.val true }) h h1 (.inl h2)
    (.inr fun v i hp => by simpa using hp) (.inr (ofFn_flagOk (g := fun i r => { r with masked := a.getD i.val true }) fun i r hr => hr))
  unfold setMasks
  dsimp only
  split
  · exact handAttention_touches this h0
  · exact this

theorem acknowledge_touches {l : List Part} {s t : State} {a : List Nat} (h : Touches l s t) (h0 : .up ∈ l) (h1 : .atn ∈ l) (h2 : .flags ∈ l) :
    Touches l s (acknowledge a t) := by
  have hm : ∀ v : Vector FlagRecord 12, (Vector.ofFn fun i : Fin 12 => if flagCode i ∈ a then (v[i]).cleared else v[i]).map (·.masked) = v.map (·.masked) := by
    intro v
    ext j hj
    simp only [Vector.getElem_map, Vector.getElem_ofFn]
    split <;> rfl
  unfold acknowledge
  dsimp only
  have := modAtn_touches (f := fun v => Vector.ofFn fun i : Fin 12 => if flagCode i ∈ a then (v[i]).cleared else v[i]) h h1 (.inr hm) (.inl h2)
    (.inr (ofFn_flagOk (g := fun i r => if flagCode i ∈ a then r.cleared else r) fun i r hr => by split <;> simp [cleared_flagOk, hr]))
  split
  · exact handAttention_touches this h0
  · exact this

@[simp] theorem kegsRun_touches {l : List Part} {s t : State} (h : Touches l s t) (h0 : .image ∈ l) (h1 : .chl ∈ l) (h2 : .man ∈ l) (h3 : .kegs ∈ l) (h4 : .phases ∈ l) (h5 : .taps ∈ l) (h6 : .up ∈ l) (h7 : .atn ∈ l) (h8 : .free ∈ l) (h9 : .released ∈ l) :
    Touches l s (kegsRun t) := by
  unfold kegsRun
  try dsimp only
  repeat' split
  all_goals simp (maxDischargeDepth := 40) +contextual [KegOk, filter_bound, erase_bound, *]

@[simp] theorem tapsRun_touches {l : List Part} {s t : State} {c : Bool} (h : Touches l s t) (h0 : .image ∈ l) (h1 : .man ∈ l) (h2 : .kegs ∈ l) (h3 : .taps ∈ l) (h4 : .free ∈ l) :
    Touches l s (tapsRun c t) := by
  unfold tapsRun
  try dsimp only
  repeat' split
  all_goals simp (maxDischargeDepth := 40) +contextual [KegOk, filter_bound, erase_bound, *]

@[simp] theorem manifoldAndTapsRun_touches {l : List Part} {s t : State} (h : Touches l s t) (h0 : .image ∈ l) (h1 : .man ∈ l) (h2 : .kegs ∈ l) (h3 : .taps ∈ l) (h4 : .up ∈ l) (h5 : .atn ∈ l) (h6 : .free ∈ l) :
    Touches l s (manifoldAndTapsRun t) := by
  have hc := choose_touches (n := 2) h h6
  unfold manifoldAndTapsRun
  dsimp only
  split
  · simp (maxDischargeDepth := 60) [*]
  · simp (maxDischargeDepth := 60) [*]

@[simp] theorem setPart_touches {l : List Part} {s t : State} {p : PartState} (h : Touches l s t) (h0 : .image ∈ l) (h1 : .port ∈ l) :
    Touches l s (setPart p t) := by
  unfold setPart
  try dsimp only
  repeat' split
  all_goals simp (maxDischargeDepth := 40) +contextual [KegOk, filter_bound, erase_bound, *]

@[simp] theorem enterRunning_touches {l : List Part} {s t : State} (h : Touches l s t) (h0 : .image ∈ l) (h1 : .chl ∈ l) (h2 : .man ∈ l) (h3 : .kegs ∈ l) (h4 : .phases ∈ l) (h5 : .taps ∈ l) (h6 : .up ∈ l) (h7 : .atn ∈ l) (h8 : .free ∈ l) (h9 : .released ∈ l) (h10 : .port ∈ l) :
    Touches l s (enterRunning t) := by
  unfold enterRunning
  try dsimp only
  repeat' split
  all_goals simp (maxDischargeDepth := 40) +contextual [KegOk, filter_bound, erase_bound, *]

@[simp] theorem tapsHold_touches {l : List Part} {s t : State} (h : Touches l s t) (h0 : .image ∈ l) (h1 : .man ∈ l) (h2 : .kegs ∈ l) (h3 : .taps ∈ l) (h4 : .up ∈ l) (h5 : .atn ∈ l) (h6 : .free ∈ l) :
    Touches l s (tapsHold t) := by
  unfold tapsHold
  try dsimp only
  repeat' split
  all_goals simp (maxDischargeDepth := 40) +contextual [KegOk, filter_bound, erase_bound, *]

@[simp] theorem kegsHold_touches {l : List Part} {s t : State} (h : Touches l s t) (h0 : .image ∈ l) (h1 : .chl ∈ l) (h2 : .man ∈ l) (h3 : .kegs ∈ l) (h4 : .taps ∈ l) (h5 : .free ∈ l) :
    Touches l s (kegsHold t) := by
  unfold kegsHold
  try dsimp only
  repeat' split
  all_goals simp (maxDischargeDepth := 40) +contextual [KegOk, filter_bound, erase_bound, *]

@[simp] theorem enterHeld_touches {l : List Part} {s t : State} (h : Touches l s t) (h0 : .image ∈ l) (h1 : .chl ∈ l) (h2 : .man ∈ l) (h3 : .kegs ∈ l) (h4 : .taps ∈ l) (h5 : .up ∈ l) (h6 : .atn ∈ l) (h7 : .free ∈ l) (h8 : .port ∈ l) :
    Touches l s (enterHeld t) := by
  unfold enterHeld
  try dsimp only
  repeat' split
  all_goals simp (maxDischargeDepth := 40) +contextual [KegOk, filter_bound, erase_bound, *]

@[simp] theorem tapSoftReset_set (r : TapRecord) : r.softReset.set = r.set := id rfl

@[simp] theorem resetRecord_touches {l : List Part} {s t : State} {x : Tap} (h : Touches l s t) (h0 : .up ∈ l) (h1 : .atn ∈ l) :
    Touches l s (resetRecord x t) := by
  unfold resetRecord
  try dsimp only
  repeat' split
  all_goals simp (maxDischargeDepth := 40) +contextual [KegOk, filter_bound, erase_bound, *]

@[simp] theorem tapSoftReset_pour (r : TapRecord) : r.softReset.pour = none := id rfl

@[simp] theorem tapsSoftReset_touches {l : List Part} {s t : State} (h : Touches l s t) (h0 : .taps ∈ l) (h1 : .up ∈ l) (h2 : .atn ∈ l) (h3 : .free ∈ l) (h4 : .retry ∈ l) :
    Touches l s (tapsSoftReset t) := by
  unfold tapsSoftReset
  try dsimp only
  repeat' split
  all_goals simp (maxDischargeDepth := 40) +contextual [KegOk, filter_bound, erase_bound, *]

@[simp] theorem flagsSoftReset_touches {l : List Part} {s t : State} (h : Touches l s t) (h0 : .atn ∈ l) (h1 : .flags ∈ l) :
    Touches l s (flagsSoftReset t) := by
  refine modAtn_touches h h0 (.inr fun v => ?_) (.inl h1) (.inr fun v _ i => by simpa using cleared_flagOk _)
  ext j hj
  simp [FlagRecord.cleared]

@[simp] theorem portSoftReset_touches {l : List Part} {s t : State} (h : Touches l s t) (h0 : .port ∈ l) (h1 : .receiver ∈ l) :
    Touches l s (portSoftReset t) := by
  unfold portSoftReset
  try dsimp only
  repeat' split
  all_goals simp (maxDischargeDepth := 40) +contextual [KegOk, filter_bound, erase_bound, *]

theorem kegSoftReset_fields (k : Keg) : k.softReset.chain = k.chain ∧ k.softReset.loaded = k.loaded ∧ k.softReset.remaining = k.remaining
    ∧ k.softReset.buckets = k.buckets ∧ (k.softReset.phase = .vacant → k.phase = .vacant) ∧ k.softReset.underControl = false := by
  unfold Keg.softReset Keg.scheduleReset
  dsimp only
  split <;> simp

/-- The reset of all channels and kegs at once. -/
theorem recordsSoftReset_touches {l : List Part} {s t : State} (h : Touches l s t) (h0 : .chans ∈ l) (h1 : .kegs ∈ l) (h2 : .phases ∈ l) :
    Touches l s { t with ccu := t.ccu.map Channel.softReset, kegs := t.kegs.map Keg.softReset } := h.trans fun p hp => by
  have hk : ∀ d : Bay, ({ t with ccu := t.ccu.map Channel.softReset, kegs := t.kegs.map Keg.softReset } : State).keg d = (t.keg d).softReset := by
    intro d
    simp
  cases p
  case chansOk =>
    intro ho c
    have := softReset_ok (ho c)
    simpa using this
  case kegsOk =>
    intro ho d
    rw [hk]
    have := kegSoftReset_fields (t.keg d)
    exact ⟨by rw [this.2.1, this.2.2.1]; exact (ho d).1, by rw [this.2.2.2.1]; exact (ho d).2⟩
  case poolOk =>
    rintro ⟨p1, p2, p3, p4⟩
    have hc : ∀ d : Bay, (({ t with ccu := t.ccu.map Channel.softReset, kegs := t.kegs.map Keg.softReset } : State).keg d).chain = (t.keg d).chain := by
      intro d
      rw [hk]
      exact (kegSoftReset_fields _).1
    refine ⟨?_, p2, fun i d => by rw [hc]; exact p3 i d, fun d hd => ?_⟩
    · have hx : chainEntries ({ t with ccu := t.ccu.map Channel.softReset, kegs := t.kegs.map Keg.softReset } : State) = chainEntries t := by
        simp only [chainEntries, hc]
      rw [hx]
      exact p1
    · rw [hc]
      rw [hk] at hd
      exact p4 d ((kegSoftReset_fields _).2.2.2.2.1 hd)
  case released =>
    intro d hd
    rw [hk]
    exact (kegSoftReset_fields (t.keg d)).2.2.2.2.2
  case records =>
    show (t.ccu.map Channel.softReset).map (·.record) = t.ccu.map (·.record)
    ext j hj
    simp [Channel.softReset, Channel.restart]
  case chains =>
    show (t.kegs.map Keg.softReset).map (·.chain) = t.kegs.map (·.chain)
    simp [Function.comp_def, kegSoftReset_fields]
  case volumes =>
    show (t.kegs.map Keg.softReset).map (fun k => (k.loaded, k.remaining)) = t.kegs.map (fun k => (k.loaded, k.remaining))
    simp [Function.comp_def, kegSoftReset_fields]
  all_goals first | exact fun a => a | simp_all [Same]

@[simp] theorem softReset_touches {l : List Part} {s t : State} (h : Touches l s t) (h0 : .line ∈ l) (h1 : .image ∈ l) (h2 : .chans ∈ l) (h3 : .slots ∈ l) (h4 : .drawn ∈ l) (h5 : .counts ∈ l) (h6 : .kegs ∈ l) (h7 : .phases ∈ l) (h8 : .chl ∈ l) (h9 : .man ∈ l) (h10 : .taps ∈ l) (h11 : .port ∈ l) (h_recv : .receiver ∈ l) (h12 : .up ∈ l) (h13 : .atn ∈ l) (h14 : .free ∈ l) (h16 : .retry ∈ l) (h17 : .flags ∈ l) (h18 : .nodes ∈ l) :
    Touches l s (softReset t) := by
  have h1' := flagsSoftReset_touches (tapsSoftReset_touches h h10 h12 h13 h14 h16) h13 h17
  unfold softReset
  refine blcSoftReset_touches (portSoftReset_touches (recordsSoftReset_touches ?_ h2 h6 h7) h11 h_recv) h0 h1 h18
  simp (maxDischargeDepth := 60) [*]

/-! ## Frames of all requests -/

/-- Everything that a request other than SOFT_RESET can change before its RESPONSE; the RESPONSE frames and the receiver queue stand aside. -/
def requestParts : List Part :=
  [.image, .records, .chans, .routes, .slots, .drawn, .counts, .chains, .phases, .volumes, .kegs, .sch, .chlSettings, .chl, .manSettings, .man,
   .tapSettings, .taps, .port, .up, .masks, .atn, .free, .latches, .flags, .pourless, .released]

/-- R32. A record that has passed its checks has a window and a decimation of at least 1. -/
theorem checkRecord_bounds {f : ChannelFields} {r : ChannelRecord} (h : checkRecord f = some r) :
    1 ≤ r.window ∧ r.window ≤ 8 ∧ 1 ≤ r.decimation := by
  unfold checkRecord at h
  simp only [Option.bind_eq_bind, Option.bind_eq_some_iff] at h
  obtain ⟨e, he, n, hn, i, hi, k, hk, g, hg, h⟩ := h
  split at h
  · rename_i hc
    cases h
    simp only [Bool.and_eq_true, within, decide_eq_true_eq] at hc
    have hw := hc.1.2
    refine ⟨?_, ?_, ?_⟩
    · show 1 ≤ f.window
      unfold windowOk at hw
      split at hw <;> simp at hw <;> omega
    · show f.window ≤ 8
      unfold windowOk at hw
      split at hw <;> simp at hw <;> omega
    · show 1 ≤ f.decimation
      omega
  · cases h

/-- A request other than SOFT_RESET touches at most `requestParts` before its RESPONSE. -/
theorem handlerOf_touches (r : Request) (hr : ∀ p, r ≠ .softReset p) (s : State) : Touches requestParts s (handlerOf r s).2 := by
  have h := Touches.refl requestParts s
  cases r
  case softReset p => exact absurd rfl (hr p)
  case channelSet p =>
    refine withParams_touches h fun x => withNumber_touches h fun c _ => require_touches h fun _ => withNumber_touches h fun r hr =>
      require_touches h fun _ => ?_
    exact setRecord_touches h (by decide) (by decide) (by decide) (by decide) (by decide) (by decide) (by decide) (by decide) (by decide)
      (by decide) (by decide) (by decide) (by decide) (checkRecord_bounds hr)
  case routeLoad p =>
    refine withParams_touches h fun x => require_touches h fun _ => require_touches h fun _ => withNumber_touches h fun l _ => ?_
    split
    · exact h
    · simp [requestParts]
  case tapLoad p =>
    refine withParams_touches h fun x => require_touches h fun _ => withNumber_touches h fun x1 _ => withNumber_touches h fun x2 _ => ?_
    split
    · exact h
    · simp (maxDischargeDepth := 40) [requestParts]
  case gasSet p =>
    refine withParams_touches h fun x => require_touches h fun _ => require_touches h fun _ => ?_
    exact modMan_touches h (by decide) (.inl (by decide)) (.inr fun _ hx => hx)
  case chillSet p =>
    refine withParams_touches h fun x => require_touches h fun _ => require_touches h fun _ => withNumber_touches h fun q _ => ?_
    simp (maxDischargeDepth := 40) [requestParts]
  case channelSeed p =>
    refine withParams_touches h fun x => withNumber_touches h fun c _ => require_touches h fun ht => require_touches h fun _ => ?_
    exact seed_touches h (by decide) (by decide) (by decide) (by decide) (by decide) (by decide) (by decide) (by decide) (by decide)
      (by decide) (by decide) (by decide) (by decide) ht
  case channelSubst p =>
    refine withParams_touches h fun x => withNumber_touches h fun c _ => withNumber_touches h fun y _ => ?_
    simp (maxDischargeDepth := 40) [requestParts]
  case run p =>
    refine withParams_touches h fun x => require_touches h fun _ => ?_
    split
    · simp (maxDischargeDepth := 40) [requestParts]
    · exact h
  case hold p =>
    refine withParams_touches h fun x => require_touches h fun _ => ?_
    simp (maxDischargeDepth := 40) [requestParts]
  case kegLoad p =>
    refine withParams_touches h fun x => withNumber_touches h fun b _ => require_touches h fun hv => require_touches h fun _ =>
      withNumber_touches h fun m _ => ?_
    exact loadKeg_touches h (by decide) (by decide) (by decide) (by decide) (by decide) (by decide) (by decide) (by decide) (by decide)
      (by decide) (by decide) (by decide) (of_decide_eq_true hv)
  case kegSchedule p =>
    refine withParams_touches h fun x => withNumber_touches h fun b _ => require_touches h fun hv => withNumber_touches h fun l _ =>
      require_touches h fun _ => require_touches h fun _ => ?_
    exact scheduleKeg_touches h (by decide) (by decide) (by decide) (by decide) (by decide) (by decide) (by decide) (by decide) (by decide)
      (by decide) (by decide) (by decide) (by rw [of_decide_eq_true hv]; decide)
  case kegAppend p =>
    refine withParams_touches h fun x => withNumber_touches h fun b _ => require_touches h fun hv => withNumber_touches h fun l _ =>
      require_touches h fun _ => require_touches h fun _ => ?_
    exact appendSteps_touches h (by decide) (by decide) (by decide) (by decide) (by decide) (by decide) (by decide) (by decide) (by decide)
      (by decide) (by decide) (by decide) (by rw [of_decide_eq_true hv]; decide)
  case kegServe p =>
    refine withParams_touches h fun x => withNumber_touches h fun b _ => require_touches h fun _ => require_touches h fun _ =>
      require_touches h fun _ => ?_
    simp (maxDischargeDepth := 40) [requestParts]
  case kegAbort p =>
    refine withParams_touches h fun x => withNumber_touches h fun b _ => require_touches h fun _ => require_touches h fun _ => ?_
    simp (maxDischargeDepth := 40) [requestParts]
  case kegResume p =>
    refine withParams_touches h fun x => withNumber_touches h fun b _ => require_touches h fun _ => ?_
    split
    · exact h
    · simp (maxDischargeDepth := 40) [requestParts]
  case kegRemove p =>
    refine withParams_touches h fun x => withNumber_touches h fun b _ => require_touches h fun _ => ?_
    simp (maxDischargeDepth := 40) [requestParts]
  case kegVolume p =>
    refine withParams_touches h fun x => withNumber_touches h fun b _ => require_touches h fun _ => require_touches h fun _ =>
      require_touches h fun _ => ?_
    refine modKeg_touches h (by decide) (.inr fun _ => rfl) (.inr fun _ => rfl) (.inl (by decide)) (.inr fun _ => ⟨rfl, .inl⟩)
      (.inr fun _ hx => ⟨Nat.le_refl _, hx.2⟩)
  case kegLimits p =>
    refine withParams_touches h fun x => withNumber_touches h fun b _ => require_touches h fun _ => require_touches h fun _ =>
      withNumber_touches h fun m _ => require_touches h fun _ => ?_
    simp (maxDischargeDepth := 40) [requestParts]
  case tapBind p =>
    refine withParams_touches h fun x => withNumber_touches h fun t _ => withNumber_touches h fun y _ => require_touches h fun _ =>
      require_touches h fun _ => ?_
    simp (maxDischargeDepth := 40) [requestParts]
  case tapLock p =>
    refine withParams_touches h fun x => withNumber_touches h fun t _ => withNumber_touches h fun y _ => ?_
    simp (maxDischargeDepth := 40) [requestParts]
  case pour p =>
    refine withParams_touches h fun x => withNumber_touches h fun t _ => require_touches h fun _ => ?_
    have := requestPour_touches (a := .host) (v := x.volume.toNat) (x := t) h (by decide) (by decide) (by decide) (by decide) (by decide)
    split <;> simp_all
  case pourCancel p =>
    refine withParams_touches h fun x => withNumber_touches h fun t _ => ?_
    split
    · simp (maxDischargeDepth := 40) [requestParts]
    · exact h
  case gasCheck p =>
    refine withParams_touches h fun x => ?_
    have := raiseNeed_touches (v := true) (e := checkEntry s) h (by decide) (by decide) (by decide) (by decide)
    unfold gasCheckRequest
    repeat' split
    all_goals simp_all
  case gasUnlock p =>
    refine withParams_touches h fun x => ?_
    unfold gasUnlockRequest
    repeat' split
    all_goals simp (maxDischargeDepth := 40) [requestParts]
  case attnMask p =>
    refine withParams_touches h fun x => require_touches h fun _ => withNumber_touches h fun l _ => ?_
    simp (maxDischargeDepth := 40) [requestParts]
  case attnAck p =>
    refine withParams_touches h fun x => require_touches h fun _ => ?_
    exact acknowledge_touches h (by decide) (by decide) (by decide)
  case qStatus p => exact withParams_touches h fun _ => h
  case qKeg p => exact withParams_touches h fun _ => withNumber_touches h fun _ _ => h
  case qChannel p => exact withParams_touches h fun _ => withNumber_touches h fun _ _ => h
  case qQueues p => exact withParams_touches h fun _ => h
  case qTap p => exact withParams_touches h fun _ => withNumber_touches h fun _ _ => h
  case qIdent p => exact withParams_touches h fun _ => h
  case nodeWrite p =>
    refine withParams_touches h fun x => withNumber_touches h fun n _ => withNumber_touches h fun o _ => withNumber_touches h fun v _ =>
      require_touches h fun _ => ?_
    simp (maxDischargeDepth := 40) [requestParts]
  case nodeRead p => exact withParams_touches h fun _ => withNumber_touches h fun _ _ => h
  case unknown c => exact h

end Sys2Proof.Machine
end

