-- ==== Sys2Proof/Laws/Events.lean ====
section
/-! SUPPORT. The end of an event: what `finish` does to the line when the pump and the cues stand as they should, and the frames of `live` and `quiet`. -/

namespace Sys2Proof.Machine

open Sys2Proof.Safety

theorem live_of {occurs : Bool} {f : State → State} {s : State} (h : s.inReset = false) (h1 : occurs = true) : live occurs f s = finish (f s) := by
  simp [live, h, h1]

theorem live_not {occurs : Bool} {f : State → State} {s : State} (h : s.inReset = true ∨ occurs = false) : live occurs f s = s := by
  rcases h with h | h <;> simp [live, h]

theorem quiet_of {occurs : Bool} {f : State → State} {s : State} (h : s.inReset = false) (h1 : occurs = true) : quiet occurs f s = f s := by
  simp [quiet, h, h1]

theorem quiet_not {occurs : Bool} {f : State → State} {s : State} (h : s.inReset = true ∨ occurs = false) : quiet occurs f s = s := by
  rcases h with h | h <;> simp [quiet, h]

/-! ## The purge retry timers do not reach the line -/

@[simp] theorem retrySync_blc (x : Tap) (s : State) : (retrySync x s).blc = s.blc := rfl
@[simp] theorem retrySync_mgp (x : Tap) (s : State) : (retrySync x s).mgp = s.mgp := rfl
@[simp] theorem retrySync_man (x : Tap) (s : State) : (retrySync x s).man = s.man := rfl
@[simp] theorem retrySync_chl (x : Tap) (s : State) : (retrySync x s).chl = s.chl := rfl
@[simp] theorem retrySync_kegs (x : Tap) (s : State) : (retrySync x s).kegs = s.kegs := rfl
@[simp] theorem retrySync_inReset (x : Tap) (s : State) : (retrySync x s).inReset = s.inReset := rfl

theorem retrySync_tapRec (x y : Tap) (s : State) : untimed ((retrySync x s).tapRec y) = untimed (s.tapRec y) := by
  unfold retrySync State.modTap
  by_cases h : y = x
  · subst h; simp [untimed]
  · have := upd_other s.tap.taps (fun r => { r with purgeRetry := if retryRuns x s then some (r.purgeRetry.getD 0) else none }) h
    simpa using congrArg untimed this

theorem untimed_fields {a b : TapRecord} (h : untimed a = untimed b) :
    a.set = b.set ∧ a.state = b.state ∧ a.purgeStatus = b.purgeStatus ∧ a.pour = b.pour ∧ a.blink = b.blink := by
  have h' := h
  simp only [untimed, TapRecord.mk.injEq] at h'
  exact ⟨h'.1, h'.2.1, h'.2.2.1, h'.2.2.2.2.2.2.2.2.2.1, h'.2.2.2.2.2.2.2.2.2.2⟩

@[simp] theorem retrySync_set (x y : Tap) (s : State) : ((retrySync x s).tapRec y).set = (s.tapRec y).set := (untimed_fields (retrySync_tapRec x y s)).1
@[simp] theorem retrySync_state (x y : Tap) (s : State) : ((retrySync x s).tapRec y).state = (s.tapRec y).state :=
  (untimed_fields (retrySync_tapRec x y s)).2.1
@[simp] theorem retrySync_purgeStatus (x y : Tap) (s : State) : ((retrySync x s).tapRec y).purgeStatus = (s.tapRec y).purgeStatus :=
  (untimed_fields (retrySync_tapRec x y s)).2.2.1
@[simp] theorem retrySync_pour (x y : Tap) (s : State) : ((retrySync x s).tapRec y).pour = (s.tapRec y).pour :=
  (untimed_fields (retrySync_tapRec x y s)).2.2.2.1
@[simp] theorem retrySync_blink (x y : Tap) (s : State) : ((retrySync x s).tapRec y).blink = (s.tapRec y).blink :=
  (untimed_fields (retrySync_tapRec x y s)).2.2.2.2

@[simp] theorem retrySync_purgeActive (x y : Tap) (s : State) : purgeActive y (retrySync x s) = purgeActive y s := rfl

@[simp] theorem retrySync_owner (x : Tap) (o : Output) (s : State) : owner o (retrySync x s) = owner o s := by
  cases o
  case tapValve t =>
    unfold owner; dsimp only; rw [retrySync_purgeActive, retrySync_set]; rfl
  case cue t =>
    unfold owner; dsimp only; rw [retrySync_set]; rfl
  all_goals rfl

@[simp] theorem retrySync_derivedCue (x y : Tap) (s : State) : derivedCue y (retrySync x s) = derivedCue y s := by
  have h : pourable y (retrySync x s) = pourable y s := by
    unfold pourable servingChecks
    simp only [retrySync_set, retrySync_purgeStatus, retrySync_man, retrySync_kegs, State.keg, State.node, retrySync_blc]
    rfl
  unfold derivedCue
  simp only [retrySync_set, retrySync_blink, retrySync_state, h]

/-! ## The end of an event with the pump and the cues as they should be -/

theorem write_same {w : Owner} {o : Output} {v : Nat} {s : State} (h : owner o s = some w → s.out o = v) : write w o v s = s := by
  unfold write commandOut
  split
  · rw [if_pos (h ‹_›)]
  · rfl

theorem retrySync_shown {x : Tap} {s : State} (h : ShownOk s) : ShownOk (retrySync x s) := by
  refine ⟨fun ho => ?_, fun t ho => ?_⟩
  · rw [retrySync_owner] at ho; exact h.1 ho
  · rw [retrySync_owner] at ho; rw [retrySync_derivedCue]; exact h.2 t ho

theorem finish_of_shown {s : State} (h : ShownOk s) : finish s = kick (retrySync 1 (retrySync 0 s)) := by
  have h' := retrySync_shown (x := 1) (retrySync_shown (x := 0) h)
  unfold finish
  have hp : pumpWrite (retrySync 1 (retrySync 0 s)) = retrySync 1 (retrySync 0 s) := write_same h'.1
  rw [hp]
  have h0 : cueWrite 0 (retrySync 1 (retrySync 0 s)) = retrySync 1 (retrySync 0 s) := write_same (h'.2 0)
  have h1 : cueWrite 1 (retrySync 1 (retrySync 0 s)) = retrySync 1 (retrySync 0 s) := write_same (h'.2 1)
  rw [h0, h1]

theorem finish_busy {s : State} (h : ShownOk s) (hb : lineIdle s = false) : finish s = retrySync 1 (retrySync 0 s) := by
  have hb' : lineIdle (retrySync 1 (retrySync 0 s)) = false := hb
  rw [finish_of_shown h]
  unfold kick
  simp [hb']

end Sys2Proof.Machine
end

