-- ==== Sys2Proof/Tests/Slice0.lean ====
section
/-! SUPPORT. The model's own tests: ill-formed commands, single steps on small states, and for every statement for the provers
a concrete state and operands that meet its hypotheses.

`decide +kernel` lets the kernel evaluate; no free value is consulted, since the states here carry choices on their tape. -/

open Sys2Proof Sys2Proof.Machine Sys2Proof.Safety Sys2Proof.Claims

namespace Sys2Proof.Tests

set_option Elab.async false

/-! ## Ill-formed commands -/

theorem test_wf_reply_empty : Instr.wf (.readyReply []) = false := by decide
theorem test_wf_busyReply_empty : Instr.wf (.busyReply []) = false := by decide
theorem test_wf_badReply_empty : Instr.wf (.badReply []) = false := by decide
theorem test_wf_frame_empty : Instr.wf (.applianceFrameReceived [] (.qIdent (.params ()))) = false := by decide
theorem test_wf_frame_long : Instr.wf (.applianceFrameReceived (List.replicate 127 0) (.qIdent (.params ()))) = false := by decide +kernel
theorem test_wf_frame_request : Instr.wf (.applianceFrameReceived [0xC3] (.routeLoad (.params []))) = false := by decide
theorem test_wf_badFrame_long : Instr.wf (.badFrame (List.replicate 127 0) false) = false := by decide +kernel
theorem test_wf_routes_short : Instr.wf (.routeLoad 0 (.params [])) = false := by decide
theorem test_wf_masks_short : Instr.wf (.attnMask 0 (.params [some true])) = false := by decide
theorem test_wf_unknown_named : Instr.wf (.unknownRequest 0 (some 35)) = false := by decide
theorem test_wf_unknown_ok : Instr.wf (.unknownRequest 0 (some 36)) = true := by decide

/-! ## Small states -/

/-- HELD, no reset, an EXCHANGE frame to node 1 on the line, and choices on the tape. -/
def base : State :=
  { State.reset with
    inReset := false
    free := { tape := List.replicate 40 0, count := 0 }
    blc := { Blc.reset with
      exchange := some { node := 0, imageSent := [0, 0, 0, 0], busyCount := 0, phase := .sending }, roundOpen := true, roundTimer := true } }

/-- The state with a changed port. -/
def port (f : Mgp → Mgp) (s : State) : State := { s with mgp := f s.mgp }

/-- `base` in RUNNING. -/
def running : State := port (fun m => { m with part := .running }) base

/-- The request with tag 7 is the oldest frame held. -/
def asked (r : Request) (s : State) : State := port (fun m => { m with receiver := [{ tag := 7, request := r }] }) s

/-- A changed link. -/
def link (f : Blc → Blc) (s : State) : State := { s with blc := f s.blc }

/-- The exchange with node `n` in phase `ph`. -/
def exchanging (n : Node) (ph : ExchangePhase) (busy : Nat) (s : State) : State :=
  link (fun x => { x with exchange := some { node := n, imageSent := imageOf n s, busyCount := busy, phase := ph } }) s

/-- Node `n` has another record. -/
def withNode (n : Node) (st : NodeState) (failures : Nat) (s : State) : State :=
  link (fun x => { x with nodes := upd x.nodes n fun r => { r with state := st, failures := failures } }) s

/-- A keg record in phase `ph` with both inputs. -/
def kegIn (ph : Phase) : Keg :=
  { Keg.reset with
    phase := ph, loaded := 1000, remaining := 1000, setpoint := some 400, servePressure := some 900, serveTemp := some 400
    sensedTemp := some { value := 450, substituted := false }, sensedPressure := some 1000 }

/-- A keg record in phase `ph`, under control, with its timers counted. -/
def kegRuns (ph : Phase) : Keg := { kegIn ph with underControl := true, counted := true }

/-- Bay 1 holds the keg record `k`. -/
def withKeg (k : Keg) (s : State) : State := { s with kegs := upd s.kegs 0 fun _ => k }

/-- Bay 1's keg runs the schedule `steps` with the record `k`. -/
def scheduled (steps : List Step) (k : Keg) (s : State) : State := allocate 0 steps (withKeg k s)

/-- An enabled channel of kind TEMP on node 2, with a window of `w` readings of 450. -/
def channelIn (st : ChannelState) (w : Nat) : Channel :=
  { Channel.reset with
    record := { Channel.reset.record with enabled := true, node := 1 }, state := st
    window := List.replicate w { value := 450, clamped := false } }

/-- Channel 0 holds `ch` and is routed to `d`. -/
def routed (ch : Channel) (d : Option Dest) (s : State) : State :=
  { s with ccu := upd s.ccu 0 fun _ => ch, rte := { s.rte with routes := upd s.rte.routes 0 fun r => { r with dest := d } } }

/-- Channel 1, enabled, of kind PRESS, is routed to bay 1's pressure. -/
def pressRoutedToo (s : State) : State :=
  { s with
    ccu := upd s.ccu 1 fun ch => { ch with record := { ch.record with enabled := true, kind := .press }, state := .priming }
    rte := { s.rte with routes := upd s.rte.routes 1 fun r => { r with dest := some (.kegPress 0) } } }

/-- The slot of `d` holds `v`. -/
def withSlot (d : Dest) (v : Int) (s : State) : State :=
  { s with rte := { s.rte with slots := upd s.rte.slots (destIdx d) fun _ => some { value := v, marks := .none, channel := 0 } } }

/-- The chiller's record is changed. -/
def chiller (f : Chl → Chl) (s : State) : State := { s with chl := f s.chl }

/-- The manifold's record is changed. -/
def gas (f : Man → Man) (s : State) : State := { s with man := f s.man }

/-- The operation `op` is in progress. -/
def serving (op : Operation) (s : State) : State := gas (fun m => { m with state := .busy, op := some op }) s

/-- The manifold in state `st`. -/
def manifoldIn (st : ManifoldState) (s : State) : State := gas (fun m => { m with state := st }) s

/-- An operation record. -/
def operation (n : GasNeed) (p : Int) (sub : SubPhase) (settle : Nat) (work : Option Nat) : Operation :=
  { need := n, pressure := p, sub := sub, settle := settle, work := work, pours := [], p0 := none }

/-- Tap 1's record is changed. -/
def tap1 (f : TapRecord → TapRecord) (s : State) : State := { s with tap := { s.tap with taps := upd s.tap.taps 0 f } }

/-- A pour of tap 1 from bay 1. -/
def aPour (pouring : Bool) : Pour :=
  { number := 4, bay := 0, source := .host, target := 200, metered := 0, pouring := pouring, granted := pouring, wait := 0, stall := 0,
    baseline := 0, carry := 0 }

/-- Tap 1, bound to bay 1, has the pour `p`. -/
def pours (p : Pour) (s : State) : State :=
  tap1 (fun r => { r with pour := some p, state := if p.pouring then .pouring else .pending, set := { r.set with binding := some 0 } }) s

/-- The command gives a next state of which `p` holds. -/
def on (i : Instr) (s : State) (p : State → Bool) : Bool :=
  match exec i s with
  | .next t => p t
  | _ => false

/-- The RESPONSE with which the request is answered. -/
def answer (r : Request) (s : State) : Option Response :=
  match exec (frameCommand { tag := 7, request := r }) (asked r s) with
  | .next t => match t.mgp.up.getLast? with
    | some (.response x) => some x
    | _ => none
  | _ => none

/-- The status of that RESPONSE. -/
def status (r : Request) (s : State) : Option Status := (answer r s).map (·.status)

/-! ## Single steps -/

/-- R18: the reset's end begins the first round with node 1. -/
theorem test_resetEnd : on .hardwareResetEnd State.reset (fun t => decide (t.blc.txFrame = [0x101, 0x000, 0x0FF]) && !t.inReset) = true := by decide +kernel

/-- R177: the CRC's check value over the nine digits. -/
theorem test_crc : crc16 [0x31, 0x32, 0x33, 0x34, 0x35, 0x36, 0x37, 0x38, 0x39] = 0x29B1 := by decide +kernel

/-- Table 10-4: node 8's image with the regulator at 1500 mbar and the supply open. -/
theorem test_exchange_node8 : exchangeChars 7 [1500, 1, 0, 0] = [0x108, 0x005, 0x0DC, 0x001, 0x016] := by decide +kernel

/-- Table 10-4: a READY reply of node 1 with input 0 at 1802. -/
theorem test_ready_node1 : judgeReply 0 [0x001, 0x001, 0x007, 0x00A, 0, 0, 0, 0, 0, 0, 0x0ED] =
    .ready { inputs := #v[0x70A, 0, 0, 0], panel := none } := by decide +kernel

/-- Table 10-3: the frame of Q_IDENT (code 33) with tag 7, its CRC taken over length, kind, tag and payload. -/
theorem test_frame_qIdent : judgeFrame (requestBytes 7 [33]) = .good 7 (some 33) := by decide +kernel

theorem test_qIdent : answer (.qIdent (.params ())) base =
    some { tag := 7, code := some 33, status := .ok, part := .held, result := .ident 0x41 820 1 } := by decide +kernel

theorem test_run_closed : answer (.run (.params ())) (port (fun m => { m with routeHalf := true }) base) =
    some { tag := 7, code := some 8, status := .gateClosed, part := .held, result := .gate true false } := by decide +kernel

theorem test_run : answer (.run (.params ())) (port (fun m => { m with routeHalf := true, tapHalf := true }) base) =
    some { tag := 7, code := some 8, status := .ok, part := .running, result := .nothing } := by decide +kernel

/-- R171 item 1: a code that names no request. -/
theorem test_unknown : answer (.unknown (some 36)) base =
    some { tag := 7, code := some 36, status := .unknownRequest, part := .held, result := .nothing } := by decide +kernel

/-- R49: rounding toward zero, the manual's own example. -/
theorem test_mean_negative : (controlTemp 0 (withSlot (.kegCore 0) (-101) (withSlot (.kegWall 0) (-102)
    (withKeg { kegIn .standby with mode := .mean } base)))).map (·.value) = some (-101) := by decide +kernel

/-- Channels 1 and 2 read the tap panel and stand LIVE, routed to `d1` and `d2` with divider 1; the tape draws the order in which
other work falls between the two. -/
def panelRead (d1 d2 : Option Dest) (s : State) : State :=
  let ch := { channelIn .live 1 with record := { (channelIn .live 1).record with node := panelNode } }
  { s with
    ccu := upd (upd s.ccu 0 fun _ => ch) 1 fun _ => ch
    rte := { s.rte with routes := upd (upd s.rte.routes 0 fun _ => { dest := d1, divider := 1 }) 1 fun _ => { dest := d2, divider := 1 } }
    free := { tape := 0 :: 1 :: List.replicate 40 0, count := 0 } }

/-- R15, R21: the publications and the panel data have no order, so a press may be taken between two REPORT frames. -/
theorem test_panel_between_publications :
    let r : Reply := { inputs := .replicate 4 0, panel := some (.replicate 2 { flow := 0, presses := 1, choice := .stop }) }
    let s := panelRead none none (tap1 (fun x => { x with lastFlow := some 0, lastPresses := some 0 }) (pours (aPour false) running))
    (handOver panelNode r false s).mgp.up.map (fun f => match f with
      | .report x => some x.channel.val
      | .pourRecord _ => none
      | _ => some 99) = [some 0, none, some 1] := by decide +kernel

/-- R14, R29: the notice of the panel's loss may fall between the emptyings of two slots: tap 1's pour ends HALTED with its keg before the notice,
and tap 2's ends SENSOR by the notice before its keg is halted. -/
theorem test_loss_between_emptyings :
    let s := withSlot (.kegCore 0) 450 (withSlot (.kegCore 1) 450 (panelRead (some (.kegCore 0)) (some (.kegCore 1)) (pours (aPour false) running)))
    let s := { s with
      rte := { s.rte with lastControl := .replicate 6 (some { value := 450, substituted := false }) }
      kegs := upd (upd s.kegs 0 fun _ => kegRuns .serving) 1 fun _ => kegRuns .serving
      tap := { s.tap with taps := upd s.tap.taps 1 fun _ => { s.tapRec 0 with pour := some { aPour false with bay := 1 } } } }
    (deliverLost panelNode s).mgp.up.filterMap (fun f => match f with
      | .pourRecord x => some (x.tap, x.reason)
      | _ => none) = [(0, .halted), (1, .sensor)] := by decide +kernel

/-- R90: a ramp at 20 hundredths moves by 20 and goes on. -/
theorem test_ramp : on (.rampTimerExpiry 0) (scheduled [.ramp 1000 20 none] { kegRuns .scheduled with ramp := some 360 } running)
    (fun t => decide ((t.keg 0).setpoint = some 420 ∧ (t.keg 0).ramp = some 0)) = true := by decide +kernel

/-- R88, R95: the only step of a schedule completes. -/
theorem test_hold_ends : on (.stepDurationExpiry 0) (scheduled [.hold 400 1 none] { kegRuns .scheduled with elapsed := 60 } running)
    (fun t => decide ((t.keg 0).chain = [] ∧ t.sch.freeList.getLast? = some 0 ∧ t.atn[Flag.scheduleDone.idx].pending = true)) = true := by
  decide +kernel

/-- R113: the guard takes the newest keg first. -/
theorem test_guard : (guardEval 301 (chiller (fun c => { c with
      holders := [{ who := .keg 0, turn := none }, { who := .line 0, turn := none }, { who := .keg 1, turn := none }] }) running)).chl.queue =
    [.keg 0, .keg 1] := by decide +kernel

/-- R153: 3 pulses at 4000 pulses per litre make no whole ml and carry 3000; 5 more make 2 ml. -/
theorem test_metering : meteredVolume 0 3 4000 = (0, 3000) ∧ meteredVolume 3000 5 4000 = (2, 0) := by decide

/-- R154, R67: a stalled pour empties its keg, which becomes SPENT. -/
theorem test_stall : on (.stallTimerExpiry 0) (pours { aPour true with stall := 5 } (withKeg { kegRuns .serving with pours := 1 } running))
    (fun t => decide ((t.keg 0).phase = .spent ∧ (t.keg 0).remaining = 0 ∧ (t.tapRec 0).pour = none)) = true := by decide +kernel

/-- R137: a fall of more than the leak limit leads to LOCKOUT. -/
theorem test_leak : on .checkWindowClose (withSlot .manifold 1300 (withSlot .cylinder 9000
      (serving { operation .check 1500 .active 0 (some 60) with p0 := some 1450 } running)))
    (fun t => decide (t.man.state = .lockout ∧ t.man.leak = true)) = true := by decide +kernel

/-! ## Concrete states for the hypotheses of the statements -/

/-- No RESPONSE waits. -/
abbrev Quiet (s : State) : Prop := ∀ f ∈ s.mgp.up, f.isResponse = false

/-- The request is taken in `base` and in `running`, whatever it is. -/
theorem meets_Taken (r : Request) : Taken 7 r (asked r base) ∧ Taken 7 r (asked r running) :=
  ⟨⟨rfl, rfl, by simp [asked, port, base, State.reset, Mgp.reset]⟩, ⟨rfl, rfl, by simp [asked, port, running, base, State.reset, Mgp.reset]⟩⟩

/-- A RESPONSE waits. -/
def answered : State :=
  port (fun m => { m with up := [.response { tag := 0, code := some 28, status := .ok, part := .held, result := .nothing }] }) base

theorem meets_TheTimebaseRunsOnAnEmptyQueue :
    (State.reset.pending = [] ∧ State.reset.inReset = true) ∧
    ((asked (.qIdent (.params ())) base).pending = [] ∧ Awake (asked (.qIdent (.params ())) base) ∧
      (asked (.qIdent (.params ())) base).mgp.receiver = { tag := 7, request := .qIdent (.params ()) } :: [] ∧ Quiet (asked (.qIdent (.params ())) base)) ∧
    (base.pending = [] ∧ Awake base ∧ base.mgp.receiver = []) ∧
    (Awake answered ∧ ∃ u ∈ answered.mgp.up, u.isResponse = true) ∧
    ((base.keg 0).underControl = false ∧ base.mgp.part = .held) ∧
    (((scheduled [.hold 400 1 none] (kegRuns .scheduled) running).keg 0).underControl = true ∧
      ((scheduled [.hold 400 1 none] (kegRuns .scheduled) running).keg 0).phase = .scheduled ∧
      ((scheduled [.hold 400 1 none] (kegRuns .scheduled) running).keg 0).chain ≠ []) := by decide +kernel

/-- One second on timers that run, on ones at their limits, and on ones that do not. -/
theorem meets_TheTimebaseRunsOnAnEmptyQueue_timers :
    (let s := serving (operation .check 1500 .settling 29 none) (pours { aPour false with wait := 60 } running)
     IntervalRuns s ∧ PurgeTimerRuns 0 s ∧ (countSecond s).man.op.map (·.settle) = some 30 ∧ (countSecond s).man.intervalTimer = 1 ∧
       ((countSecond s).tapRec 0).purgeSeconds = 1 ∧ ((countSecond s).tapRec 0).pour.map (·.wait) = some 60) ∧
    (let s := serving (operation .check 1500 .active 0 (some 59)) (pours { aPour true with stall := 4 } base)
     ¬ IntervalRuns s ∧ ¬ PurgeTimerRuns 0 s ∧ (countSecond s).man.op.map (·.work) = some (some 60) ∧
       ((countSecond s).tapRec 0).pour.map (·.stall) = some 5) := by
  simp only [IntervalRuns, PurgeTimerRuns]
  decide +kernel

theorem meets_HardwareResetOfTheRest : State.reset.inReset = true ∧ Instr.pulseEnd ≠ .hardwareReset ∧ Instr.pulseEnd ≠ .hardwareResetEnd := by
  decide +kernel

/-- The line is idle, and the round timer runs. -/
def resting : State := link (fun x => { x with exchange := none, roundOpen := false }) base

theorem meets_RoundsAndTheNextExchange :
    (let s := link (fun x => { x with discard := .running }) resting
     Awake s ∧ ShownOk s ∧ s.blc.discard = .running ∧ s.blc.exchange = none) ∧
    (Awake base ∧ ShownOk base ∧ base.blc.roundTimer = true ∧ base.blc.roundOpen = true ∧ base.blc.exchange ≠ none) ∧
    (let s := link (fun x => { x with exchange := none, discard := .running }) base
     Awake s ∧ ShownOk s ∧ s.blc.roundTimer = true ∧ s.blc.roundOpen = true ∧ s.blc.discard ≠ .none) ∧
    (let s := link (fun x => { x with roundOpen := false }) base
     Awake s ∧ ShownOk s ∧ s.blc.roundTimer = true ∧ s.blc.roundOpen = false ∧ s.blc.exchange ≠ none) ∧
    (Awake resting ∧ ShownOk resting ∧ resting.blc.roundTimer = true ∧ resting.blc.roundOpen = false ∧ resting.blc.exchange = none ∧
      resting.blc.discard = .none) := by
  simp only [ShownOk]
  decide +kernel

theorem meets_AttemptsSendTheImageSent :
    (Awake base ∧ base.blc.exchange = some { node := 0, imageSent := [0, 0, 0, 0], busyCount := 0, phase := .sending } ∧ base.blc.discard = .none) ∧
    (let s := link (fun x => { x with discard := .finishing }) resting
     Awake s ∧ s.blc.exchange = none ∧ s.blc.discard = .finishing) ∧
    (let s := exchanging 0 .retryWait 1 base
     Awake s ∧ s.blc.exchange = some { node := 0, imageSent := [0, 0, 0, 0], busyCount := 1, phase := .retryWait }) ∧
    (let s := exchanging 0 .awaiting 2 base
     Awake s ∧ ShownOk s ∧ s.blc.exchange = some { node := 0, imageSent := [0, 0, 0, 0], busyCount := 2, phase := .awaiting } ∧
       judgeReply 0 (busyChars 0) = .busy) := by
  simp only [ShownOk]
  decide +kernel

/-- A reply of all zeros. -/
def zeros : Reply := { inputs := .replicate 4 0, panel := none }

theorem meets_AReadyReplySucceeds :
    (let s := exchanging 0 .awaiting 0 base
     Awake s ∧ s.blc.exchange = some { node := 0, imageSent := [0, 0, 0, 0], busyCount := 0, phase := .awaiting } ∧
       judgeReply 0 (readyChars 0 zeros) = .ready zeros) ∧
    (let s := withNode 1 .online 0 (exchanging 1 .awaiting 0 base)
     Awake s ∧ s.blc.exchange = some { node := 1, imageSent := [0, 0, 0, 0], busyCount := 0, phase := .awaiting } ∧
       judgeReply 1 (readyChars 1 zeros) = .ready zeros ∧ (s.node 1).state = .online ∧ (1 : Node) ≠ panelNode ∧
       (∀ c : Chan, (s.chan c).record.node ≠ 1) ∧ ShownOk s ∧ s.blc.discard = .none) := by
  simp only [ShownOk]
  decide +kernel

/-- An ONLINE panel that hands over its data beside its readings. -/
theorem meets_AReadyReplySucceeds_panel :
    let r : Reply := { zeros with panel := some #v[{ flow := 3, presses := 1, choice := .stop }, { flow := 4, presses := 1, choice := .stop }] }
    let s := withNode 8 .online 0 (exchanging 8 .awaiting 0 base)
    Awake s ∧ s.blc.exchange.map (·.node) = some panelNode ∧ judgeReply 8 (readyChars 8 r) = .ready r ∧ (s.node panelNode).state = .online := by
  decide +kernel

theorem meets_OutputsFollowTheirOwners :
    owner (.heater 0) base ≠ some .keg ∧ base.out .pump = 0 ∧ owner .pump running = some .chl ∧ running.out .pump ≠ 1 := by decide +kernel

theorem meets_NodeWriteWritesWhatNoBlockOwns :
    (∀ (o : Output) (v : Nat), ({ node := 1, output := .pump, value := 0 } : NodeWriteParams) ≠ { node := nodeNum (outNode o), output := nameOf o, value := v } ∨
      largestValue o < v) ∧
    (((1 : Nat) : Int) ≤ largestValue .pump ∧ owner .pump running ≠ none) ∧
    (((4000 : Nat) : Int) ≤ largestValue .regulator ∧ owner .regulator base = none ∧ ShownOk base ∧ base.blc.exchange ≠ none ∧ base.out .regulator ≠ 4000) ∧
    (owner (.cue 0) base = none ∧ base.out (.cue 0) = 0 ∧ ((3 : Nat) : Int) ≤ largestValue (.cue 0)) := by
  refine ⟨?_, by decide +kernel, ?_, by decide +kernel⟩
  · intro o v
    refine .inl fun h => ?_
    cases o <;> simp [nameOf, outNode, nodeNum, chillerNode] at h
  · simp only [ShownOk]
    decide +kernel

theorem meets_NodeWriteWritesWhatNoBlockOwns_above :
    ∀ (o : Output) (v : Nat), ({ node := 8, output := .regulator, value := 4001 } : NodeWriteParams) ≠
      { node := nodeNum (outNode o), output := nameOf o, value := v } ∨ largestValue o < v := by
  intro o v
  cases o <;> simp [nameOf, largestValue]
  omega

/-- Bay 6, channel 23, tap 2 and node 9 are in their numberings. -/
theorem meets_QueriesAnswerAndChangeNothing :
    nodeNum (8 : Node) = 9 ∧ (23 : Chan).val = 23 ∧ bayNum (5 : Bay) = 6 ∧ tapNum (1 : Tap) = 2 ∧
    Taken 7 (.nodeRead (.params { node := 9 })) (asked (.nodeRead (.params { node := 9 })) base) ∧
    Taken 7 (.qStatus (.params ())) (asked (.qStatus (.params ())) running) :=
  ⟨rfl, rfl, rfl, rfl, (meets_Taken _).1, (meets_Taken _).2⟩

theorem meets_LinkFramesAreReadBack_bay :
    (ImageLegal 0 [1, 0, 1, 0] ∧ ImageLegal 7 [4000, 1, 0, 1] ∧ ImageLegal 8 [0, 1, 3, 3]) ∧
    (zeros.panel.isSome = decide ((0 : Node) = panelNode) ∧ 10 < (readyChars 0 zeros).length ∧
      dataOf 1 ≠ dataOf (readyChars 0 zeros).getLast! ∧ dataOf 2 ≠ BitVec.ofNat 8 (nodeNum 0)) := by
  refine ⟨⟨⟨rfl, ?_⟩, ⟨rfl, ?_⟩, ⟨rfl, ?_⟩⟩, by decide +kernel⟩ <;>
  · intro i o ho v hv
    match i with
    | 0 | 1 | 2 | 3 =>
      simp [outputsOf, bayOfNode, chillerNode, manifoldNode, allTaps] at ho hv
      subst ho hv
      decide
    | i + 4 => simp at hv

/-- Every output at its largest value. -/
def allOpen : State :=
  link (fun x => { x with outs := upd (upd (upd (.replicate 35 1) (outIdx .regulator) fun _ => 4000) (outIdx (.cue 0)) fun _ => 3) (outIdx (.cue 1)) fun _ => 3 }) base

theorem meets_LinkFramesAreReadBack_outputs : OutputsLegal allOpen := by
  intro o
  cases o with
  | heater b | cool b | gasIn b | vent b => revert b; decide +kernel
  | lineValve t | purge t | tapValve t | cue t => revert t; decide +kernel
  | pump | regulator | supply => decide +kernel

/-- R9: characters behind a complete reply do not touch its judgement. -/
theorem test_reply_extra : judgeReply 0 (readyChars 0 zeros ++ [0x005]) = .ready zeros ∧ judgeReply 0 (busyChars 0 ++ [0x1FF, 0]) = .busy ∧
    judgeReply 0 [0x001, 0x002, 0x0FE, 0x000] = .bad := by decide +kernel

theorem meets_LinkFramesAreReadBack_requests :
    ((List.replicate 120 (33 : Byte)).length ≤ 120 ∧ ([] : List Byte).length ≤ 120) ∧
    ((0 : BitVec 16) ≠ crc16 (((requestBytes 7 [33]).drop 1).take 4)) ∧
    ((0x02 : Byte) ≠ 0x01 ∧ (List.replicate 123 (0 : Byte)).length = (120 : Byte).toNat + 3 ∧ (120 : Byte).toNat ≤ 120) ∧
    120 < (121 : Byte).toNat := by decide +kernel

/-- The receiver queue holds `n` frames of Q_IDENT. -/
def waiting (n : Nat) : State := port (fun m => { m with receiver := List.replicate n { tag := 1, request := .qIdent (.params ()) } }) base

theorem meets_WhatArrivesOnTheLinks :
    (∀ x, base.blc.exchange = some x → x.phase ≠ .awaiting) ∧
    (Awake (waiting 3) ∧ judgeFrame ((waiting 3).mgp.partialFrame ++ requestBytes 7 [33]) = .good 7 (requestCode (.qIdent (.params ()))) ∧
      (waiting 3).mgp.receiver.length < 4) ∧
    (Awake (waiting 4) ∧ judgeFrame ((waiting 4).mgp.partialFrame ++ requestBytes 7 [33]) = .good 7 (requestCode (.qIdent (.params ()))) ∧
      4 ≤ (waiting 4).mgp.receiver.length) ∧
    (Awake base ∧ judgeFrame (base.mgp.partialFrame ++ [0xC3]) = .unfinished) ∧
    (Awake base ∧ judgeFrame (base.mgp.partialFrame ++ [0xC3, 121]) = .bad) ∧
    (let s := port (fun m => { m with partialFrame := [0xC3] }) base
     Awake s ∧ s.mgp.partialFrame ≠ []) ∧
    (([0xC3, 121] : List Byte).length = 2 ∧ base.mgp.partialFrame = [] ∧ 120 < (121 : Byte).toNat ∧ (0xC3 : Byte) ∉ ([1, 2] : List Byte) ∧
      judgeFrame [0xC3, 5] = .unfinished) ∧
    (let f : List Byte := 0xC3 :: 120 :: List.replicate 124 0
     judgeFrame (base.mgp.partialFrame ++ f) = .bad ∧ (f.getD 1 0).toNat ≤ 120 ∧ f.length = (f.getD 1 0).toNat + 6) ∧
    on (.badFrame (0xC3 :: 121 :: List.replicate 124 0 ++ [0xC3]) false) base (fun t => decide (t.mgp.partialFrame = [0xC3])) = true ∧
    (judgeFrame ([] ++ [0xC3, 1]) = .unfinished ∧ ∃ tag code, judgeFrame (requestBytes 7 [33]) = .good tag code) := by
  refine ⟨fun x h => ?_, by decide +kernel, by decide +kernel, by decide +kernel, by decide +kernel, by decide +kernel, by decide +kernel, by decide +kernel,
    by decide +kernel, by decide +kernel, _, _, test_frame_qIdent⟩
  have : x = { node := 0, imageSent := [0, 0, 0, 0], busyCount := 0, phase := .sending } := (Option.some.inj h).symm
  subst this
  decide

theorem meets_TheUpwardQueueIsFirstInFirstOut :
    Awake answered ∧
      answered.mgp.up = .response { tag := 0, code := some 28, status := .ok, part := .held, result := .nothing } :: [] := by decide +kernel

/-- R171: Q_IDENT of payload length 1 is well formed and of length 2 is not; no request of code 36 is known. -/
theorem meets_WhatArrivesOnTheLinks_fits :
    PayloadFits 1 (.qIdent (.params ())) ∧ PayloadFits 2 (.qIdent .wrongLength) ∧ ¬ PayloadFits 2 (.qIdent (.params ())) ∧ PayloadFits 1 (.unknown (some 36)) ∧
    ((requestBytes 7 [33]).getD 1 0).toNat = 1 := by
  refine ⟨by simp [PayloadFits], by simp [PayloadFits], by simp [PayloadFits], ?_, by decide +kernel⟩
  intro c h
  cases h
  decide

/-- LEAK is pending and masked, KEG_SPENT pending and unmasked. -/
def flagged : State :=
  { base with atn := upd (upd base.atn 0 fun r => { r with pending := true }) 7 fun r => { r with pending := true, masked := false, index := [1] } }

theorem meets_MasksAndAcknowledgements :
    ((List.replicate 12 false).length = 12 ∧ ∃ i : Fin 12, flagged.atn[i].pending = true ∧ flagged.atn[i].masked = true ∧
      (List.replicate 12 false).getD i.val true = false) ∧
    (∀ i : Fin 12, flagged.atn[i].pending = true → flagged.atn[i].masked = true → (List.replicate 12 true).getD i.val true = true) ∧
    ((List.replicate 12 (none : Option Bool)).length = 12 ∧ none ∈ List.replicate 12 (none : Option Bool)) ∧
    ((∀ c ∈ [1, 12], 1 ≤ c ∧ c ≤ 12) ∧ 1 ≤ [1, 12].length ∧ [1, 12].length ≤ 12 ∧
      ∃ i : Fin 12, i.val + 1 ∉ [1, 12] ∧ flagged.atn[i].pending = true ∧ flagged.atn[i].masked = false) ∧
    ((∃ c ∈ [0], c = 0 ∨ 12 < c) ∧ ∃ c ∈ [13], c = 0 ∨ 12 < c) := by decide +kernel

theorem meets_EveryTakenRequestIsAnsweredOnce :
    Taken 7 (.softReset (.params ())) (asked (.softReset (.params ())) base) ∧ ¬ Taken 7 (.softReset (.params ())) base :=
  ⟨(meets_Taken _).1, fun h => by simpa [base, State.reset, Mgp.reset] using h.2.1⟩

theorem meets_RefusedRequestsChangeNothing :
    status (.hold (.params ())) base = some .notAvailable ∧
    (malformed (.run .wrongLength) = true ∧ status (.run .wrongLength) base = some .badLength) ∧
    (misnumbered (.qKeg (.params { bay := 0 })) = true ∧ misnumbered (.qKeg (.params { bay := 7 })) = true ∧
      misnumbered (.qKeg (.params { bay := 6 })) = false ∧ misnumbered (.qChannel (.params { channel := 24 })) = true ∧
      misnumbered (.qTap (.params { tap := 3 })) = true ∧ misnumbered (.nodeRead (.params { node := 10 })) = true ∧
      status (.qKeg (.params { bay := 7 })) base = some .badValue) := by decide +kernel

/-- The run gate open. -/
def opened (s : State) : State := port (fun m => { m with routeHalf := true, tapHalf := true }) s

theorem meets_RunAndHold :
    running.mgp.part = .running ∧ (base.mgp.part = .held ∧ (base.mgp.routeHalf = false ∨ base.mgp.tapHalf = false)) ∧
    ((opened base).mgp.part = .held ∧ (opened base).mgp.routeHalf = true ∧ (opened base).mgp.tapHalf = true ∧ (opened base).man.nodeOnline = false ∧
      ((opened base).keg 0).phase ≠ .scheduled ∧ ((opened base).keg 0).phase ≠ .serving) ∧
    (let s := opened (withKeg (kegIn .serving) base)
     (s.keg 0).phase = .serving ∧ (s.node (bayNode 0)).state ≠ .lost ∧ (s.keg 0).sensedTemp ≠ none ∧ (s.keg 0).sensedPressure ≠ none) ∧
    (let s := opened (withNode 0 .lost 3 (withKeg (kegIn .scheduled) base))
     (s.keg 0).phase = .scheduled ∧ (s.node (bayNode 0)).state = .lost) ∧
    (let s := opened (withKeg { kegIn .scheduled with sensedTemp := none } base)
     (s.keg 0).phase = .scheduled ∧ (s.node (bayNode 0)).state ≠ .lost ∧ (s.keg 0).sensedTemp = none) ∧
    (let s := withKeg (kegRuns .serving) running
     s.mgp.part = .running ∧ (s.keg 0).underControl = true ∧ owner (.heater 0) s ≠ none ∧ owner (.heater 0) (withKeg (kegIn .serving) base) = none) := by
  decide +kernel

theorem meets_SoftwareResets (s : State) (h : s = withKeg (kegIn .serving) (pours (aPour true) base)) :
    Taken 7 (.softReset (.params ())) (asked (.softReset (.params ())) s) ∧ (s.tapRec 0).pour = some (aPour true) ∧ s.mgp.up.length < 12 := by
  subst h
  exact ⟨⟨rfl, rfl, by simp [asked, port, withKeg, pours, tap1, base, State.reset, Mgp.reset]⟩, by decide +kernel, by decide +kernel⟩

/-- R173, R182: with 13 frames held the POUR_RECORD of a reset joins; with 14 it is lost, and LINK_ERROR, raised unmasked, brings an ATTENTION frame and is cleared. -/
theorem test_softReset_full : ∀ n ∈ [13, 14], ∀ masked : Bool,
    let s := asked (.softReset (.params ())) (port (fun m => { m with up := List.replicate n (.report { tag := 0, channel := 0, dest := none, value := 0, marks := .none, state := .live }) })
      { pours (aPour true) base with atn := base.atn.map fun r => { r with masked := masked } })
    let k := if n = 14 ∧ masked = false then 1 else 0
    on (.softReset 7 (.params ())) s (fun t => decide (t.mgp.up.length = 15 + k ∧ t.mgp.up.countP UpFrame.isAttention = k ∧ t.mgp.seq = 1 + BitVec.ofNat 8 k ∧
      t.atn = s.atn)) = true := by decide +kernel

/-- The record of an enabled channel of node 2 with a window of `w`. -/
def recordOf (w : Nat) : ChannelRecord := { (channelIn .off 0).record with filter := if w = 1 then .plain else .mean, window := w }

theorem recordOf_legal : RecordLegal (recordOf 1) ∧ RecordLegal (recordOf 8) := by
  simp [RecordLegal, recordOf, channelIn, Channel.reset, ChannelRecord.reset]

theorem meets_ChannelSetRestartsTheChannel :
    (let s := withKeg (kegIn .serving) (routed (channelIn .live 1) (some (.kegCore 0)) running)
     s.mgp.part = .running ∧ s.rte.routes[(0 : Chan)].dest = some (.kegCore 0) ∧ (s.keg 0).phase = .serving) ∧
    (base.mgp.part = .held ∧ (fieldsOf (recordOf 1) ≠ { fieldsOf (recordOf 1) with gain := 65001 })) ∧
    (let s := routed (channelIn .live 1) (some .glycol) base
     s.mgp.part = .held ∧ s.rte.routes[(0 : Chan)].dest = some .glycol ∧ (s.chan 0).state = .live ∧ (s.chan 1).state ≠ .live) := by
  decide +kernel

theorem meets_ChannelSetRestartsTheChannel_range : ∀ r, RecordLegal r → { fieldsOf (recordOf 1) with gain := 65001 } ≠ fieldsOf r := by
  rintro r ⟨-, h, -⟩ e
  have : (65001 : Int) = r.gain := congrArg ChannelFields.gain e
  omega

theorem meets_ChannelSetRestartsTheChannel_kind :
    ¬ Suits (recordOf 1).kind (routed (channelIn .live 1) (some .manifold) base).rte.routes[(0 : Chan)].dest ∧
    Suits (recordOf 1).kind (routed (channelIn .live 1) (some .glycol) base).rte.routes[(0 : Chan)].dest :=
  ⟨fun h => absurd (show (recordOf 1).kind = .press from h) (by decide +kernel), rfl⟩

theorem meets_ChannelSeedAndSubst :
    (base.chan 0).state = .off ∧ ((routed (channelIn .stale 0) none base).chan 0).state = .stale ∧
    ((routed (channelIn .live 1) none base).chan 0).state = .live ∧ ((routed (channelIn .priming 0) none base).chan 0).state = .priming ∧
    ((-100001 : Int) < -100000 ∨ (100000 : Int) < -100001) ∧ ((100001 : Int) < -100000 ∨ (100000 : Int) < 100001) ∧
    (-100000 ≤ (-100000 : Int) ∧ (100000 : Int) ≤ 100000) ∧
    ((rangeOf .temp).1 ≤ 5000 ∧ (5000 : Int) ≤ (rangeOf .temp).2 ∧ ¬ (5001 : Int) ≤ (rangeOf .temp).2 ∧ ¬ (rangeOf .press).1 ≤ -1001) ∧
    (routed (channelIn .live 1) (some (.kegWall 0)) base).rte.routes[(0 : Chan)].dest = some (.kegWall 0) ∧
    (channelIn .live 1).window.length = (channelIn .live 1).record.window ∧
    (routed (channelIn .live 1) none base).rte.routes[(0 : Chan)].dest = none := by
  decide +kernel

theorem meets_ChannelSeedAndSubst_legal : RecordLegal (channelIn .live 1).record := by
  simp [RecordLegal, channelIn, Channel.reset, ChannelRecord.reset]

/-- A channel with spike limit 100, its window full at 450. -/
def spiky (run : Nat) : Channel :=
  { channelIn .live 1 with record := { (channelIn .live 1).record with spike := 100 }, rejectRun := run }

theorem meets_AReadingIsConditioned :
    (let ch := spiky 1
     let e := entering ch.record.kind (((551 * ch.record.gain / 1000 : Nat) : Int) + ch.record.offset)
     ch.record.spike ≠ 0 ∧ ch.window.length = ch.record.window ∧ ch.record.spike < e.value - filteredValue ch.record ch.window ∧ ch.rejectRun < 2 ∧
       2 ≤ (spiky 2).rejectRun) ∧
    (let ch := spiky 0
     let e := entering ch.record.kind (((550 * ch.record.gain / 1000 : Nat) : Int) + ch.record.offset)
     ¬ (ch.record.spike < e.value - filteredValue ch.record ch.window ∨ ch.record.spike < filteredValue ch.record ch.window - e.value)) ∧
    (channelIn .priming 0).window.length ≠ (channelIn .priming 0).record.window := by
  decide +kernel

theorem meets_AReadingIsConditioned_legal : RecordLegal (spiky 0).record := by
  simp [RecordLegal, spiky, channelIn, Channel.reset, ChannelRecord.reset]

theorem meets_ReadingsReachTheirChannels :
    (let s := routed (channelIn .live 1) (some .glycol) base
     (s.chan 0).record.node = 1 ∧ (s.chan 0).state = .live ∧ ((s.chan 0).condition 500).2 = true ∧
       s.rte.routes[(0 : Chan)].dest = some .glycol ∧ (∀ c : Chan, c ≠ 0 → s.rte.routes[c].dest ≠ some .glycol) ∧ (s.chan 1).state = .off) ∧
    (let s := routed (channelIn .priming 0) none base
     ((({ s.chan 0 with record := recordOf 8 } : Channel).condition 500).2 = false)) := by
  decide +kernel

/-- A table in which channels 4 and 19 name GLYCOL. -/
def twice : Vector Route 24 := Vector.ofFn fun c : Fin 24 => { dest := if c = 4 ∨ c = 19 then some .glycol else none, divider := 0 }

/-- A table in which channel 3 names the manifold. -/
def once : Vector Route 24 := Vector.ofFn fun c : Fin 24 => { dest := if c = 3 then some .manifold else none, divider := 255 }

theorem suits_none (v : Vector Route 24) (s : State) (c : Chan) (h : v[c].dest = none) : ¬ Duplicate v c ∧ ¬ WrongKind v s c :=
  ⟨fun ⟨d, hd, _⟩ => by rw [h] at hd; exact absurd hd (by simp), fun hk => hk (by rw [h]; trivial)⟩

theorem meets_RouteLoadJudgesAndReplacesTheTable_duplicate :
    base.mgp.part = .held ∧ Duplicate twice 19 ∧ ∀ c' : Chan, c' < 19 → ¬ Duplicate twice c' ∧ ¬ WrongKind twice base c' := by
  refine ⟨rfl, ⟨.glycol, by decide +kernel, 4, by decide, by decide +kernel⟩, fun c hc => ?_⟩
  by_cases h : c = 4
  · subst h
    refine ⟨fun ⟨d, hd, c', hlt, hc'⟩ => ?_, fun hk => hk (show (base.chan 4).record.kind = .temp by decide +kernel)⟩
    have hn : ∀ c' : Chan, c' < 4 → twice[c'].dest = none := by decide +kernel
    rw [hn c' hlt] at hc'
    exact absurd hc' (by simp)
  · have hn : ∀ c : Chan, c < 19 → c ≠ 4 → twice[c].dest = none := by decide +kernel
    exact suits_none _ _ _ (hn c hc h)

theorem meets_RouteLoadJudgesAndReplacesTheTable_kind :
    ¬ Duplicate once 3 ∧ WrongKind once base 3 ∧ ∀ c' : Chan, c' < 3 → ¬ Duplicate once c' ∧ ¬ WrongKind once base c' := by
  have hn : ∀ c : Chan, c ≠ 3 → once[c].dest = none := by decide +kernel
  refine ⟨fun ⟨d, hd, c', hlt, hc'⟩ => ?_, fun h => absurd (show (base.chan 3).record.kind = .press from h) (by decide +kernel),
    fun c hc => suits_none _ _ _ (hn c (Fin.ne_of_lt hc))⟩
  rw [hn c' (Fin.ne_of_lt hlt)] at hc'
  exact absurd hc' (by simp)

/-- Bay 1's control temperature was last delivered as available. -/
def drawn (s : State) : State :=
  { s with rte := { s.rte with lastControl := upd s.rte.lastControl 0 fun _ => some { value := 400, substituted := false } } }

/-- The routes right after reset. -/
theorem meets_RouteLoadJudgesAndReplacesTheTable :
    (∀ c : Chan, ¬ Duplicate State.reset.rte.routes c ∧ ¬ WrongKind State.reset.rte.routes base c) ∧
    (running.mgp.part = .running ∧ (routeFields once).length = 24) ∧
    ((List.replicate 24 ({ dest := .kegCore 7, divider := 0 } : RouteFields)).length = 24 ∧
      ∃ f ∈ List.replicate 24 ({ dest := .kegCore 7, divider := 0 } : RouteFields), ∀ d, f.dest ≠ destCode d) ∧
    (let s := withSlot (.kegPress 0) 900 (withSlot .manifold 900 (withKeg (kegIn .serving) base))
     s.rte.slots[destIdx (.kegPress 0)] ≠ none ∧ (s.keg 0).phase = .serving ∧ s.rte.slots[destIdx .manifold] ≠ none) ∧
    (let s := drawn (withSlot (.kegWall 0) 400 (withKeg { kegIn .scheduled with mode := .mean } base))
     (s.keg 0).phase = ActivePhase.scheduled.phase ∧ s.rte.slots[destIdx (.kegPress 0)] = none ∧ s.rte.lastControl[(0 : Bay)] ≠ none ∧
       s.rte.slots[destIdx (.kegWall 0)] ≠ none) := by
  refine ⟨fun c => suits_none _ _ _ ?_, by decide +kernel, ⟨by decide, _, List.mem_replicate.2 ⟨by decide, rfl⟩, fun d => ?_⟩, by decide +kernel,
    by decide +kernel⟩
  · revert c
    decide +kernel
  · match d with
    | some (.kegCore b) =>
      simp only [destCode, bayNum, ne_eq, DestCode.kegCore.injEq]
      omega
    | none | some (.kegWall _) | some (.kegPress _) | some .manifold | some .cylinder | some (.line _) | some .glycol | some .ambient =>
      simp [destCode]

theorem meets_TheControlTemperatureIsDerived :
    ((base.keg 0).phase = .vacant ∧ (routed (channelIn .live 1) (some (.kegCore 0)) base).rte.routes[(0 : Chan)].dest = some (.kegCore 0)) ∧
    (let s := withSlot (.kegCore 0) 400 (withKeg (kegIn .standby) base)
     (s.keg 0).phase ≠ .vacant ∧ s.rte.slots[destIdx (.kegCore 0)] = some { value := 400, marks := .none, channel := 0 } ∧ (s.keg 0).mode = .core) ∧
    (let s := withSlot (.kegWall 0) 400 (withKeg { kegIn .standby with mode := .mean } base)
     s.rte.slots[destIdx (.kegWall 0)] = some { value := 400, marks := .none, channel := 0 } ∧ (s.keg 0).mode = .mean ∧
       s.rte.slots[destIdx (.kegCore 0)] = none) ∧
    (let s := withSlot (.kegCore 0) (-101) (withSlot (.kegWall 0) (-102) (withKeg { kegIn .standby with mode := .mean } base))
     s.rte.slots[destIdx (.kegCore 0)] ≠ none ∧ s.rte.slots[destIdx (.kegWall 0)] ≠ none) := by
  decide +kernel

/-- Route 0 with divider `k`. -/
def divided (k : Byte) (n : Nat) (s : State) : State :=
  { s with rte := { s.rte with routes := upd s.rte.routes 0 (fun r => { r with divider := k }), counts := upd s.rte.counts 0 fun _ => n } }

theorem meets_APublicationIsStoredDeliveredAndCounted :
    base.rte.routes[(0 : Chan)].divider.toNat = 0 ∧
    (let s := divided 255 253 base
     s.rte.routes[(0 : Chan)].divider.toNat ≠ 0 ∧ s.rte.counts[(0 : Chan)] + 1 ≠ s.rte.routes[(0 : Chan)].divider.toNat) ∧
    (let s := divided 255 254 base
     s.rte.counts[(0 : Chan)] + 1 = s.rte.routes[(0 : Chan)].divider.toNat ∧ s.rte.routes[(0 : Chan)].dest = none ∧ s.mgp.up.length < 8) ∧
    (let s := divided 1 0 (routed (channelIn .live 1) (some (.kegCore 0)) base)
     s.rte.routes[(0 : Chan)].divider.toNat ≠ 0 ∧ s.rte.counts[(0 : Chan)] + 1 = s.rte.routes[(0 : Chan)].divider.toNat ∧
       s.rte.routes[(0 : Chan)].dest = some (.kegCore 0) ∧ s.mgp.up.length < 5) := by
  decide +kernel

/-- R50's cases: a VACANT bay, a change drawn on, one not drawn on, unavailability after an available delivery and after none. -/
theorem meets_APublicationIsStoredDeliveredAndCounted_control :
    (base.keg 0).phase = .vacant ∧
    (let s := withSlot (.kegCore 0) 400 (withKeg (kegIn .serving) base)
     (s.keg 0).phase ≠ .vacant ∧ (s.keg 0).mode = .core ∧ controlTemp 0 s = some { value := 400, substituted := false } ∧
       ¬ ((s.keg 0).mode = .wall ∨ (s.keg 0).mode = .mean)) ∧
    (let s := drawn (withSlot (.kegWall 0) 400 (withKeg (kegIn .serving) base))
     controlTemp 0 s = none ∧ s.rte.lastControl[(0 : Bay)] ≠ none ∧ (controlLost 0 s).kegs[(0 : Bay)].phase = .halted) ∧
    (let s := withSlot (.kegWall 0) 400 (withKeg (kegIn .serving) base)
     controlTemp 0 s = none ∧ s.rte.lastControl[(0 : Bay)] = none) := by decide +kernel

/-- What the consumers of a delivery find: no thermostat and one, a pour to end, sensing complete again, and a pour that a cold line starts. -/
theorem meets_APublicationIsStoredDeliveredAndCounted_consumers :
    (withKeg (kegIn .serving) running).thermo 0 = none ∧
    (thermoCreate 0 .serving (withKeg (kegRuns .serving) running)).thermo 0 ≠ none ∧
    (let s := pours (aPour true) (withKeg (kegRuns .serving) running)
     (s.tapRec 0).pour = some (aPour true) ∧ s.mgp.up.length < 12 ∧ ((controlValue 0 { value := 400, substituted := true } s).tapRec 0).pour = none) ∧
    (let s := gas (fun m => { m with nodeOnline := true, state := .down }) (withSlot .manifold 900 (withSlot .cylinder 9000 base))
     s.man.leak = false ∧ s.man.queue = [] ∧ (sensingTest s).man.state = .idle ∧ (sensingTest (gas (fun m => { m with leak := true }) s)).man.state = .lockout) ∧
    (let s := withSlot (.line 0) 400 (pours { aPour false with granted := true } running)
     (s.tapRec 0).state ≠ .purging ∧ owner (.tapValve 0) s = some .tap ∧ ((tryStart 0 s).tapRec 0).state = .pouring) := by decide +kernel

/-! ### Kegs and schedules -/

/-- Bay 1's temperature and pressure are routed. -/
def sensed (k : Keg) (s : State) : State := pressRoutedToo (routed (channelIn .live 1) (some (.kegCore 0)) (withKeg k s))

theorem sensed_routed (k : Keg) (h : k.mode = .core) : Routed 0 (sensed k base) := by
  refine ⟨?_, 1, rfl, rfl⟩
  show TempRouted 0 k.mode _
  rw [h]
  exact ⟨0, rfl, rfl⟩

theorem meets_KegLoadMakesAStandbyKeg :
    ((withKeg (kegIn .standby) base).keg 0).phase ≠ .vacant ∧ ((base.keg 0).phase = .vacant ∧ ((-1 : Int) < 0 ∨ (20000 : Int) < 20001) ∧ 20000 ≤ 20000) ∧
    ∀ v : Int, (base.keg 0).phase = .vacant ∧ (v < 0 ∨ 20000 < v ∨ (none : Option SenseMode) = none) :=
  ⟨by decide +kernel, by decide +kernel, fun _ => ⟨by decide +kernel, .inr (.inr rfl)⟩⟩

theorem meets_KegServeMakesAServingKeg :
    (¬ (((base.keg 0).phase = .standby ∨ (base.keg 0).phase = .spent) ∧ 0 < (base.keg 0).remaining)) ∧
    (let s := withKeg (kegIn .spent) base
     ((s.keg 0).phase = .standby ∨ (s.keg 0).phase = .spent) ∧ 0 < (s.keg 0).remaining) ∧
    (¬ (-200 ≤ (2501 : Int) ∧ (2501 : Int) ≤ 2500) ∧ -200 ≤ (2500 : Int) ∧ (300 : Int) ≤ 2500) ∧
    ¬ Fed (.kegPress 0) base ∧ Routed 0 (sensed (kegIn .standby) base) ∧
    ((sensed (kegIn .standby) base).keg 0).phase = .standby ∧ ¬ Blind 0 (sensed (kegIn .standby) base) ∧
    Blind 0 (sensed { kegIn .standby with sensedPressure := none } base) := by
  refine ⟨by decide +kernel, by decide +kernel, by decide +kernel, fun ⟨c, hc, _⟩ => ?_, sensed_routed _ (by decide +kernel), by decide +kernel, ?_, ?_⟩
  · revert hc
    revert c
    decide +kernel
  · unfold Blind
    decide +kernel
  · unfold Blind
    decide +kernel

theorem stepsLegal_hold : StepsLegal 3000 [.hold 400 1 none] ∧ StepsLegal 3000 [.hold (-200) 65535 (some 3500), .endStep] := by
  simp [StepsLegal, StepLegal, isTerminal]

theorem not_stepsLegal (l : List (Option Step)) (h : l = [] ∨ 16 < l.length ∨ none ∈ l) : ∀ steps, StepsLegal 3000 steps → l ≠ steps.map some := by
  rintro steps ⟨h1, h2, -⟩ e
  subst e
  rcases h with h | h | h
  · simp only [List.map_eq_nil_iff] at h
    simp [h] at h1
  · simp only [List.length_map] at h
    omega
  · simp at h

/-- Bay 1's keg is SCHEDULED with one step, and its inputs are routed. -/
def brewing (steps : List Step) (k : Keg) : State := allocate 0 steps (sensed k running)

theorem meets_ScheduleAndAppend_pool :
    PoolOk (sensed (kegIn .standby) base) ∧ PoolOk (brewing [.hold 400 1 none] (kegRuns .scheduled)) ∧ PoolOk (brewing [] (kegRuns .scheduled)) := by
  refine ⟨?_, ?_, ?_⟩ <;>
  · unfold PoolOk
    decide +kernel

theorem meets_ScheduleAndAppend :
    (base.keg 0).phase ≠ .standby ∧
    (let s := sensed (kegIn .standby) base
     (s.keg 0).phase = .standby ∧ (s.keg 0).maxPressure = 3000 ∧ 1 ≤ s.sch.freeList.length ∧ (s.keg 0).chain = []) ∧
    (let s := { sensed (kegIn .standby) base with sch := { base.sch with freeList := [] } }
     (s.keg 0).phase = .standby ∧ s.sch.freeList.length < 1) ∧
    (let s := brewing [.hold 400 1 none] (kegRuns .scheduled)
     (s.keg 0).phase = .scheduled ∧ (s.keg 0).maxPressure = 3000 ∧ (s.keg 0).chain ≠ [] ∧ 1 ≤ s.sch.freeList.length) ∧
    (let s := brewing [.endStep] (kegRuns .scheduled)
     (s.keg 0).chain.getLast? = some 0 ∧ s.sch.pool[(0 : PoolIx)] = some { bay := 0, step := .endStep } ∧ isTerminal .endStep = true) ∧
    (let s := brewing [] (kegRuns .scheduled)
     (s.keg 0).phase = .scheduled ∧ (s.keg 0).chain = []) := by
  decide +kernel

/-- Every kind of step, at an end of its ranges. -/
theorem stepsLegal_kinds :
    StepsLegal 3000 [.ramp 400 1 none, .quiet 3500 20 60 (some 300), .carb (-200) 3000 10, .serve 2500 2500] ∧ StepsLegal 3000 [.endStep] := by
  simp [StepsLegal, StepLegal, isTerminal]

/-- R89, R93: what entry passes over. A RAMP at the setpoint completes at its entry, and so does one without setpoint and sensed temperature. -/
theorem meets_ScheduleAndAppend_entry :
    passOver (some 450) (some 400) [.ramp 400 1 none, .ramp 400 5 none, .quiet 350 0 60 none] = (some 400, [.quiet 350 0 60 none]) ∧
    passOver (some 450) none [.ramp 400 1 none] = (none, [.ramp 400 1 none]) ∧ rampFrom none (some 450) 400 = 450 ∧
    passOver none none [.ramp 400 1 none] = (some 400, []) ∧
    passOver none (some 400) [.carb 400 900 10] = (some 400, [.carb 400 900 10]) ∧ passOver none none [.serve 400 900] = (none, [.serve 400 900]) ∧
    passOver none none [.endStep] = (none, [.endStep]) := by decide +kernel

/-- A CARB, a RAMP at its target and an END, appended to a schedule that has run out. -/
theorem test_append_enters :
    (on (.kegAppend 7 (.params { bay := 1, steps := [some (.carb 400 900 10)] }))
      (asked (.kegAppend (.params { bay := 1, steps := [some (.carb 400 900 10)] })) (brewing [] (kegRuns .scheduled)))
      fun t => decide ((t.keg 0).settle = some 0 ∧ (t.keg 0).chain = [0])) = true ∧
    (on (.kegAppend 7 (.params { bay := 1, steps := [some (.ramp 400 1 none), some .endStep] }))
      (asked (.kegAppend (.params { bay := 1, steps := [some (.ramp 400 1 none), some .endStep] })) (brewing [] (kegRuns .scheduled)))
      fun t => decide ((t.keg 0).phase = .standby ∧ (t.keg 0).chain = [] ∧ t.sch.freeList.length = 48)) = true := by decide +kernel

theorem meets_AbortAndRemoveReturnTheChain :
    (base.keg 0).phase = .vacant ∧ (base.keg 0).pours = 0 ∧
    (let s := brewing [.hold 400 1 none] (kegRuns .scheduled)
     (s.keg 0).phase = .scheduled ∧ (s.keg 0).pours = 0 ∧ (s.keg 0).relief = false ∧ s.mgp.part = .running) ∧
    (let s := withKeg { kegIn .serving with pours := 1 } base
     (s.keg 0).phase = .serving ∧ 0 < (s.keg 0).pours) ∧
    ((withKeg (kegIn .halted) base).keg 0).phase = .halted := by decide +kernel

theorem meets_ResumeVolumeAndLimits :
    (let s := withNode 0 .online 0 (withKeg { kegIn .halted with prior := some .serving } base)
     (s.keg 0).phase = .halted ∧ (s.node (bayNode 0)).state = .online ∧ (s.keg 0).sensedTemp ≠ none ∧ (s.keg 0).sensedPressure ≠ none ∧
       (s.keg 0).prior = some .serving ∧ (base.node (bayNode 0)).state ≠ .online) ∧
    ((withKeg { kegIn .halted with sensedTemp := none } base).keg 0).sensedTemp = none ∧
    ((withKeg { kegIn .halted with sensedPressure := none } base).keg 0).sensedPressure = none ∧
    (let s := withKeg (kegIn .standby) base
     (s.keg 0).phase ≠ .vacant ∧ (s.keg 0).pours = 0 ∧ 20000 ≤ 20000 ∧ 10 ≤ (300 : Int) ∧ 500 ≤ (4000 : Int) ∧ ¬ (500 ≤ (499 : Int)) ∧
       (s.keg 0).sensedPressure = some 1000 ∧ (s.keg 0).relief = false ∧ (999 : Int) < 1000) ∧
    (let s := withKeg { kegIn .standby with relief := true } base
     (s.keg 0).relief = true ∧ (s.keg 0).sensedPressure = some 1000 ∧ (1000 : Int) ≤ 1200 - 200 ∧ ¬ ((1000 : Int) ≤ 1199 - 200)) ∧
    0 < ((withKeg { kegIn .serving with pours := 1 } base).keg 0).pours := by decide +kernel

theorem meets_ResumeVolumeAndLimits_route :
    ((withKeg (kegIn .serving) base).keg 0).phase = .serving ∧ ¬ TempRouted 0 .wall base ∧ TempRouted 0 .core (sensed (kegIn .serving) base) := by
  refine ⟨by decide +kernel, fun ⟨c, hc, _⟩ => ?_, (sensed_routed (kegIn .serving) rfl).1⟩
  revert hc
  revert c
  decide +kernel

/-- Each clause at its thresholds: relief above 3000 and at 2800, spunding above the limit and 100 below, serving relief above 300 and at 200 over. -/
theorem meets_APressureValueDrivesTheVent :
    (let k := { kegRuns .scheduled with ventLimit := some 1500 }
     k.underControl = true ∧ k.phase = .scheduled ∧ k.ventLimit = some 1500 ∧ k.maxPressure = 3000) ∧
    (kegRuns .serving).servePressure = some 900 ∧ (kegIn .standby).underControl = false ∧
    (∀ p ∈ [(1400 : Int), 1401, 1500, 1501], ((pressureValue 0 p (withKeg { kegRuns .scheduled with ventLimit := some 1500, ventOpen := true } running)).keg 0).ventOpen =
      decide (1400 < p)) ∧
    (∀ p ∈ [(1100 : Int), 1101, 1200, 1201], ((pressureValue 0 p (withKeg (kegRuns .serving) running)).keg 0).ventOpen = decide (1200 < p)) ∧
    (∀ p ∈ [(2800 : Int), 2801, 3000, 3001], ((pressureValue 0 p (withKeg { kegIn .standby with relief := true } base)).keg 0).relief = decide (2800 < p)) := by
  decide +kernel

/-- A CHARGE at 900 for the SERVING keg, and at 1500 for the CARB step, each below its threshold by 1 and at it. -/
theorem meets_APressureValueDrivesTheVent_charge :
    let serve := withKeg (kegRuns .serving) running
    let carb := brewing [.carb 400 1500 10] { kegRuns .scheduled with settle := some 3 }
    let charge : GasEntry := { need := .charge 0, pressure := 1500 }
    let busy := fun n => gas (fun m => { m with state := .busy, queue := List.replicate n { need := .charge 5, pressure := 900 } }) carb
    (ChargesAt 0 900 serve ∧ (pressureValue 0 799 serve).man.op = some (settlingOp (.charge 0) 900 []) ∧ NoCharge 0 serve (pressureValue 0 800 serve)) ∧
    (((pressureValue 0 1399 carb).keg 0).chargePending = true ∧ (pressureValue 0 1399 carb).out .regulator = 1500 ∧ NoCharge 0 carb (pressureValue 0 1400 carb)) ∧
    ((pressureValue 0 1399 (busy 7)).man.queue.getLast? = some charge ∧ ((pressureValue 0 1399 (busy 7)).keg 0).chargePending = true ∧
      NoCharge 0 (busy 8) (pressureValue 0 1399 (busy 8))) ∧
    (let s := gas (fun m => { m with supplyLow := true }) carb
     NoCharge 0 s (pressureValue 0 1399 s)) := by
  refine ⟨⟨⟨by decide +kernel, .inl (by decide +kernel)⟩, ?_⟩, ?_⟩
  · simp only [NoCharge]
    decide +kernel
  · simp only [NoCharge]
    decide +kernel

theorem meets_APressureValueDrivesTheVent_carb : ChargesAt 0 1500 (brewing [.carb 400 1500 10] (kegRuns .scheduled)) :=
  ⟨by decide +kernel, .inr ⟨by decide +kernel, 400, 10, by decide +kernel⟩⟩

theorem meets_FailedExchangesAndLostNodes :
    (let s := exchanging 0 .awaiting 3 base
     Awake s ∧ s.blc.exchange = some { node := 0, imageSent := [0, 0, 0, 0], busyCount := 3, phase := .awaiting } ∧ judgeReply 0 [0x002] = .bad ∧
       judgeReply 0 (busyChars 0) = .busy ∧ (s.node 0).failures < 2 ∧ ShownOk s ∧ s.blc.discard = .none) ∧
    (let s := withNode 0 .online 2 (withKeg (kegIn .serving) (exchanging 0 .awaiting 0 base))
     Awake s ∧ 2 ≤ (s.node 0).failures ∧ (s.node 0).state ≠ .lost ∧ (0 : Node) = bayNode 0 ∧ (s.keg 0).phase = ActivePhase.serving.phase) ∧
    (let s := withNode 0 .online 2 (exchanging 0 .awaiting 0 base)
     (s.keg 0).phase ≠ .scheduled ∧ (s.keg 0).phase ≠ .serving) ∧
    (let s := withNode 1 .online 2 (routed (channelIn .live 1) none (exchanging 1 .awaiting 0 base))
     (s.chan 0).record.node = 1 ∧ (s.chan 0).state = .live) := by
  simp only [ShownOk]
  decide +kernel

/-- Node `n` is about to become LOST by the timeout of its exchange. -/
def losing (n : Node) (s : State) : State := withNode n .online 2 (exchanging n .awaiting 0 s)

/-- Node `n`'s reply is awaited, and the node is LOST. -/
def returning (n : Node) (s : State) : State := withNode n .lost 3 (exchanging n .awaiting 0 s)

/-- The losses of nodes 7, 8 and 9: a holder revoked; each kind of operation and of entry ended; a pour ended. -/
theorem meets_FailedExchangesAndLostNodes_roles :
    (let s := losing 6 (chiller (fun c => { c with holders := [{ who := .keg 0, turn := none }] }) (withKeg (kegRuns .serving) running))
     Awake s ∧ s.blc.exchange.map (·.node) = some chillerNode ∧ s.blc.exchange.map (·.phase) = some .awaiting ∧ (s.node 6).state ≠ .lost ∧ 2 ≤ (s.node 6).failures ∧
       owner .pump s = some .chl ∧ (s.chl.holders.map (·.who)).Nodup ∧ owner (valveOf (.keg 0)) s = some .keg ∧
       on .replyTimeout s (fun t => decide (t.chl.queue = [.keg 0])) = true) ∧
    (∀ op ∈ [operation (.charge 0) 900 .active 0 (some 3), { operation (.pour 0 0) 900 .active 0 none with pours := [{ tap := 0, bay := 0 }] },
        operation (.purge 0 10) 900 .active 0 (some 3), operation .check 1500 .active 0 (some 3)],
      let s := losing 7 (serving op (withKeg (kegRuns .serving) running))
      s.blc.exchange.map (·.node) = some manifoldNode ∧ s.man.op = some op ∧ op.sub = .active ∧ s.man.state ≠ .down ∧ s.mgp.up.length < 10 ∧
        on .replyTimeout s (fun t => decide (t.man.state = .down ∧ t.man.op = none)) = true) ∧
    (let s := losing 7 (gas (fun m => { m with queue := [{ need := .pour 0 0, pressure := 900 }, { need := .charge 0, pressure := 900 }, { need := .purge 1 10, pressure := 800 }] })
        (pours (aPour false) running))
     (s.tapRec 0).pour = some (aPour false) ∧ (aPour false).pouring = false ∧ (aPour false).granted = false ∧ s.man.op = none ∧
       on .replyTimeout s (fun t => decide (t.man.queue = [] ∧ (t.tapRec 0).pour = none)) = true) ∧
    (let s := losing 8 (pours (aPour true) running)
     s.blc.exchange.map (·.node) = some panelNode ∧ (s.tapRec 0).pour = some (aPour true) ∧ owner (.tapValve 0) s = some .tap ∧ s.mgp.up.length < 10 ∧
       on .replyTimeout s (fun t => decide ((t.tapRec 0).pour = none)) = true) := by decide +kernel

/-- No channel of `base` reads nodes 7, 8 and 9. -/
theorem meets_FailedExchangesAndLostNodes_unread :
    Unread chillerNode base ∧ Unread manifoldNode base ∧ FeedsOnly manifoldNode [.manifold, .cylinder] base ∧ FeedsOnly panelNode [.line 0, .line 1] base := by
  have h : ∀ c : Chan, (base.chan c).record.node = 0 := by decide +kernel
  refine ⟨fun c e => ?_, fun c e => ?_, fun c e => ?_, fun c e => ?_⟩ <;>
  · rw [h c] at e
    exact absurd e (by decide)

/-- The returns of nodes 7 and 8. -/
theorem meets_FailedExchangesAndLostNodes_returns :
    (let s := returning 6 (chiller (fun c => { c with nodeLost := true, queue := [.keg 0] }) running)
     Awake s ∧ (s.node 6).state = .lost ∧ judgeReply 6 (readyChars 6 zeros) = .ready zeros ∧
       on (.readyReply (readyChars 6 zeros)) s (fun t => decide (t.chl.holders.map (·.who) = [.keg 0])) = true) ∧
    ((withNode 6 .unseen 0 running).node 6).state = .unseen ∧
    (∀ leak, let s := withSlot .manifold 900 (withSlot .cylinder 9000 (returning 7 (gas (fun m => { m with leak := leak }) (manifoldIn .down running))))
     (s.node 7).state ≠ .online ∧ s.man.state = .down ∧ s.rte.slots[destIdx .manifold] ≠ none ∧ s.rte.slots[destIdx .cylinder] ≠ none ∧ s.man.queue = [] ∧
       on (.readyReply (readyChars 7 zeros)) s (fun t => decide (t.man.state = if leak then .lockout else .idle)) = true) := by decide +kernel

/-- A step at the head of bay 1's chain, with its timers. -/
theorem meets_Steps (x : Step) (rest : List PoolIx) (k : Keg) (hx : (x = .hold 400 1 none ∧ k = { kegRuns .scheduled with elapsed := 60 }) ∨
      (x = .quiet 400 0 60 none ∧ k = { kegRuns .scheduled with elapsed := 3600, activity := 600 }) ∨
      (x = .carb 400 1500 10 ∧ k = { kegRuns .scheduled with settle := some 600 }) ∨
      (x = .ramp 1000 20 none ∧ k = { kegRuns .scheduled with ramp := some 360 })) (hr : rest = []) : Steps 0 0 rest x (brewing [x] k) := by
  subst hr
  rcases hx with ⟨rfl, rfl⟩ | ⟨rfl, rfl⟩ | ⟨rfl, rfl⟩ | ⟨rfl, rfl⟩ <;>
  · simp only [Steps, PoolOk]
    decide +kernel

theorem meets_StepTimersCompleteTheirSteps :
    (1 : Int).toNat * 60 ≤ ({ kegRuns .scheduled with elapsed := 60 } : Keg).elapsed ∧
    (60 : Int).toNat * 60 ≤ ({ kegRuns .scheduled with elapsed := 3600, activity := 600 } : Keg).elapsed ∧
    ((kegRuns .scheduled).chargePending = false ∧ (10 : Int).toNat * 60 ≤ 600) ∧
    ((kegRuns .scheduled).setpoint = some 400 ∧ (20 : Int) < 1000 - 400 ∧ 360 ≤ 360) ∧
    (let k := { kegRuns .scheduled with setpoint := some 980 }
     k.setpoint = some 980 ∧ (1000 : Int) - 980 ≤ 20 ∧ (980 : Int) - 1000 ≤ 20) := by decide +kernel

theorem meets_TheActivityRollEndsAQuietStep :
    (let s := brewing [.quiet 400 0 60 none] { kegRuns .scheduled with elapsed := 3600, activity := 600 }
     Awake s ∧ (s.keg 0).underControl = true ∧ (s.keg 0).phase = .scheduled ∧ (s.keg 0).counted = true ∧ 600 ≤ (s.keg 0).activity ∧
       3600 ≤ (s.keg 0).elapsed ∧ (((s.keg 0).buckets[1] + (s.keg 0).buckets[5] : Nat) : Int) ≤ 0) ∧
    (let s := brewing [.quiet 400 0 60 none] { kegRuns .scheduled with elapsed := 3599, activity := 600 }
     currentStep 0 s = some (.quiet 400 0 60 none) ∧ (s.keg 0).elapsed < 3600) := by decide +kernel

/-! ### Chiller and manifold -/

/-- Bay 1 has a thermostat. -/
def withThermo (th : Thermo) (s : State) : State := chiller (fun c => { c with thermos := upd c.thermos 0 fun _ => some th }) s

/-- A thermostat at setpoint 400 and band 50. -/
def thermoAt (st : ThermoState) (temp : Int) : Thermo := { state := st, setpoint := 400, band := 50, temp := temp, phase := .serving }

/-- Bay 1 holds a slot whose turn has run 15 minutes, and `q` wait. -/
def turning (q : List Requester) : State :=
  chiller (fun c => { c with holders := [{ who := .keg 0, turn := some 900 }], queue := q, policy := .turn }) (withKeg (kegRuns .serving) running)

theorem meets_SlotsAreGrantedAndPassedOn :
    (let s := turning [.keg 1]
     Awake s ∧ { who := Requester.keg 0, turn := some 900 } ∈ s.chl.holders ∧ s.chl.quantum * 60 ≤ 900 ∧ Requester.keg 1 ∈ s.chl.queue ∧
       owner (.cool 0) s = some .keg) ∧
    granted (chiller (fun c => { c with limit := 1 }) (turning [.keg 1])) ([.keg 1] ++ [.keg 0]) 0 = 1 := by decide +kernel

theorem meets_SlotsAreGrantedAndPassedOn_alone : ∀ b', Requester.keg b' ∉ (turning [.line 0]).chl.queue := by decide +kernel

theorem meets_TheGlycolGuard :
    (let s := turning []
     s.chl.guardState = .normal ∧ s.chl.glycolLimit < 301 ∧ s.chl.glycolLimit = 300 ∧ (s.chl.holders.map (·.who)).Nodup) ∧
    (let s := chiller (fun c => { c with guardState := .hot }) running
     s.chl.guardState = .hot ∧ (100 : Int) ≤ s.chl.glycolLimit - 200 ∧ s.chl.glycolLimit - 200 < 101) := by decide +kernel

/-- Each row of the thermostat at its boundary, with one slot free or none. -/
theorem meets_TheThermostats_kegs :
    (let s := withThermo (thermoAt .rest 451) (withKeg (kegRuns .serving) running)
     s.thermo 0 = some (thermoAt .rest 451) ∧ 0 ≤ (thermoAt .rest 451).band ∧ (400 : Int) + 50 < 451 ∧
       ((thermoEval 0 s).thermo 0).map (·.state) = some .cooling) ∧
    (let s := withThermo (thermoAt .rest 349) (withKeg (kegRuns .serving) running)
     ¬ (∃ x ∈ s.rte.slots[destIdx .ambient], (400 : Int) + 100 ≤ x.value) ∧ ((thermoEval 0 s).thermo 0).map (·.state) = some .heating ∧
       owner (.heater 0) s = some .keg) ∧
    (let s := withSlot .ambient 500 (withThermo (thermoAt .rest 349) (withKeg (kegRuns .serving) running))
     s.rte.slots[destIdx .ambient] = some { value := 500, marks := .none, channel := 0 } ∧ ((thermoEval 0 s).thermo 0).map (·.state) = some .rest) ∧
    (∀ v ∈ [(350 : Int), 450], ((thermoEval 0 (withThermo (thermoAt .rest v) running)).thermo 0).map (·.state) = some .rest) ∧
    ((thermoEval 0 (withThermo (thermoAt .heating 399) running)).thermo 0).map (·.state) = some .heating ∧
    ((thermoEval 0 (withThermo (thermoAt .heating 400) running)).thermo 0).map (·.state) = some .rest ∧
    ((thermoEval 0 (withThermo (thermoAt .wantCool 401) running)).thermo 0).map (·.state) = some .wantCool ∧
    ((thermoEval 0 (withThermo (thermoAt .wantCool 400) running)).thermo 0).map (·.state) = some .rest ∧
    (let s := withThermo (thermoAt .cooling 400) (turning [])
     Requester.keg 0 ∉ s.chl.queue ∧ owner (.cool 0) s = some .keg ∧ (thermoEval 0 s).chl.holders = []) := by decide +kernel

/-- Line 1, bound to bay 1, in state `st`. -/
def lined (active : Bool) (st : LineState) (s : State) : State :=
  chiller (fun c => { c with lines := upd c.lines 0 fun _ => { bay := some 0, limit := 400, active := active, state := st } }) s

/-- Each row of the line thermostat at its boundary, and both ways of a line's conditions. -/
theorem meets_TheThermostats_lines :
    (let s := lined true .rest running
     (s.line 0).active = true ∧ ((lineEval 0 400 s).line 0).state = .rest ∧ ((lineEval 0 401 s).line 0).state = .cooling ∧
       ((lineEval 0 401 (chiller (fun c => { c with limit := 0 }) s)).line 0).state = .wantCool ∧ Requester.line 0 ∉ s.chl.queue) ∧
    (let s := lined true .wantCool (chiller (fun c => { c with queue := [.line 0] }) running)
     ((lineEval 0 301 s).line 0).state = .wantCool ∧ (lineEval 0 300 s).chl.queue = []) ∧
    (let s := lined true .cooling (chiller (fun c => { c with holders := [{ who := .line 0, turn := none }] }) running)
     (lineEval 0 300 s).chl.holders = [] ∧ (lineEmptied 0 s).chl.holders = [] ∧ owner (valveOf (.line 0)) s = some .tap) ∧
    (let s := withSlot (.line 0) 401 (lined false .rest (withThermo (thermoAt .rest 400) running))
     (s.line 0).active = false ∧ lineServed 0 s = true ∧ s.rte.slots[destIdx (.line 0)] = some { value := 401, marks := .none, channel := 0 } ∧
       ((lineRefresh 0 s).line 0).state = .cooling) ∧
    (let s := lined true .rest running
     lineServed 0 s = false ∧ ((lineRefresh 0 s).line 0).active = false) ∧
    (let s := withThermo (thermoAt .rest 400) (withKeg (kegRuns .serving) running)
     (s.keg 0).sensedTemp ≠ none ∧ (s.keg 0).setpoint ≠ none ∧ s.thermo 0 ≠ none) := by decide +kernel

theorem meets_TheThermostats_served : Served 0 (lined false .rest (withThermo (thermoAt .rest 400) running)) ∧ ¬ Served 0 (lined true .rest running) :=
  ⟨⟨0, thermoAt .rest 400, by decide +kernel, by decide +kernel, rfl⟩, fun ⟨b, th, hb, ht, _⟩ => by
    cases (show (some 0 : Option Bay) = some b from hb)
    exact absurd (show (none : Option Thermo) = some th from ht) (by simp)⟩

/-- CHILL_SET's parameters at the upper ends. -/
def chillTop : ChillSetParams := { limit := 4, policy := some .turn, quantum := 60, glycolLimit := 1500 }

/-- GAS_SET's parameters at the lower ends. -/
def gasBottom : GasSetParams :=
  { settleTolerance := 20, pulseLength := 2, checkPressure := 500, checkWindow := 10, leakLimit := 20, lowThreshold := 1000, checkInterval := 0 }

theorem meets_ChillerAndGasSettings :
    status (.chillSet (.params chillTop)) base = some .ok ∧ status (.chillSet (.params chillTop)) running = some .notAvailable ∧
    status (.chillSet (.params { chillTop with limit := 5 })) base = some .badValue ∧
    status (.gasSet (.params gasBottom)) base = some .ok ∧ status (.gasSet (.params gasBottom)) running = some .notAvailable ∧
    status (.gasSet (.params { gasBottom with checkInterval := 169 })) base = some .badValue ∧
    (let s := withSlot .glycol 1501 base
     s.rte.slots[destIdx .glycol] = some { value := 1501, marks := .none, channel := 0 } ∧ s.chl.guardState = .normal ∧ (1500 : Int) < 1501) ∧
    (let s := withSlot .glycol 1301 (chiller (fun c => { c with guardState := .hot, limit := 1 }) base)
     s.chl.guardState = .hot ∧ (1500 : Int) - 200 < 1301) ∧
    (let s := withSlot .glycol 1300 (chiller (fun c => { c with guardState := .hot, limit := 1 }) base)
     s.rte.slots[destIdx .glycol] = some { value := 1300, marks := .none, channel := 0 } ∧ (1300 : Int) ≤ 1500 - 200) := by decide +kernel

/-- The queue holds `n` CHARGEs. -/
def queued (n : Nat) (s : State) : State := gas (fun m => { m with queue := List.replicate n { need := .charge 5, pressure := 900 } }) s

theorem meets_ChecksAreRaised :
    status (.gasCheck (.params ())) (manifoldIn .lockout base) = some .lockedOut ∧ status (.gasCheck (.params ())) (manifoldIn .down base) = some .busy ∧
    status (.gasCheck (.params ())) (queued 8 base) = some .busy ∧ status (.gasCheck (.params ())) (queued 7 base) = some .ok ∧
    status (.gasCheck (.params ())) (serving (operation .check 1500 .settling 0 none) running) = some .ok ∧
    status (.gasCheck (.params ())) running = some .ok ∧
    status (.gasUnlock (.params ())) (gas (fun m => { m with leak := true }) (manifoldIn .down base)) = some .busy ∧
    status (.gasUnlock (.params ())) (manifoldIn .lockout base) = some .ok ∧
    (let s := gas (fun m => { m with intervalTimer := 24 * 3600 }) running
     Awake s ∧ s.mgp.part = .running ∧ s.man.checkInterval ≠ 0 ∧ s.man.checkInterval * 3600 ≤ s.man.intervalTimer ∧ s.man.state = .idle ∧ s.man.queue = [] ∧
       s.man.op = none) ∧
    (∀ n ∈ [7, 8], let s := gas (fun m => { m with intervalTimer := 24 * 3600 }) (queued n (serving (operation (.charge 0) 900 .active 0 (some 1)) running))
     s.man.state = .busy ∧ s.man.checkInterval * 3600 ≤ s.man.intervalTimer ∧ s.man.queue.length = n ∧
       on .checkIntervalExpiry s (fun t => decide (t.man.queue.length = 8 ∧ t.man.intervalTimer = 0)) = true) ∧
    (manifoldIn .lockout base).man.queue = [] ∧ (manifoldIn .lockout base).man.op = none := by decide +kernel

/-- The rows of Table 7-4. -/
theorem meets_ANeedIsAnsweredByTable7_4 :
    let charge : GasEntry := { need := .charge 0, pressure := 900 }
    let pour : GasEntry := { need := .pour 0 0, pressure := 950 }
    let busy := serving { operation (.pour 1 1) 900 .active 0 none with pours := [{ tap := 1, bay := 1 }] } running
    (raiseNeed true pour (manifoldIn .down running)).1 = .refused .manifoldDown ∧ (raiseNeed true charge (manifoldIn .lockout running)).1 = .unqueued ∧
    (raiseNeed true charge (gas (fun m => { m with supplyLow := true }) running)).1 = .unqueued ∧
    (raiseNeed true { charge with need := .charge 5 } (queued 1 busy)).1 = .alreadyHeld ∧
    (raiseNeed true pour busy).1 = .joined ∧ (raiseNeed true { pour with pressure := 951 } busy).1 = .queued ∧
    (raiseNeed true charge running).1 = .inService ∧ owner .regulator running = some .man ∧
    (raiseNeed true charge (queued 8 busy)).1 = .unqueued ∧ (raiseNeed true { pour with pressure := 951 } (queued 8 busy)).1 = .refused .gasBusy ∧
    (raiseNeed true charge (queued 7 base)).1 = .queued := by decide +kernel

theorem meets_OperationsSettleAndEnd :
    (let s := serving (operation (.charge 0) 900 .settling 30 none) running
     s.mgp.part = .running ∧ s.man.op = some (operation (.charge 0) 900 .settling 30 none) ∧ Awake s ∧ 30 ≤ 30 ∧ s.man.queue = [] ∧
       s.man.settleTolerance < 951 - 900 ∧ (950 : Int) - 900 ≤ s.man.settleTolerance ∧ s.man.settleTolerance < 900 - 849 ∧ (900 : Int) - 850 ≤ s.man.settleTolerance ∧
       (settleTest 951 s).man.op.map (·.sub) = some .settling ∧ (settleTest 850 s).man.op.map (·.sub) = some .active) ∧
    (let s := serving { operation (.pour 0 0) 900 .settling 30 none with pours := [{ tap := 0, bay := 0 }] } (pours (aPour false) running)
     (s.tapRec 0).pour = some (aPour false) ∧ s.mgp.up.length < 10 ∧ (aPour false).pouring = false ∧
       on .operationSettleTimeout s (fun t => decide ((t.tapRec 0).pour = none)) = true) ∧
    (let s := serving (operation (.charge 0) 900 .active 0 (some 10)) running
     s.man.pulseLength ≤ 10 ∧ s.man.queue = []) ∧
    (let s := serving (operation (.purge 0 10) 900 .active 0 (some 10)) running
     (s.tapRec 0).pour = none ∧ s.man.queue = [] ∧ on .purgeComplete s (fun t => decide ((t.tapRec 0).purgeStatus = .clean)) = true) ∧
    inCarb 0 (brewing [.carb 400 1500 10] { kegRuns .scheduled with settle := some 0, chargePending := true }) = true := by decide +kernel

/-- A PURGE of tap 1 that fails to settle with `q` queued: its need is raised again, and a queued CHECK does not go before it; and one with a pour beneath it. -/
theorem meets_OperationsSettleAndEnd_purge :
    let check : GasEntry := { need := .check, pressure := 1500 }
    let mine : GasEntry := { need := .purge 0 10, pressure := 800 }
    let s := gas (fun m => { m with queue := [check] }) (serving (operation (.purge 0 10) 800 .settling 30 none)
      (tap1 (fun r => { r with state := .purging, purgeRequest := .inService, purgeStatus := .due }) running))
    (s.man.state = .busy ∧ (s.tapRec 0).pour = none ∧ (s.tapRec 0).purgeStatus ≠ .clean ∧ s.man.queue.length < 8 ∧
      nextServed (fun _ => true) [check, mine] = some mine ∧ nextServed (fun y => decide (y = 1)) [check, mine] = some check ∧
      nextServed (fun y => decide (y = 1)) [mine] = none ∧
      on .operationSettleTimeout s (fun t => decide ((t.tapRec 0).purgeRequest = .inService ∧ t.man.queue = [check])) = true) ∧
    (let u := tap1 (fun r => { r with pour := some (aPour false) }) s
     on .operationSettleTimeout u (fun t => decide ((t.tapRec 0).purgeRequest = .none ∧ t.man.op.map (·.need) = some .check)) = true) := by decide +kernel

/-- A POUR chosen from the queue takes along the one within its tolerance. -/
theorem meets_OperationsSettleAndEnd_queue :
    let pour : GasEntry := { need := .pour 0 0, pressure := 900 }
    let near : GasEntry := { need := .pour 1 1, pressure := 950 }
    let far : GasEntry := { need := .charge 2, pressure := 900 }
    let s := gas (fun m => { m with queue := [far, pour, near] }) (serving (operation .check 1500 .settling 30 none) running)
    nextServed (idleAfter [] s) s.man.queue = some pour ∧ goesAlong s.man.settleTolerance 900 near = true ∧
    on .operationSettleTimeout s (fun t => decide (t.man.queue = [far] ∧
      t.man.op.map (·.pours) = some [{ tap := 0, bay := 0 }, { tap := 1, bay := 1 }])) = true := by decide +kernel

/-- An ACTIVE check from P0 1400, with both slots. -/
def checking (p1 c : Int) : State :=
  withSlot .manifold p1 (withSlot .cylinder c (serving { operation .check 1500 .active 0 (some 60) with p0 := some 1400 } running))

theorem meets_ACheckLatchesItsResult :
    (let s := checking 1299 7999
     Awake s ∧ s.mgp.part = .running ∧ s.man.op = some { operation .check 1500 .active 0 (some 60) with p0 := some 1400 } ∧ s.man.checkWindow ≤ 60 ∧
       s.rte.slots[destIdx .manifold] = some { value := 1299, marks := .none, channel := 0 } ∧
       s.rte.slots[destIdx .cylinder] = some { value := 7999, marks := .none, channel := 0 } ∧ s.man.leakLimit < 1400 - 1299 ∧ (7999 : Int) < s.man.lowThreshold ∧
       s.man.supplyLow = false) ∧
    (let s := checking 1300 8000
     ¬ s.man.leakLimit < 1400 - 1300 ∧ ¬ (8000 : Int) < s.man.lowThreshold ∧ s.man.queue = []) ∧
    (let s := queued 2 (checking 1300 8000)
     nextServed (idleAfter [] s) s.man.queue ≠ none ∧
       on .checkWindowClose s (fun t => decide (t.man.op = some (settlingOp (.charge 5) 900 []) ∧ t.man.queue.length = 1)) = true) := by decide +kernel

/-! ### Taps -/

theorem settings_legal : SettingsLegal TapSettings.reset ∧ SettingsLegal { TapSettings.reset with stallTime := 15, smallVolume := 50, binding := some 5 } := by
  simp [SettingsLegal, TapSettings.reset]

theorem meets_TapLoadReplacesTheSettings :
    running.mgp.part = .running ∧ base.mgp.part = .held ∧ MayBind 0 none base ∧ ¬ MayBind 0 (some 5) base ∧
    MayBind 0 (some 5) (routed (channelIn .live 1) (some (.line 0)) base) ∧
    (∀ x, SettingsLegal x → ({ tapFields TapSettings.reset with stallTime := 16 } : TapFields) ≠ tapFields x) ∧
    (statusAt TapSettings.reset 239 = .clean ∧ statusAt TapSettings.reset 240 = .due ∧ statusAt TapSettings.reset 269 = .due ∧
      statusAt TapSettings.reset 270 = .overdue) := by
  refine ⟨rfl, rfl, .inl rfl, ?_, .inr ⟨0, rfl, rfl⟩, fun x hx e => ?_, by decide +kernel⟩
  · rintro (h | ⟨c, hc, _⟩)
    · simp at h
    · revert hc
      revert c
      decide +kernel
  · have h1 : (16 : Int) = x.stallTime := congrArg TapFields.stallTime e
    have h2 : x.stallTime ≤ 15 := hx.2.2.2.2.2.2.2.2.2.2.2.2.2.2.2
    omega

theorem meets_BindingAndLocking :
    ((pours (aPour false) base).tapRec 0).state ≠ .idle ∧ (base.tapRec 0).state = .idle ∧
    (let s := tap1 (fun r => { r with set := { r.set with binding := some 0 } }) running
     s.mgp.part = .running ∧ purgeActive 0 s = false ∧ (s.tapRec 0).set.binding.isSome) ∧
    ((pours (aPour true) running).tapRec 0).pour = some (aPour true) ∧ (pours (aPour true) running).mgp.up.length < 12 := by decide +kernel

/-- A cellar in which tap 1 pours: bay 1 SERVING, the panel ONLINE. -/
def pourReady : State :=
  withNode 8 .online 0 (tap1 (fun r => { r with set := { r.set with binding := some 0 } }) (withKeg (kegRuns .serving) running))

theorem meets_PoursAreCheckedAndAccepted :
    firstFailure 0 pourReady = none ∧ (pourReady.tapRec 0).set.binding = some 0 ∧ pourReady.man.state = .idle ∧
    firstFailure 0 base = some .held ∧ firstFailure 0 running = some .unbound ∧ firstFailure 0 (withNode 8 .unseen 0 pourReady) = some .panelLost ∧
    status (.pour (.params { tap := 1, volume := 50 })) pourReady = some .ok ∧
    status (.pour (.params { tap := 1, volume := 1000 })) pourReady = some .ok ∧
    status (.pour (.params { tap := 1, volume := 49 })) pourReady = some .badValue ∧
    status (.pour (.params { tap := 1, volume := 1001 })) pourReady = some .badValue ∧
    status (.pour (.params { tap := 1, volume := 50 })) (queued 8 (serving (operation .check 1500 .settling 0 none) pourReady)) = some (.pour .gasBusy) := by
  decide +kernel

theorem meets_PoursAreCheckedAndAccepted_queue :
    QueueFull 900 (queued 8 (serving (operation .check 1500 .settling 0 none) pourReady)) ∧ ¬ QueueFull 900 pourReady ∧
    JoinsAt 900 (serving { operation (.pour 1 1) 950 .active 0 none with pours := [{ tap := 1, bay := 1 }] } pourReady) := by
  refine ⟨⟨?_, by decide +kernel, by decide +kernel⟩, fun h => h.2.1 (by decide +kernel), ⟨_, rfl, by decide +kernel⟩⟩
  rintro ⟨op, h, hp, -⟩
  cases h
  exact absurd hp (by decide +kernel)

theorem meets_PoursEndWithTheirReasons :
    (base.tapRec 0).pour = none ∧
    (let s := pours { aPour false with wait := 60 } running
     Awake s ∧ (s.tapRec 0).pour = some { aPour false with wait := 60 } ∧ s.rte.slots[destIdx (.line 0)] = none ∧ s.mgp.up.length < 12) ∧
    (let s := withSlot (.line 0) 400 (pours { aPour false with wait := 60 } running)
     s.rte.slots[destIdx (.line 0)] = some { value := 400, marks := .none, channel := 0 } ∧ (400 : Int) ≤ (s.tapRec 0).set.lineLimit) ∧
    (let s := pours { aPour true with stall := 5 } (withKeg (kegRuns .serving) running)
     Awake s ∧ (s.tapRec 0).pour = some { aPour true with stall := 5 } ∧ (s.tapRec 0).set.stallTime ≤ 5 ∧ (s.keg 0).phase = .serving) ∧
    (let s := pours { aPour true with stall := 5 } (withKeg { kegRuns .serving with pours := 1 } running)
     inFlight 0 s = 1 ∧ on (.stallTimerExpiry 0) s (fun t => decide (inFlight 0 t = 0 ∧ (t.keg 0).pours = 0)) = true) := by
  decide +kernel

/-- Tap 1's pour ends: the last of the set with a CHARGE queued, in RUNNING and in HELD; one of two from one keg; and one that only its entry stands for. -/
theorem meets_PoursEndWithTheirReasons_manifold :
    let charge : GasEntry := { need := .charge 2, pressure := 900 }
    let op := fun l => { operation (.pour 0 0) 900 .active 0 none with pours := l }
    let held := gas (fun m => { m with state := .busy, op := some (op [{ tap := 0, bay := 0 }]), queue := [charge] }) (pours (aPour true) base)
    let last := { held with mgp := running.mgp }
    let shared := gas (fun m => { m with op := some (op [{ tap := 0, bay := 0 }, { tap := 1, bay := 0 }]) }) last
    let waits := gas (fun m => { m with op := some (operation .check 1500 .settling 0 none), queue := [{ need := .pour 0 0, pressure := 900 }, charge] }) last
    ((last.tapRec 0).purgeStatus = .clean ∧ (last.tapRec 0).purgeRequest ≠ .queued ∧ last.mgp.part = .running ∧ held.mgp.part = .held ∧
      owner (.gasIn 0) last = some .man) ∧
    ((pourEnded 0 last).man.op = some (settlingOp (.charge 2) 900 []) ∧ (pourEnded 0 held).man.op = none ∧ (pourEnded 0 held).man.queue = [charge]) ∧
    ((pourEnded 0 shared).man.op = some (op [{ tap := 1, bay := 0 }]) ∧ (pourEnded 0 waits).man.queue = [charge] ∧ (pourEnded 0 waits).man.op = waits.man.op) := by
  decide +kernel

/-- Tap 1 bound, `m` minutes on its purge timer and `sec` seconds. -/
def purging (m sec : Nat) (st : PurgeStatus) : State :=
  tap1 (fun r => { r with set := { r.set with binding := some 0 }, purgeMinutes := m, purgeSeconds := sec, purgeStatus := st, purgeRetry := some 60, blink := some 5 })
    running

theorem meets_PurgeTimersRaiseTheNeed :
    (let s := purging 239 60 .clean
     Awake s ∧ s.mgp.part = .running ∧ (s.tapRec 0).set.binding.isSome ∧ (s.tapRec 0).set.purgeInterval ≠ 0 ∧
       (s.tapRec 0).purgeMinutes < (s.tapRec 0).set.purgeInterval + (s.tapRec 0).set.purgeGrace ∧ 60 ≤ (s.tapRec 0).purgeSeconds) ∧
    (purging 269 60 .due).tap.taps[0].purgeStatus ≠ .overdue ∧ statusAt TapSettings.reset 270 = .overdue ∧
    ((purging 270 0 .overdue).tapRec 0).purgeRetry = some 60 ∧ ((purging 270 0 .overdue).tapRec 0).blink = some 5 := by decide +kernel

theorem meets_PurgeTimersRaiseTheNeed_need : NeedsPurge 0 (purging 270 0 .overdue) ∧ (purging 270 0 .overdue).man.state = .idle := by
  refine ⟨⟨by decide +kernel, rfl, rfl, rfl, by decide +kernel, by decide +kernel, fun e h => ?_, fun op h => ?_⟩, rfl⟩
  · exact absurd h List.not_mem_nil
  · exact absurd (show (none : Option Operation) = some op from h) (by simp)

/-- Panel data with flow counts `f₁` and `f₂`, press counters `p` and the choice `c`. -/
def panel (f₁ f₂ : BitVec 16) (p : BitVec 8) (c : Press) : Vector PanelTap 2 := #v[{ flow := f₁, presses := p, choice := c }, { flow := f₂, presses := p, choice := c }]

/-- Both taps pour from bay 1, which holds `remaining` ml; their counts stand at 65535 and 0, their press counters at 3. -/
def bothPour (remaining : Nat) : State :=
  let s := withKeg { kegRuns .serving with remaining := remaining, pours := 2 } running
  { s with tap := { s.tap with taps := #v[
      { TapRecord.reset with state := .pouring, pour := some (aPour true), lastFlow := some 65535, lastPresses := some 3, set := { TapSettings.reset with binding := some 0 } },
      { TapRecord.reset with state := .pouring, pour := some { aPour true with number := 5 }, lastFlow := some 0, lastPresses := some 3,
                             set := { TapSettings.reset with binding := some 0 } }] } }

/-- 4 pulses at 4000 a litre make 1 ml, 3 pulses none; the count wraps; at 1 ml of 200, at the target, at the keg's last ml, and the metered volume saturates. -/
theorem meets_PanelDataIsMetered :
    (flowDelta 65535 3 = 4 ∧ (metering 4000 4 (aPour true)).2 = 1 ∧ (metering 4000 3 (aPour true)).2 = 0 ∧
      (metering 4000 4 { aPour true with metered := 65535 }).1.metered = 65535) ∧
    (let s := bothPour 1000
     ((s.tapRec 0).pour = some (aPour true) ∧ drawnFrom (panel 3 4 3 .stop) 0 0 s = 1 ∧ drawnFrom (panel 3 4 3 .stop) 0 1 s = 1 ∧
       ((panelData false (panel 3 4 3 .stop) s).keg 0).remaining = 998 ∧
       (((panelData false (panel 799 4 3 .stop) s).tapRec 0).pour).isNone)) ∧
    (((panelData false (panel 3 0 3 .stop) (bothPour 1)).keg 0).phase = .spent ∧ drawnFrom (panel 3 0 3 .stop) 0 1 (bothPour 1) = 0) ∧
    (((panelData false (panel 65535 4 3 .stop) (bothPour 1)).keg 0).phase = .spent ∧ drawnFrom (panel 65535 4 3 .stop) 0 0 (bothPour 1) = 0) ∧
    (((panelData false (panel 3 4 3 .stop) (bothPour 2)).keg 0).phase = .spent) ∧
    ((bothPour 1).mgp.up.length < 12 ∧ (1 : Tap) ≠ 0) := by decide +kernel

theorem meets_PanelDataIsMetered_quiet : NoPress (panel 3 4 3 .stop) (bothPour 1000) := by
  unfold NoPress
  decide +kernel

/-- A press that cancels, a STOP without a pour, and requests accepted and refused by a check and by a full queue. -/
theorem meets_PanelDataIsMetered_presses :
    (let s := bothPour 1000
     (s.tapRec 0).lastPresses = some 3 ∧ (3 : BitVec 8) ≠ 4 ∧ ((pressTap 0 { flow := 0, presses := 4, choice := .stop } s).tapRec 0).pour = none) ∧
    (let s := tap1 (fun r => { r with lastPresses := some 3 }) pourReady
     (s.tapRec 0).pour = none ∧ firstFailure 0 s = none ∧ (s.tapRec 0).set.binding = some 0 ∧
       ((pressTap 0 { flow := 0, presses := 4, choice := .large } s).tapRec 0).pour.map (·.target) = some 400) ∧
    (let s := tap1 (fun r => { r with lastPresses := some 3 }) (withNode 8 .unseen 0 pourReady)
     firstFailure 0 s = some .panelLost ∧ s.mgp.up.length < 14 ∧
       ((pressTap 0 { flow := 0, presses := 4, choice := .small } s).tapRec 0).blink = some 0) := by decide +kernel

theorem meets_PanelDataIsMetered_reply :
    let r : Reply := { zeros with panel := some (panel 3 4 3 .stop) }
    let s := withNode 8 .online 0 (exchanging 8 .awaiting 0 (bothPour 1000))
    Awake s ∧ s.blc.exchange.map (·.node) = some panelNode ∧ judgeReply 8 (readyChars 8 r) = .ready r ∧ (∀ c : Chan, (s.chan c).record.node ≠ panelNode) ∧
    (s.node panelNode).state = .online := by decide +kernel

/-! ### Invariants -/

theorem meets_EveryStepKeepsThePool : PoolOk base := by
  unfold PoolOk
  decide +kernel

theorem meets_EveryStepKeepsPumpAndCues : ShownOk base := by
  unfold ShownOk
  decide +kernel

theorem meets_EveryStepKeepsTheQueues : UpQueueOk base ∧ UrgentOk base ∧ ReceiverOk base ∧ GasQueueOk base ∧ base.mgp.up.length ≤ 16 := by
  simp only [UpQueueOk, RecordsOk, UrgentOk, ReceiverOk, GasQueueOk]
  decide +kernel

theorem meets_EveryStepKeepsTheQueues_link : LinkOk base :=
  ⟨by simp only [NodeOk]; decide +kernel, fun e h => by cases h; decide⟩

theorem meets_EveryStepKeepsTheRecords : KegsOk base ∧ FlagsOk flagged := by
  simp only [KegsOk, KegOk, FlagsOk, FlagOk]
  decide +kernel

theorem meets_EveryStepKeepsTheRecords_routes : RoutesOk base := by
  have h : ∀ c : Chan, base.rte.routes[c].dest = none := by decide +kernel
  intro c c' d hd
  rw [h c] at hd
  exact absurd hd (by simp)

/-- Bay 1's keg holds the one slot, and bay 2's and line 1 wait. -/
theorem meets_EveryStepKeepsTheChiller : ChillerOk base ∧
    ChillerOk (lined true .wantCool (chiller (fun c => { c with
        configured := 1, limit := 1, holders := [{ who := .keg 0, turn := none }], queue := [.line 0, .keg 1]
        thermos := upd (upd c.thermos 0 fun _ => some (thermoAt .cooling 451)) 1 fun _ => some (thermoAt .wantCool 451) })
      { running with kegs := upd (upd running.kegs 0 fun _ => kegRuns .serving) 1 fun _ => kegRuns .serving })) := by
  refine ⟨⟨?_, ?_, ?_, ?_⟩, ?_, ?_, ?_, ?_⟩ <;>
  · simp only [SlotsOk, RequestersOk, DemandsOk, ControlOk]
    decide +kernel

theorem meets_EveryStepKeepsTheRecords_channels : ChannelsOk base := by
  intro c
  have h : base.chan c = Channel.reset := by
    revert c
    decide +kernel
  rw [h]
  simp [ChannelOk, Channel.reset, ChannelRecord.reset, ChannelState.takes]

end Sys2Proof.Tests
end

section
/-! PROOFS. What one step touches: the frames of the events, of the requests, and of what the part does while no command waits. -/

namespace Sys2Proof.Proofs

open Sys2Proof.Machine Sys2Proof.Safety Sys2Proof.Claims

/-! ## Frames of the events -/

theorem live_touches {l : List Part} {s : State} {occurs : Bool} {f : State → State} (h : Touches l s (f s)) (h0 : .line ∈ l) (h1 : .image ∈ l)
    (h2 : .retry ∈ l) : Touches l s (live occurs f s) :=
  Touches.branch (fun _ => finish_touches h h0 h1 h2) fun _ => Touches.refl l s

theorem quiet_touches {l : List Part} {s : State} {occurs : Bool} {f : State → State} (h : occurs = true → Touches l s (f s)) :
    Touches l s (quiet occurs f s) :=
  Touches.branch (fun ho => h (by simp_all)) fun _ => Touches.refl l s

/-- A work on the timers alone of one of the timed blocks, kegs among them. -/
theorem secondKegs_touches {l : List Part} {s t : State} (h : Touches l s t) (h0 : .kegs ∈ l) :
    Touches l s { t with kegs := t.kegs.map Keg.second } := by
  have hk : ∀ k : Keg, k.second.chain = k.chain ∧ k.second.phase = k.phase ∧ k.second.loaded = k.loaded ∧ k.second.remaining = k.remaining ∧
      k.second.buckets = k.buckets ∧ k.second.underControl = k.underControl := by
    intro k
    unfold Keg.second
    split <;> simp
  have hg : ∀ d : Bay, ({ t with kegs := t.kegs.map Keg.second } : State).keg d = (t.keg d).second := fun d => by simp
  refine h.trans fun p hp => ?_
  cases p
  case kegsOk => exact fun ho d => by simpa only [KegOk, hg, hk] using ho d
  case poolOk =>
    rintro ⟨p1, p2, p3, p4⟩
    have hx : chainEntries ({ t with kegs := t.kegs.map Keg.second } : State) = chainEntries t := by simp only [chainEntries, hg, hk]
    exact ⟨by rw [hx]; exact p1, p2, fun i d => by rw [hg, (hk _).1]; exact p3 i d,
      fun d hd => by rw [hg, (hk _).1]; exact p4 d (by rwa [hg, (hk _).2.1] at hd)⟩
  case released => exact fun d hd => by simpa only [hg, hk] using hd
  case chains =>
    show (t.kegs.map Keg.second).map (·.chain) = t.kegs.map (·.chain)
    simp [Function.comp_def, hk]
  case phases =>
    show (t.kegs.map Keg.second).map (·.phase) = t.kegs.map (·.phase)
    simp [Function.comp_def, hk]
  case volumes =>
    show (t.kegs.map Keg.second).map (fun k => (k.loaded, k.remaining)) = t.kegs.map (fun k => (k.loaded, k.remaining))
    simp [Function.comp_def, hk]
  all_goals simp_all [Same, LinkOk, UrgentOk, ChannelsOk, GasQueueOk, FlagsOk]

/-- What one second of the timebase may reach. -/
def secondParts : List Part := [.kegs, .chl, .man, .taps, .retry]

theorem countSecond_touches (s : State) : Touches secondParts s (countSecond s) := by
  have h : Touches secondParts s (forAll allTaps (fun t s' => s'.modTap t (TapRecord.second (purgeCounts t s))) s) :=
    forAll_touches (Touches.refl _ s) fun x u hu => modTap_touches hu (.inl (by decide)) (.inr fun _ => rfl) (.inl (by decide))
      (.inr fun r hr => by simp [TapRecord.second, hr])
  exact modMan_touches (modChl_touches (secondKegs_touches h (by decide)) (by decide) (.inr fun _ => ⟨rfl, rfl, rfl, rfl⟩)) (by decide)
    (.inr fun _ => ⟨rfl, rfl, rfl, rfl, rfl, rfl, rfl⟩) (.inr fun _ hx => hx)

theorem setPending_of_touches {l : List Part} {s t : State} {x : List Instr} (h : Touches l s t) : Touches (.control :: l) s (t.setPending x) :=
  setPending_touches (h.mono fun _ hp => List.mem_cons_of_mem _ hp) (by simp)

/-- What the part may reach while no command waits. -/
theorem idle_touches (s : State) : Touches (.control :: .free :: secondParts) s (idle s) := by
  unfold idle
  refine Touches.branch (fun _ => Touches.refl _ s) fun _ => ?_
  split
  · exact setPending_touches (Touches.refl _ s) (by decide)
  · obtain ⟨l, x, -, ho⟩ := anyOrder_spec (dueCommands (countSecond s)) (countSecond s)
    have h : Touches (.free :: secondParts) s ((countSecond s).setFree x) :=
      setFree_touches ((countSecond_touches s).mono fun _ hp => List.mem_cons_of_mem _ hp) (by decide)
    simp only [tick, ho]
    exact setPending_of_touches h

/-! ## Frames of the commands -/

/-- All that an event of the links or of a timer can change; the RESPONSE frames, the receiver queue and the settings stand aside. -/
def eventWork : List Part :=
  [.control, .line, .nodes, .image, .chans, .slots, .drawn, .counts, .chains, .phases, .volumes, .kegs, .sch, .chl, .latches, .man,
   .taps, .retry, .port, .up, .atn, .free, .pourless, .released]

/-- The events: the commands that come from the links, from the nodes and from the timers, without the resets, and without the two
that move frames through the receiver queue and the upward queue. -/
def isEvent : Instr → Bool
  | .roundTimerExpiry | .exchangeFrameSent | .readyReply _ | .busyReply _ | .badReply _ | .replyTimeout | .retryTimerExpiry
  | .discardIntervalEnd | .strayBayCharacter _ | .activityTimerExpiry _ | .stepDurationExpiry _ | .rampTimerExpiry _ | .quietMaximumExpiry _
  | .carbSettleExpiry _ | .turnTimerExpiry _ | .operationSettleTimeout | .pulseEnd | .purgeComplete | .checkWindowClose | .checkIntervalExpiry
  | .pourWaitExpiry _ | .stallTimerExpiry _ | .purgeTimerMinute _ | .purgeRetryExpiry _ | .blinkWindowEnd _ | .badFrame _ _ | .frameGapTimeout
  | .strayLinkByte _ | .hardwareResetEnd => true
  | _ => false

theorem discardFrame_touches {l : List Part} {s t : State} {x : List Byte} (h : Touches l s t) (h0 : .port ∈ l) (h1 : .up ∈ l) (h2 : .atn ∈ l) :
    Touches l s (discardFrame x t) :=
  raiseLinkError_touches (modMgp_touches h (.inl h0) (.inr fun _ => rfl) (.inr fun _ => ⟨rfl, rfl⟩) (.inr fun _ => rfl) (.inr fun _ hx => hx)) h1 h2

/-- R8, R17. The end of a frame touches the line alone. -/
theorem frameSent_touches {l : List Part} {s t : State} (h : Touches l s t) (h0 : .line ∈ l) : Touches l s (frameSent t) := by
  refine modBlc_touches h (.inl h0) (.inr fun _ => ⟨rfl, rfl⟩) (.inr fun x hx => ⟨hx.1, ?_⟩) (.inr fun _ hx => hx)
  intro e he
  obtain ⟨y, hy, rfl⟩ := Option.map_eq_some_iff.1 he
  exact hx.2 y hy

theorem roundExpired_touches {l : List Part} {s t : State} (h : Touches l s t) (h0 : .line ∈ l) : Touches l s (roundExpired t) :=
  Touches.branch (fun _ => modBlc_touches h (.inl h0) (.inr fun _ => ⟨rfl, rfl⟩) (.inr fun _ hx => hx) (.inr fun _ hx => hx))
    fun _ => beginRound_touches h h0

/-- R17. The end of a discard interval, before the next exchange is chosen. -/
theorem discardEnd_touches {l : List Part} {s t : State} (h : Touches l s t) (h0 : .line ∈ l) :
    Touches l s (t.modBlc fun x => { x with discard := .none }) :=
  modBlc_touches h (.inl h0) (.inr fun _ => ⟨rfl, rfl⟩) (.inr fun _ hx => hx) (.inr fun _ hx => hx)

/-- R12. The next attempt of an exchange on the line touches the line alone. -/
theorem retry_touches {s : State} {x : Exchange} (hx : s.blc.exchange = some x) : Touches [.line] s (startAttempt x s) := by
  have h : Touches [.linkOk, .line] s (startAttempt x s) := startAttempt_touches (Touches.refl _ s) (by decide) (.inl (by decide))
  refine h.close fun hl => ⟨hl.1, ?_⟩
  rintro _ ⟨⟩
  exact hl.2 x hx

theorem resetEnd_touches (s : State) : Touches (.control :: .line :: .nodes :: eventParts) s (finish (beginRound { s with inReset := false })) := by
  have h : Touches (.control :: .line :: .nodes :: eventParts) s { s with inReset := false } := fun p hp => by
    cases p <;> simp_all [Same, LinkOk, UrgentOk, ChannelsOk, PoolOk, chainEntries, KegsOk, GasQueueOk, FlagsOk]
  exact finish_touches (beginRound_touches h (by decide)) (by decide) (by decide) (by decide)

theorem next_inj {s t : State} (h : (Host.Outcome.next s : Next) = .next t) : s = t := by
  cases h
  rfl

/-- What an event touches. -/
theorem exec_event_touches {i : Instr} (hi : isEvent i = true) {s t : State} (h : exec i s = .next t) : Touches eventWork s t := by
  have h0 := Touches.refl eventWork s
  have hl : ∀ {occurs : Bool} {f : State → State}, Touches eventWork s (f s) → Touches eventWork s (live occurs f s) :=
    fun g => live_touches g (by decide) (by decide) (by decide)
  cases i <;> simp only [isEvent, Bool.false_eq_true] at hi
  case hardwareResetEnd =>
    cases next_inj h
    exact Touches.branch (fun _ => (resetEnd_touches s).mono (by decide)) fun _ => h0
  case roundTimerExpiry => exact next_inj h ▸ hl (roundExpired_touches h0 (by decide))
  case exchangeFrameSent => exact next_inj h ▸ quiet_touches fun _ => frameSent_touches h0 (by decide)
  case discardIntervalEnd => exact next_inj h ▸ hl (discardEnd_touches h0 (by decide))
  case strayBayCharacter c | strayLinkByte c => exact next_inj h ▸ h0
  case badFrame | frameGapTimeout => exact next_inj h ▸ quiet_touches fun _ => discardFrame_touches h0 (by decide) (by decide) (by decide)
  case retryTimerExpiry =>
    simp only [exec, execRetryTimerExpiry] at h
    split at h
    · exact next_inj h ▸ quiet_touches fun _ => (retry_touches ‹_›).mono (by decide)
    · exact next_inj h ▸ h0
  case readyReply | busyReply | badReply | replyTimeout | rampTimerExpiry | pulseEnd | purgeComplete | checkWindowClose | stallTimerExpiry =>
    simp only [exec, execReadyReply, execBusyReply, execBadReply, execReplyTimeout, execRampTimerExpiry, execPulseEnd, execPurgeComplete,
      execCheckWindowClose, execStallTimerExpiry] at h
    split at h
    · exact next_inj h ▸ hl (by simp [eventWork])
    · exact next_inj h ▸ h0
  all_goals exact next_inj h ▸ hl (by simp [eventWork])

/-! ## Frames of the requests, and of every step -/

/-- All that a step can change: every field. What it keeps are the bounds, each a relation from `linkOk` on. -/
def stepWork : List Part :=
  eventWork ++ [.records, .routes, .chlSettings, .manSettings, .tapSettings, .receiver, .responses, .masks, .flags, .sentOn]

/-- What carrying out any request touches; the RESPONSE frames stand aside. -/
def handlerWork : List Part :=
  eventWork ++ [.records, .routes, .chlSettings, .manSettings, .tapSettings, .receiver, .masks, .flags]

theorem handler_touches (r : Request) (s : State) : Touches handlerWork s (handlerOf r s).2 := by
  by_cases hr : ∃ p, r = .softReset p
  · obtain ⟨p, rfl⟩ := hr
    refine withParams_touches (Touches.refl _ s) fun _ => ?_
    simp [handlerWork, eventWork]
  · exact (handlerOf_touches r (fun p e => hr ⟨p, e⟩) s).mono (by decide)

theorem closeOf_touches {l : List Part} {s t : State} {r : Request} (h : Touches l s t) (h0 : .line ∈ l) (h1 : .image ∈ l) (h2 : .retry ∈ l) :
    Touches l s (closeOf r t) := by
  unfold closeOf
  split
  · exact h
  · exact finish_touches h h0 h1 h2

/-- The state once a request has been carried out and its event has ended, before its RESPONSE. -/
def carriedOut (r : Request) (s : State) : State :=
  if (handlerOf r s).1.status = .ok then closeOf r (handlerOf r s).2 else (handlerOf r s).2

/-- All that the command of a request can do. -/
theorem exec_request_cases (tag : Byte) (r : Request) {s t : State} (h : exec (frameCommand { tag := tag, request := r }) s = .next t) :
    t = s ∨ Served tag r s ∧ t = respond tag r (handlerOf r s).1 (carriedOut r s) := by
  rw [exec_frameCommand] at h
  cases next_inj h
  by_cases hs : Served tag r s
  · exact .inr ⟨hs, serve_of_served hs⟩
  · exact .inl (serve_of_not_served hs)

theorem carriedOut_touches (r : Request) (s : State) : Touches handlerWork s (carriedOut r s) :=
  Touches.branch (fun _ => closeOf_touches (handler_touches r s) (by decide) (by decide) (by decide)) fun _ => handler_touches r s

/-- The commands, by what brings them: a hardware reset, an event, a frame that comes or goes on the Appliance Link, or a request that is taken. -/
theorem command_cases (i : Instr) :
    i = .hardwareReset ∨ isEvent i = true ∨ (∃ bytes r, i = .applianceFrameReceived bytes r) ∨ i = .upwardFrameTransmit ∨
      ∃ tag r, i = frameCommand { tag := tag, request := r } := by
  cases i
  case hardwareReset => exact .inl rfl
  case applianceFrameReceived bytes r => exact .inr (.inr (.inl ⟨bytes, r, rfl⟩))
  case upwardFrameTransmit => exact .inr (.inr (.inr (.inl rfl)))
  case channelSet tag p => exact .inr (.inr (.inr (.inr ⟨tag, .channelSet p, rfl⟩)))
  case routeLoad tag p => exact .inr (.inr (.inr (.inr ⟨tag, .routeLoad p, rfl⟩)))
  case tapLoad tag p => exact .inr (.inr (.inr (.inr ⟨tag, .tapLoad p, rfl⟩)))
  case gasSet tag p => exact .inr (.inr (.inr (.inr ⟨tag, .gasSet p, rfl⟩)))
  case chillSet tag p => exact .inr (.inr (.inr (.inr ⟨tag, .chillSet p, rfl⟩)))
  case channelSeed tag p => exact .inr (.inr (.inr (.inr ⟨tag, .channelSeed p, rfl⟩)))
  case channelSubst tag p => exact .inr (.inr (.inr (.inr ⟨tag, .channelSubst p, rfl⟩)))
  case run tag p => exact .inr (.inr (.inr (.inr ⟨tag, .run p, rfl⟩)))
  case hold tag p => exact .inr (.inr (.inr (.inr ⟨tag, .hold p, rfl⟩)))
  case softReset tag p => exact .inr (.inr (.inr (.inr ⟨tag, .softReset p, rfl⟩)))
  case kegLoad tag p => exact .inr (.inr (.inr (.inr ⟨tag, .kegLoad p, rfl⟩)))
  case kegSchedule tag p => exact .inr (.inr (.inr (.inr ⟨tag, .kegSchedule p, rfl⟩)))
  case kegAppend tag p => exact .inr (.inr (.inr (.inr ⟨tag, .kegAppend p, rfl⟩)))
  case kegServe tag p => exact .inr (.inr (.inr (.inr ⟨tag, .kegServe p, rfl⟩)))
  case kegAbort tag p => exact .inr (.inr (.inr (.inr ⟨tag, .kegAbort p, rfl⟩)))
  case kegResume tag p => exact .inr (.inr (.inr (.inr ⟨tag, .kegResume p, rfl⟩)))
  case kegRemove tag p => exact .inr (.inr (.inr (.inr ⟨tag, .kegRemove p, rfl⟩)))
  case kegVolume tag p => exact .inr (.inr (.inr (.inr ⟨tag, .kegVolume p, rfl⟩)))
  case kegLimits tag p => exact .inr (.inr (.inr (.inr ⟨tag, .kegLimits p, rfl⟩)))
  case tapBind tag p => exact .inr (.inr (.inr (.inr ⟨tag, .tapBind p, rfl⟩)))
  case tapLock tag p => exact .inr (.inr (.inr (.inr ⟨tag, .tapLock p, rfl⟩)))
  case pour tag p => exact .inr (.inr (.inr (.inr ⟨tag, .pour p, rfl⟩)))
  case pourCancel tag p => exact .inr (.inr (.inr (.inr ⟨tag, .pourCancel p, rfl⟩)))
  case gasCheck tag p => exact .inr (.inr (.inr (.inr ⟨tag, .gasCheck p, rfl⟩)))
  case gasUnlock tag p => exact .inr (.inr (.inr (.inr ⟨tag, .gasUnlock p, rfl⟩)))
  case attnMask tag p => exact .inr (.inr (.inr (.inr ⟨tag, .attnMask p, rfl⟩)))
  case attnAck tag p => exact .inr (.inr (.inr (.inr ⟨tag, .attnAck p, rfl⟩)))
  case qStatus tag p => exact .inr (.inr (.inr (.inr ⟨tag, .qStatus p, rfl⟩)))
  case qKeg tag p => exact .inr (.inr (.inr (.inr ⟨tag, .qKeg p, rfl⟩)))
  case qChannel tag p => exact .inr (.inr (.inr (.inr ⟨tag, .qChannel p, rfl⟩)))
  case qQueues tag p => exact .inr (.inr (.inr (.inr ⟨tag, .qQueues p, rfl⟩)))
  case qTap tag p => exact .inr (.inr (.inr (.inr ⟨tag, .qTap p, rfl⟩)))
  case qIdent tag p => exact .inr (.inr (.inr (.inr ⟨tag, .qIdent p, rfl⟩)))
  case nodeWrite tag p => exact .inr (.inr (.inr (.inr ⟨tag, .nodeWrite p, rfl⟩)))
  case nodeRead tag p => exact .inr (.inr (.inr (.inr ⟨tag, .nodeRead p, rfl⟩)))
  case unknownRequest tag c => exact .inr (.inr (.inr (.inr ⟨tag, .unknown c, rfl⟩)))
  all_goals exact .inr (.inl rfl)

/-- R169. All that a frame on the Appliance Link can do. -/
theorem exec_frameReceived_cases {bytes : List Byte} {r : Request} {s t : State} (h : exec (.applianceFrameReceived bytes r) s = .next t) :
    t = s ∨ (∃ tag, t = receiveFrame { tag := tag, request := r } s) ∨ ∃ held, t = s.modMgp fun m => { m with partialFrame := held } := by
  simp only [exec, execApplianceFrameReceived] at h
  split at h
  all_goals rw [← next_inj h]
  · unfold quiet
    split
    · exact .inr (.inl ⟨_, rfl⟩)
    · exact .inl rfl
  · unfold quiet
    split
    · exact .inr (.inr ⟨_, rfl⟩)
    · exact .inl rfl
  · exact .inl rfl
  · exact .inl rfl

/-- R173. All that the transmission of an upward frame can do: the oldest frame leaves the queue. -/
theorem exec_transmit_cases {s t : State} (h : exec .upwardFrameTransmit s = .next t) :
    t = s ∨ ∃ f rest sent bytes, s.mgp.up = f :: rest ∧ t = s.modMgp fun m => { m with up := rest, sent := sent, sentBytes := bytes } := by
  simp only [exec, execUpwardFrameTransmit] at h
  rw [← next_inj h]
  unfold quiet transmitHead
  split
  · split
    · exact .inl rfl
    · exact .inr ⟨_, _, _, _, ‹_›, rfl⟩
  · exact .inl rfl

theorem receiveFrame_touches {l : List Part} {s t : State} {f : RequestFrame} (h : Touches l s t) (h0 : .port ∈ l) (h1 : .receiver ∈ l) (h2 : .up ∈ l)
    (h3 : .atn ∈ l) : Touches l s (receiveFrame f t) := by
  have hd : Touches l s (dropPartial t) :=
    modMgp_touches h (.inl h0) (.inl h1) (.inr fun _ => ⟨rfl, rfl⟩) (.inr fun _ => rfl) (.inr fun _ hx => hx)
  exact Touches.branch
    (fun _ => modMgp_touches hd (.inl h0) (.inl h1) (.inr fun _ => ⟨rfl, rfl⟩) (.inr fun _ => rfl) (.inr fun _ hx => hx))
    fun _ => raiseLinkError_touches hd h2 h3

/-- A frame fewer in the upward queue keeps its bounds. -/
theorem recordsOk_tail {f : UpFrame} {l : List UpFrame} (h : RecordsOk (f :: l)) : RecordsOk l :=
  ⟨(List.Sublist.countP_le (List.sublist_cons_self f l)).trans h.1, (List.Sublist.countP_le (List.sublist_cons_self f l)).trans h.2⟩

/-- Every command but a hardware reset keeps the bounds. -/
theorem exec_touches {i : Instr} (hi : i ≠ .hardwareReset) {s t : State} (h : exec i s = .next t) : Touches stepWork s t := by
  have h0 := Touches.refl stepWork s
  rcases command_cases i with rfl | he | ⟨bytes, r, rfl⟩ | rfl | ⟨tag, r, rfl⟩
  · exact absurd rfl hi
  · exact (exec_event_touches he h).mono (by decide)
  · rcases exec_frameReceived_cases h with rfl | ⟨tag, rfl⟩ | ⟨held, rfl⟩
    · exact h0
    · exact receiveFrame_touches h0 (by decide) (by decide) (by decide) (by decide)
    · exact modMgp_touches h0 (.inl (by decide)) (.inr fun _ => rfl) (.inr fun _ => ⟨rfl, rfl⟩) (.inr fun _ => rfl) (.inr fun _ hx => hx)
  · rcases exec_transmit_cases h with rfl | ⟨f, rest, sent, bytes, hu, rfl⟩
    · exact h0
    · have hm : Touches (.upOk :: stepWork) s (s.modMgp fun m => { m with up := rest, sent := sent, sentBytes := bytes }) :=
        modMgp_touches (Touches.refl _ s) (.inl (by decide)) (.inr fun _ => rfl) (.inl (by decide)) (.inl (by decide)) (.inl (by decide)) (.inl (by decide))
      exact hm.close fun hr => recordsOk_tail (hu ▸ hr)
  · rcases exec_request_cases tag r h with rfl | ⟨-, rfl⟩
    · exact h0
    · exact respond_touches ((carriedOut_touches r s).mono (by decide)) (by decide) (by decide) (by decide) (by decide)

/-- The state that a hardware reset leaves. -/
def resetFrom (s : State) : State := { State.reset with pending := s.pending, free := s.free }

/-- All that a step can do: it is a hardware reset, or it keeps the bounds. -/
theorem step_cases {s t : State} (h : step s = .next t) :
    (∃ u, t = resetFrom u) ∨ (s.pending = [] ∧ t = idle s) ∨
      ∃ i l, i ≠ .hardwareReset ∧ s.pending = i :: l ∧ exec i (s.setPending l) = .next t := by
  unfold step at h
  split at h
  · exact .inr (.inl ⟨‹_›, (next_inj h).symm⟩)
  · rename_i i l hp
    by_cases hi : i = .hardwareReset
    · subst hi
      exact .inl ⟨_, (next_inj h).symm⟩
    · exact .inr (.inr ⟨i, l, hi, hp, h⟩)

theorem step_touches {s t : State} (h : step s = .next t) : (∃ u, t = resetFrom u) ∨ Touches stepWork s t := by
  rcases step_cases h with hr | ⟨-, rfl⟩ | ⟨i, l, hi, -, he⟩
  · exact .inl hr
  · exact .inr ((idle_touches s).mono (by decide))
  · exact .inr ((setPending_touches (Touches.refl _ s) (by decide)).trans (exec_touches hi he))

/-- A bound that is a part of its own, and that holds after reset, is kept. -/
theorem kept_of_part {p : Part} {inv : State → Prop} (hp : p ∉ stepWork) (hs : ∀ s t, Same p s t ↔ (inv s → inv t)) (hr : ∀ u, inv (resetFrom u)) :
    Kept inv := by
  intro s t hi h
  rcases step_touches h with ⟨u, rfl⟩ | ht
  · exact hr u
  · exact (hs s t).1 (ht p hp) hi

end Sys2Proof.Proofs
end

section
/-! PROOFS. The bounds of the queues and counts, kept by every step (R1, R5, R12, R13, R125, R169, R170, R173). -/

namespace Sys2Proof.Proofs

open Sys2Proof.Machine Sys2Proof.Safety Sys2Proof.Claims

/-! ## The receiver queue (R169) -/

/-- R168. Of the receiver queue a software reset keeps only the request being carried out. -/
theorem softReset_receiver (s : State) : (softReset s).mgp.receiver = s.mgp.receiver.take 1 := by
  have h : Touches [.taps, .up, .atn, .free, .retry, .flags] s (flagsSoftReset (tapsSoftReset s)) :=
    flagsSoftReset_touches (tapsSoftReset_touches (Touches.refl _ s) (by decide) (by decide) (by decide) (by decide) (by decide)) (by decide) (by decide)
  have hr : (flagsSoftReset (tapsSoftReset s)).mgp.receiver = s.mgp.receiver := h .receiver (by decide)
  calc (softReset s).mgp.receiver = (flagsSoftReset (tapsSoftReset s)).mgp.receiver.take 1 := rfl
    _ = s.mgp.receiver.take 1 := by rw [hr]

/-- Carrying out a request, a software reset or another, adds no request. -/
theorem carriedOut_receiver_le (r : Request) (s : State) : (carriedOut r s).mgp.receiver.length ≤ s.mgp.receiver.length := by
  have hc : ∀ u, (closeOf r u).mgp.receiver = u.mgp.receiver := fun u =>
    closeOf_touches (l := eventParts) (Touches.refl _ u) (by decide) (by decide) (by decide) .receiver (by decide)
  have hh : (handlerOf r s).2.mgp.receiver.length ≤ s.mgp.receiver.length := by
    by_cases hr : ∃ p, r = .softReset p
    · obtain ⟨p, rfl⟩ := hr
      cases p with
      | wrongLength => exact Nat.le_refl _
      | params =>
        show (softReset s).mgp.receiver.length ≤ _
        rw [softReset_receiver]
        exact List.length_take_le' 1 _
    · exact Nat.le_of_eq (congrArg List.length (handlerOf_touches r (fun p e => hr ⟨p, e⟩) s .receiver (by decide)))
  unfold carriedOut
  split
  · rwa [hc]
  · exact hh

/-- R169. A good frame joins only while fewer than 4 are held. -/
theorem receiveFrame_receiverOk (f : RequestFrame) {s : State} (h : ReceiverOk s) : ReceiverOk (receiveFrame f s) := by
  unfold receiveFrame
  dsimp only
  split
  · rename_i hl
    show (_ ++ [f]).length ≤ _
    rw [List.length_append]
    exact hl
  · have hr := raiseLinkError_touches (Touches.refl [.up, .atn] (dropPartial s)) (by decide) (by decide) .receiver (by decide)
    unfold ReceiverOk
    rw [show (raiseLinkError (dropPartial s)).mgp.receiver = s.mgp.receiver from hr]
    exact h

theorem receiverOk_of_same {s t : State} (h : Same .receiver s t) (hs : ReceiverOk s) : ReceiverOk t := by
  unfold ReceiverOk
  rwa [show t.mgp.receiver = s.mgp.receiver from h]

theorem exec_receiverOk {i : Instr} (hi : i ≠ .hardwareReset) {s t : State} (hs : ReceiverOk s) (h : exec i s = .next t) : ReceiverOk t := by
  rcases command_cases i with rfl | he | ⟨bytes, r, rfl⟩ | rfl | ⟨tag, r, rfl⟩
  · exact absurd rfl hi
  · exact receiverOk_of_same (exec_event_touches he h .receiver (by decide)) hs
  · rcases exec_frameReceived_cases h with rfl | ⟨tag, rfl⟩ | ⟨held, rfl⟩
    · exact hs
    · exact receiveFrame_receiverOk _ hs
    · exact hs
  · rcases exec_transmit_cases h with rfl | ⟨f, rest, sent, bytes, -, rfl⟩
    · exact hs
    · exact hs
  · rcases exec_request_cases tag r h with rfl | ⟨-, rfl⟩
    · exact hs
    · unfold ReceiverOk
      rw [respond_receiver, List.length_tail]
      exact (Nat.sub_le _ _).trans ((carriedOut_receiver_le r s).trans hs)

/-! ## The RESPONSE frames (R170) -/

/-- R170. At most one RESPONSE waits. -/
def ResponsesOk (s : State) : Prop := s.mgp.up.countP UpFrame.isResponse ≤ 1

theorem responsesOk_of_same {s t : State} (h : Same .responses s t) (hs : ResponsesOk s) : ResponsesOk t := by
  unfold ResponsesOk at *
  rwa [List.countP_eq_length_filter, show t.mgp.up.filter UpFrame.isResponse = s.mgp.up.filter UpFrame.isResponse from h,
    ← List.countP_eq_length_filter]

/-- R170. A request is carried out while no RESPONSE waits, and then exactly one does. -/
theorem respond_responsesOk {tag : Byte} {r : Request} {s : State} (h : Served tag r s) (a : Answer) : ResponsesOk (respond tag r a (carriedOut r s)) := by
  obtain ⟨-, -, hn⟩ := (served_iff tag r s).1 h
  have h0 : s.mgp.up.countP UpFrame.isResponse = 0 := List.countP_eq_zero.2 fun f hf => by simp [hn f hf]
  have hc : (carriedOut r s).mgp.up.filter UpFrame.isResponse = s.mgp.up.filter UpFrame.isResponse :=
    carriedOut_touches r s .responses (by decide)
  unfold ResponsesOk
  rw [respond_up, List.countP_append, List.countP_eq_length_filter (l := (carriedOut r s).mgp.up), hc, ← List.countP_eq_length_filter, h0]
  simp [UpFrame.isResponse]

theorem exec_responsesOk {i : Instr} (hi : i ≠ .hardwareReset) {s t : State} (hs : ResponsesOk s) (h : exec i s = .next t) : ResponsesOk t := by
  rcases command_cases i with rfl | he | ⟨bytes, r, rfl⟩ | rfl | ⟨tag, r, rfl⟩
  · exact absurd rfl hi
  · exact responsesOk_of_same (exec_event_touches he h .responses (by decide)) hs
  · rcases exec_frameReceived_cases h with rfl | ⟨tag, rfl⟩ | ⟨held, rfl⟩
    · exact hs
    · have hf : Touches [.port, .receiver, .up, .atn] s (receiveFrame { tag := tag, request := r } s) :=
        receiveFrame_touches (Touches.refl _ s) (by decide) (by decide) (by decide) (by decide)
      exact responsesOk_of_same (hf .responses (by decide)) hs
    · exact hs
  · rcases exec_transmit_cases h with rfl | ⟨f, rest, sent, bytes, hu, rfl⟩
    · exact hs
    · unfold ResponsesOk at hs
      rw [hu] at hs
      exact (List.Sublist.countP_le (List.sublist_cons_self f rest)).trans hs
  · rcases exec_request_cases tag r h with rfl | ⟨hv, rfl⟩
    · exact hs
    · exact respond_responsesOk hv _

/-! ## The bounds -/

/-- A bound that commands keep, that the timebase does not see, and that holds after reset, is kept. -/
theorem kept_of_exec {inv : State → Prop} (hr : ∀ u, inv (resetFrom u)) (hidle : ∀ s, inv s → inv (idle s)) (hp : ∀ s l, inv s → inv (s.setPending l))
    (he : ∀ i s t, i ≠ .hardwareReset → inv s → exec i s = .next t → inv t) : Kept inv := by
  intro s t hi h
  rcases step_cases h with ⟨u, rfl⟩ | ⟨-, rfl⟩ | ⟨i, l, hn, -, hx⟩
  · exact hr u
  · exact hidle s hi
  · exact he i _ t hn (hp s l hi) hx

theorem kept_receiverOk : Kept ReceiverOk :=
  kept_of_exec (fun _ => Nat.zero_le _) (fun s => receiverOk_of_same (idle_touches s .receiver (by decide))) (fun _ _ h => h)
    fun _ _ _ hi hs h => exec_receiverOk hi hs h

theorem kept_responsesOk : Kept ResponsesOk :=
  kept_of_exec (fun _ => Nat.zero_le _) (fun s => responsesOk_of_same (idle_touches s .responses (by decide))) (fun _ _ h => h)
    fun _ _ _ hi hs h => exec_responsesOk hi hs h

theorem kept_recordsOk : Kept fun s => RecordsOk s.mgp.up :=
  kept_of_part (p := .upOk) (by decide) (fun _ _ => Iff.rfl) fun _ => ⟨Nat.zero_le _, Nat.zero_le _⟩

theorem kept_upQueueOk : Kept UpQueueOk :=
  fun s t h hs => ⟨kept_responsesOk s t h.1 hs, kept_recordsOk s t h.2 hs⟩

theorem reset_linkOk : LinkOf Blc.reset :=
  ⟨by simp only [NodeOk]; decide, fun _ he => by cases he⟩

theorem kept_linkOk : Kept LinkOk :=
  kept_of_part (p := .linkOk) (by decide) (fun _ _ => Iff.rfl) fun _ => reset_linkOk

theorem kept_urgentOk : Kept UrgentOk :=
  kept_of_part (p := .urgentOk) (by decide) (fun _ _ => Iff.rfl) fun _ => List.nodup_nil

theorem kept_gasQueueOk : Kept GasQueueOk :=
  kept_of_part (p := .gasOk) (by decide) (fun _ _ => Iff.rfl) fun _ => Nat.zero_le _

/-- Every frame of the upward queue is a RESPONSE, an ATTENTION frame, or a record. -/
theorem length_eq_counts (l : List UpFrame) : l.length = l.countP UpFrame.isResponse + l.countP UpFrame.isAttention + l.countP isRecord := by
  induction l with
  | nil => rfl
  | cons f l ih =>
    simp only [List.length_cons, List.countP_cons, ih]
    cases f <;> simp [isRecord, UpFrame.isResponse, UpFrame.isAttention] <;> omega

/-- R173. So at most 16 frames wait. -/
theorem upQueueOk_length {s : State} (h : UpQueueOk s) : s.mgp.up.length ≤ 16 := by
  obtain ⟨h1, h2, h3⟩ := h
  simp only [Config.pourRecordLimit] at h3
  have := length_eq_counts s.mgp.up
  omega

/-- Settles O57: each bound is a part that every step but a hardware reset keeps, and holds right after a hardware reset. -/
theorem everyStepKeepsTheQueues : Obligations.EveryStepKeepsTheQueues :=
  ⟨⟨kept_upQueueOk, fun _ => upQueueOk_length⟩, kept_linkOk, kept_urgentOk, kept_receiverOk, kept_gasQueueOk⟩

end Sys2Proof.Proofs
end

section
/-! PROOFS. The Bay Link's line: rounds, the next exchange, and attempts (R6 to R8, R12, R17). -/

namespace Sys2Proof.Proofs

open Sys2Proof.Machine Sys2Proof.Safety Sys2Proof.Claims

/-! ## The end of an event, as the line sees it -/

/-- R6, R8. On an idle line the choice of the next exchange is that of `withNextExchange`. -/
theorem kick_idle {s : State} (he : s.blc.exchange = none) (hd : s.blc.discard = .none) :
    (kick s).blc = withNextExchange (fun n => imageOf n s) s.blc := by
  have hi : lineIdle s = true := by simp [lineIdle, he, hd]
  have hn : (s.blc.urgent.head? <|> allNodes.find? (fun n => s.blc.nodes[n].due)) = nextNode s := rfl
  unfold kick withNextExchange
  rw [if_pos hi, hn]
  cases nextNode s with
  | none => rfl
  | some n => rfl

theorem lineIdle_false {s : State} (h : s.blc.exchange ≠ none ∨ s.blc.discard ≠ .none) : lineIdle s = false := by
  simp only [lineIdle, decide_eq_false_iff_not]
  tauto

/-- On a line that is taken the end of an event leaves the Bay Link as it is. -/
theorem finish_blc_busy {s : State} (h : ShownOk s) (hb : s.blc.exchange ≠ none ∨ s.blc.discard ≠ .none) : (finish s).blc = s.blc := by
  rw [finish_busy h (lineIdle_false hb)]
  rfl

/-- On an idle line the end of an event begins the next exchange. -/
theorem finish_blc_idle {s : State} (h : ShownOk s) (he : s.blc.exchange = none) (hd : s.blc.discard = .none) :
    (finish s).blc = withNextExchange (fun n => imageOf n s) s.blc := by
  rw [finish_of_shown h]
  exact kick_idle he hd

/-- The pump and the cues stand as they should after work on the Bay Link that keeps the images and the panel's node state. -/
theorem shownOk_modBlc {f : Blc → Blc} {s : State} (ho : (f s.blc).outs = s.blc.outs)
    (hn : (f s.blc).nodes[panelNode].state = s.blc.nodes[panelNode].state) (h : ShownOk s) : ShownOk (s.modBlc f) := by
  have hout : ∀ o, (s.modBlc f).out o = s.out o := fun o => by simp only [State.out, modBlc_blc, ho]
  have hpour : ∀ x, pourable x (s.modBlc f) = pourable x s := fun x => by
    simp only [pourable, servingChecks, State.keg, State.tapRec, State.node, modBlc_blc, modBlc_kegs, modBlc_tap, modBlc_man, hn]
  refine ⟨fun hw => by rw [hout]; exact h.1 hw, fun x hw => ?_⟩
  rw [hout, h.2 x hw]
  simp only [derivedCue, hpour, State.tapRec, modBlc_tap]

/-- The image of a node is read from the outputs alone. -/
theorem imageOf_congr {s t : State} (h : t.blc.outs = s.blc.outs) (n : Node) : imageOf n t = imageOf n s := by
  exact List.map_congr_left fun o _ => by simp only [State.out, h]

/-! ## Rounds (R6, R7) -/

theorem discardEnd_leads {s : State} (ha : Awake s) (h : ShownOk s) (hd : s.blc.discard = .running) (he : s.blc.exchange = none) :
    Leads .discardIntervalEnd s fun t =>
      t.blc = withNextExchange (fun n => imageOf n s) { s.blc with discard := .none } ∧ Touches eventParts s t := by
  refine ⟨_, rfl, ?_⟩
  rw [live_of ha (by simp [hd])]
  exact ⟨finish_blc_idle (shownOk_modBlc rfl rfl h) he rfl,
    finish_touches (discardEnd_touches (Touches.refl _ s) (by decide)) (by decide) (by decide) (by decide)⟩

/-- R7. The round timer's expiry: the round's own work, and the end of the event. -/
theorem roundTimer_leads {s : State} (ha : Awake s) (ht : s.blc.roundTimer = true) {post : State → Prop}
    (h : Touches eventParts s (finish (roundExpired s)) → post (finish (roundExpired s))) : Leads .roundTimerExpiry s post := by
  refine ⟨_, rfl, ?_⟩
  rw [live_of (occurs := roundTimerRuns s) ha ht]
  exact h (finish_touches (roundExpired_touches (Touches.refl _ s) (by decide)) (by decide) (by decide) (by decide))

theorem roundExpired_open {s : State} (h : s.blc.roundOpen = true) :
    roundExpired s = s.modBlc fun x => { x with roundTimer := false, overrun := true } := if_pos h

theorem roundExpired_ended {s : State} (h : s.blc.roundOpen = false) : roundExpired s = s.modBlc withNewRound :=
  if_neg (by simp [h])

theorem newRound_shownOk {s : State} (h : ShownOk s) : ShownOk (s.modBlc withNewRound) :=
  shownOk_modBlc rfl (by simp [withNewRound]) h

/-- Settles O8: the work of either timer, and then the end of the event on an idle or a taken line. -/
theorem roundsAndTheNextExchange : Obligations.RoundsAndTheNextExchange := by
  refine ⟨fun s => discardEnd_leads, fun s ha h ht => ⟨fun ho hb => ?_, fun ho hb => ?_, fun ho he hd => ?_⟩⟩
  all_goals refine roundTimer_leads ha ht fun hx => ⟨?_, hx⟩
  · rw [roundExpired_open ho]
    exact finish_blc_busy (shownOk_modBlc rfl rfl h) hb
  · rw [roundExpired_ended ho]
    exact finish_blc_busy (newRound_shownOk h) hb
  · rw [roundExpired_ended ho]
    exact finish_blc_idle (newRound_shownOk h) he hd

/-! ## Attempts (R8, R12, R17) -/

theorem frameSent_leads {s : State} {x : Exchange} (ha : Awake s) (he : s.blc.exchange = some x) (hp : x.phase = .sending) (hd : s.blc.discard = .none) :
    exec .exchangeFrameSent s = .next { s with blc := { s.blc with driver := false, exchange := some { x with phase := .awaiting } } } := by
  show Host.Outcome.next _ = _
  rw [quiet_of ha (by simp [frameOnLine, inPhase, he, hp])]
  simp [frameSent, State.modBlc, he, hd]

theorem abandonedSent_leads {s : State} (ha : Awake s) (he : s.blc.exchange = none) (hd : s.blc.discard = .finishing) :
    exec .exchangeFrameSent s = .next { s with blc := { s.blc with driver := false, discard := .running } } := by
  show Host.Outcome.next _ = _
  rw [quiet_of ha (by simp [frameOnLine, hd])]
  simp [frameSent, State.modBlc, he, hd]

theorem retryTimer_leads {s : State} {x : Exchange} (ha : Awake s) (he : s.blc.exchange = some x) (hp : x.phase = .retryWait) :
    exec .retryTimerExpiry s = .next { s with blc := { s.blc with
      exchange := some { x with phase := .sending }, driver := true, txFrame := exchangeChars x.node x.imageSent } } := by
  simp only [exec, execRetryTimerExpiry, he]
  rw [quiet_of ha (by simp [hp])]
  rfl

/-- R9. Characters that answer the exchange on the line are judged for its node. -/
theorem verdictOn_awaiting {s : State} {x : Exchange} {chars : List Char9} (he : s.blc.exchange = some x) (hp : x.phase = .awaiting) :
    verdictOn chars s = some (x, judgeReply x.node chars) := by
  simp [verdictOn, he, hp]

theorem exec_busyReply {s : State} {x : Exchange} {chars : List Char9} (ha : Awake s) (he : s.blc.exchange = some x) (hp : x.phase = .awaiting)
    (hj : judgeReply x.node chars = .busy) : exec (.busyReply chars) s = .next (finish (exchangeBusy x s)) := by
  simp only [exec, execBusyReply, verdictOn_awaiting he hp, hj]
  rw [live_of ha rfl]

/-- R12. A BUSY below the limit: the exchange waits for its next attempt. -/
theorem exchangeBusy_below {s : State} {x : Exchange} (hb : x.busyCount < 3) :
    exchangeBusy x s = s.modBlc fun blc => { blc with exchange := some { x with busyCount := x.busyCount + 1, phase := .retryWait } } :=
  if_pos hb

theorem busyReply_leads {s : State} {x : Exchange} {chars : List Char9} (ha : Awake s) (h : ShownOk s) (he : s.blc.exchange = some x)
    (hp : x.phase = .awaiting) (hb : x.busyCount < 3) (hj : judgeReply x.node chars = .busy) :
    Leads (.busyReply chars) s fun t =>
      t.blc = { s.blc with exchange := some { x with busyCount := x.busyCount + 1, phase := .retryWait } } ∧ Touches eventParts s t := by
  refine ⟨_, exec_busyReply ha he hp hj, ?_⟩
  rw [exchangeBusy_below hb]
  refine ⟨finish_blc_busy (shownOk_modBlc rfl rfl h) (.inl (by simp)), finish_touches ?_ (by decide) (by decide) (by decide)⟩
  refine modBlc_touches (Touches.refl _ s) (.inl (by decide)) (.inr fun _ => ⟨rfl, rfl⟩) (.inr fun _ hx => ⟨hx.1, ?_⟩) (.inr fun _ hx => hx)
  rintro _ ⟨⟩
  exact hb

/-- Settles O9. -/
theorem attemptsSendTheImageSent : Obligations.AttemptsSendTheImageSent :=
  ⟨fun _ _ => frameSent_leads, fun _ => abandonedSent_leads, fun _ _ => retryTimer_leads, fun _ _ _ => busyReply_leads⟩

end Sys2Proof.Proofs
end

section
/-! PROOFS. How a request is answered: refusals, queries, and requests that are carried out (R170, R171); the queries (R4, R38, R76, R163, R183). -/

namespace Sys2Proof.Proofs

open Sys2Proof.Machine Sys2Proof.Safety Sys2Proof.Claims

/-! ## Refusals and answers -/

theorem served_of_taken {tag : Byte} {r : Request} {s : State} (h : Taken tag r s) : Served tag r s := (served_iff tag r s).2 h

/-- R170. Where nothing but the answer comes of a request, the RESPONSE joins and the request leaves. -/
theorem respond_answeredOnly (tag : Byte) (r : Request) (st : Status) (x : Result) (s : State) :
    respond tag r { status := st, result := x } s = answeredOnly tag (requestCode r) st x s := rfl

/-- R171. A request that is refused changes nothing but the queues of its frame and of its RESPONSE. -/
theorem exec_refused {tag : Byte} {r : Request} {st : Status} {x : Result} {s : State} (ht : Taken tag r s) (hst : st ≠ .ok)
    (hh : handlerOf r s = ({ status := st, result := x }, s)) :
    exec (frameCommand { tag := tag, request := r }) s = .next (answeredOnly tag (requestCode r) st x s) := by
  rw [exec_frameCommand, serve_of_served (served_of_taken ht), hh, if_neg hst, respond_answeredOnly]

/-- R170. A request that writes no output, answered OK with `x`. -/
theorem exec_query {tag : Byte} {r : Request} {x : Result} {s : State} (ht : Taken tag r s) (hq : isQuiet r = true)
    (hh : handlerOf r s = ({ status := .ok, result := x }, s)) :
    exec (frameCommand { tag := tag, request := r }) s = .next (answeredOnly tag (requestCode r) .ok x s) := by
  rw [exec_frameCommand, serve_of_served (served_of_taken ht), hh, if_pos rfl, closeOf, if_pos hq, id, respond_answeredOnly]

/-- R170. A request that may write outputs, carried out to `u`. -/
theorem exec_carriedOut {tag : Byte} {r : Request} {x : Result} {s u : State} (ht : Taken tag r s) (hq : isQuiet r = false)
    (hh : handlerOf r s = ({ status := .ok, result := x }, u)) :
    exec (frameCommand { tag := tag, request := r }) s = .next (respond tag r { status := .ok, result := x } (finish u)) := by
  rw [exec_frameCommand, serve_of_served (served_of_taken ht), hh, if_pos rfl, closeOf, if_neg (by simp [hq])]

/-! ## Numbers -/

@[simp] theorem nodeOf_nodeNum (n : Node) : nodeOf (nodeNum n) = some n := by
  simp only [nodeOf, nodeNum]
  rw [dif_pos (by omega)]
  rfl

@[simp] theorem bayOf_bayNum (b : Bay) : bayOf (bayNum b) = some b := by
  simp only [bayOf, bayNum]
  rw [dif_pos (by omega)]
  rfl

@[simp] theorem tapOf_tapNum (y : Tap) : tapOf (tapNum y) = some y := by
  simp only [tapOf, tapNum]
  rw [dif_pos (by omega)]
  rfl

@[simp] theorem chanOf_val (c : Chan) : chanOf c.val = some c := dif_pos c.isLt

theorem nodeOf_eq_some {k : Nat} {n : Node} (h : nodeOf k = some n) : k = nodeNum n := by
  unfold nodeOf at h
  split at h
  · cases h
    simp only [nodeNum]
    omega
  · cases h

theorem tapOf_eq_some {k : Nat} {y : Tap} (h : tapOf k = some y) : k = tapNum y := by
  unfold tapOf at h
  split at h
  · cases h
    simp only [tapNum]
    omega
  · cases h

/-! ## The queries -/

theorem vector6_toList {α : Type} (v : Vector α 6) : v.toList = [v[0], v[1], v[2], v[3], v[4], v[5]] := by
  apply List.ext_getElem
  · simp
  · intro i h1 h2
    simp only [List.length_cons, List.length_nil] at h2
    match i, h2 with
    | 0, _ | 1, _ | 2, _ | 3, _ | 4, _ | 5, _ => simp

theorem activityTotal_eq (v : Vector Nat 6) : activityTotal v = v[0] + v[1] + v[2] + v[3] + v[4] + v[5] := by
  simp only [activityTotal, vector6_toList, List.sum_cons, List.sum_nil]
  omega

theorem stepKind_eq (x : Step) : stepKind x = kindOfStep x := by cases x <;> rfl

/-- R125, R141. A queue entry as Q_QUEUES shows it. -/
theorem entryShown_eq :
    entryShown = fun e => { kind := (kindAndRequester e.need).1, requester := (kindAndRequester e.need).2, pressure := e.pressure } := by
  funext ⟨n, p⟩
  cases n <;> rfl

/-- R123, R183. The operation record as Q_STATUS shows it. -/
theorem operationShown_eq :
    operationShown = fun op =>
      { kind := (kindAndRequester op.need).1, beneficiary := beneficiaryOf op.need, pressure := op.pressure, sub := op.sub, pours := op.pours } := by
  funext ⟨n, _, _, _, _, _, _⟩
  cases n <;> rfl

/-- R163. A cue is owned by the TAP in RUNNING while the tap is bound. -/
theorem cue_owned_iff (y : Tap) (s : State) : (owner (.cue y) s).isSome = true ↔ s.mgp.part = .running ∧ (s.tapRec y).set.binding ≠ none := by
  unfold owner
  dsimp only
  rw [← Option.isSome_iff_ne_none]
  split
  · rename_i h
    exact iff_of_true rfl h
  · rename_i h
    exact iff_of_false (by simp) h

theorem nodeRead_answer {tag : Byte} {s : State} (n : Node) (h : Taken tag (.nodeRead (.params { node := nodeNum n })) s) :
    exec (.nodeRead tag (.params { node := nodeNum n })) s = .next (answeredOnly tag (some 35) .ok (.node (nodeResult n s)) s) :=
  exec_query h rfl (by simp [handlerOf, withParams, withNumber, okayWith])

theorem qChannel_answer {tag : Byte} {s : State} (c : Chan) (h : Taken tag (.qChannel (.params { channel := c.val })) s) :
    exec (.qChannel tag (.params { channel := c.val })) s = .next (answeredOnly tag (some 30) .ok (.channel (channelResult c s)) s) :=
  exec_query h rfl (by simp [handlerOf, withParams, withNumber, okayWith])

theorem qKeg_answer {tag : Byte} {s : State} (b : Bay) (h : Taken tag (.qKeg (.params { bay := bayNum b })) s) :
    exec (.qKeg tag (.params { bay := bayNum b })) s = .next (answeredOnly tag (some 29) .ok (.keg (kegResult b s)) s) :=
  exec_query h rfl (by simp [handlerOf, withParams, withBay, withNumber, okayWith])

theorem qTap_answer {tag : Byte} {s : State} (y : Tap) (h : Taken tag (.qTap (.params { tap := tapNum y })) s) :
    exec (.qTap tag (.params { tap := tapNum y })) s = .next (answeredOnly tag (some 32) .ok (.tap (tapResult y s)) s) :=
  exec_query h rfl (by simp [handlerOf, withParams, withNumber, okayWith])

theorem qQueues_answer {tag : Byte} {s : State} (h : Taken tag (.qQueues (.params ())) s) :
    exec (.qQueues tag (.params ())) s = .next (answeredOnly tag (some 31) .ok (.queues (queuesResult s)) s) := exec_query h rfl rfl

theorem qStatus_answer {tag : Byte} {s : State} (h : Taken tag (.qStatus (.params ())) s) :
    exec (.qStatus tag (.params ())) s = .next (answeredOnly tag (some 28) .ok (.status (statusResult s)) s) := exec_query h rfl rfl

/-- Settles O13: each query answers its result record, whose fields are those the statement names. -/
theorem queriesAnswerAndChangeNothing : Obligations.QueriesAnswerAndChangeNothing := by
  intro tag s
  refine ⟨fun n h => nodeRead_answer n h, fun c h => qChannel_answer c h, fun b h => ?_, fun x h => ?_, fun h => ?_, fun h => ?_⟩
  · rw [qKeg_answer b h]
    simp only [kegResult, vector6_toList, activityTotal_eq, stepKind_eq, Keg.ventCommanded]
  · rw [qTap_answer x h]
    simp only [tapResult, cue_owned_iff]
    rfl
  · rw [qQueues_answer h, queuesResult, entryShown_eq]
  · rw [qStatus_answer h, statusResult, operationShown_eq]
    rfl

end Sys2Proof.Proofs
end

section
/-! PROOFS. Outputs and their owners: what a write, a command and a passing leave (R2, R3, R5, R164), and NODE_WRITE (R4, R174). -/

namespace Sys2Proof.Proofs

open Sys2Proof.Machine Sys2Proof.Safety Sys2Proof.Claims

/-! ## Work that shows on the outputs alone -/

/-- The state with other output images and another urgent list. -/
def showing (outs : Vector Nat 35) (urgent : List Node) (s : State) : State := s.modBlc fun x => { x with outs := outs, urgent := urgent }

/-- Between the two states only the output images and the urgent list have changed. -/
def ShowsFrom (s t : State) : Prop := ∃ outs urgent, t = showing outs urgent s

theorem ShowsFrom.refl (s : State) : ShowsFrom s s := ⟨s.blc.outs, s.blc.urgent, rfl⟩

theorem ShowsFrom.trans {s t u : State} (h : ShowsFrom s t) (g : ShowsFrom t u) : ShowsFrom s u := by
  obtain ⟨o, l, rfl⟩ := h
  obtain ⟨o', l', rfl⟩ := g
  exact ⟨o', l', rfl⟩

theorem owner_showing (o : Output) (outs : Vector Nat 35) (urgent : List Node) (s : State) : owner o (showing outs urgent s) = owner o s := by
  cases o <;> rfl

theorem ShowsFrom.owner {s t : State} (h : ShowsFrom s t) (o : Output) : owner o t = Machine.owner o s := by
  obtain ⟨outs, urgent, rfl⟩ := h
  exact owner_showing o outs urgent s

theorem ShowsFrom.derivedCue {s t : State} (h : ShowsFrom s t) (y : Tap) : derivedCue y t = Machine.derivedCue y s := by
  obtain ⟨outs, urgent, rfl⟩ := h
  rfl

theorem ShowsFrom.chl {s t : State} (h : ShowsFrom s t) : t.chl = s.chl := by
  obtain ⟨_, _, rfl⟩ := h
  rfl

theorem ShowsFrom.mgp {s t : State} (h : ShowsFrom s t) : t.mgp = s.mgp := by
  obtain ⟨_, _, rfl⟩ := h
  rfl

/-! ## Commanding an output (R3, R5) -/

theorem mem_allOutputs (o : Output) : o ∈ allOutputs := by
  have hn : ∀ n : Node, n ∈ allNodes := by decide
  have h : o ∈ outputsOf (outNode o) := by
    cases o with
    | heater b | cool b | gasIn b | vent b => simp [outNode, outputsOf, bayOfNode, bayNode]
    | pump | regulator | supply => decide
    | lineValve y | purge y | tapValve y | cue y => revert y; decide
  exact List.mem_flatMap.2 ⟨outNode o, hn _, h⟩

theorem allOutputs_nodup : allOutputs.Nodup := by decide

/-- No two outputs have the same place. -/
theorem outIdx_injective {o p : Output} (h : outIdx o = outIdx p) : o = p :=
  List.inj_on_of_nodup_map (by decide : (allOutputs.map outIdx).Nodup) (mem_allOutputs o) (mem_allOutputs p) h

theorem upd_const_self {α : Type} {n : Nat} {v : Vector α n} {i : Fin n} {a : α} (h : v[i] = a) : (upd v i fun _ => a) = v := by
  subst h
  exact Vector.set_getElem_self _

/-- R3, R5. What commanding an output does: its value, and the node's place on the urgent list where the value differs. -/
theorem commandOut_eq (o : Output) (v : Nat) (s : State) :
    commandOut o v s = showing (upd s.blc.outs (outIdx o) fun _ => v)
      (if s.out o = v ∨ outNode o ∈ s.blc.urgent then s.blc.urgent else s.blc.urgent ++ [outNode o]) s := by
  by_cases hv : s.out o = v
  · rw [commandOut, if_pos hv, if_pos (.inl hv), upd_const_self hv]
    rfl
  · rw [commandOut, if_neg hv]
    show (if outNode o ∈ s.blc.urgent then _ else _) = _
    by_cases hu : outNode o ∈ s.blc.urgent
    · rw [if_pos hu, if_pos (.inr hu)]
      rfl
    · rw [if_neg hu, if_neg (not_or.2 ⟨hv, hu⟩)]
      rfl

theorem commandOut_shows (o : Output) (v : Nat) (s : State) : ShowsFrom s (commandOut o v s) := ⟨_, _, commandOut_eq o v s⟩

theorem commandOut_out (o p : Output) (v : Nat) (s : State) : (commandOut o v s).out p = if p = o then v else s.out p := by
  rw [commandOut_eq]
  show (upd s.blc.outs (outIdx o) fun _ => v)[outIdx p] = _
  rw [upd_get]
  by_cases h : p = o
  · rw [if_pos h, if_pos (congrArg outIdx h)]
  · rw [if_neg h, if_neg fun e => h (outIdx_injective e)]

theorem commandOut_urgent (o : Output) (v : Nat) (s : State) :
    (commandOut o v s).blc.urgent = if s.out o = v ∨ outNode o ∈ s.blc.urgent then s.blc.urgent else s.blc.urgent ++ [outNode o] := by
  rw [commandOut_eq]
  rfl

theorem commandOut_exchange (o : Output) (v : Nat) (s : State) : (commandOut o v s).blc.exchange = s.blc.exchange := by
  rw [commandOut_eq]
  rfl

theorem write_owned {w : Owner} {o : Output} {v : Nat} {s : State} (h : owner o s = some w) : write w o v s = commandOut o v s := if_pos h

theorem write_discarded {w : Owner} {o : Output} {v : Nat} {s : State} (h : owner o s ≠ some w) : write w o v s = s := if_neg h

/-! ## Outputs that pass (R3, R164) -/

/-- The outputs are taken one by one: each that passes is set to its safe value, and no other. -/
theorem passing_out {l : List Output} (hl : l.Nodup) (s t : State) (o : Output) :
    (forAll l (fun o s' => if (owner o s).isNone = (owner o s').isNone then s' else commandOut o 0 s') t).out o =
      if o ∈ l ∧ (owner o s).isNone ≠ (owner o t).isNone then 0 else t.out o := by
  induction l generalizing t with
  | nil => simp [forAll]
  | cons p l ih =>
    obtain ⟨hp, hl⟩ := List.nodup_cons.1 hl
    have step : ∀ u, forAll (p :: l) (fun o s' => if (owner o s).isNone = (owner o s').isNone then s' else commandOut o 0 s') u =
      forAll l (fun o s' => if (owner o s).isNone = (owner o s').isNone then s' else commandOut o 0 s')
        (if (owner p s).isNone = (owner p u).isNone then u else commandOut p 0 u) := fun u => rfl
    rw [step]
    by_cases hn : (owner p s).isNone = (owner p t).isNone
    · rw [if_pos hn, ih hl]
      by_cases ho : o = p
      · subst ho
        simp [hn]
      · simp [ho]
    · rw [if_neg hn, ih hl, (commandOut_shows p 0 t).owner, commandOut_out]
      by_cases ho : o = p
      · subst ho
        simp [hn]
      · simp [ho]

theorem passing_shows (l : List Output) (s t : State) :
    ShowsFrom t (forAll l (fun o s' => if (owner o s).isNone = (owner o s').isNone then s' else commandOut o 0 s') t) := by
  induction l generalizing t with
  | nil => exact ShowsFrom.refl t
  | cons p l ih =>
    refine ShowsFrom.trans ?_ (ih _)
    show ShowsFrom t (if (owner p s).isNone = (owner p t).isNone then t else commandOut p 0 t)
    split
    · exact ShowsFrom.refl t
    · exact commandOut_shows p 0 t

theorem setPart_shows (p : PartState) (s : State) : ShowsFrom (s.modMgp fun m => { m with part := p }) (setPart p s) := passing_shows _ _ _

theorem setPart_out (p : PartState) (s : State) (o : Output) :
    (setPart p s).out o = if (owner o s).isNone = (owner o (setPart p s)).isNone then s.out o else 0 := by
  rw [(setPart_shows p s).owner]
  refine (passing_out allOutputs_nodup s (s.modMgp fun m => { m with part := p }) o).trans ?_
  by_cases h : (owner o s).isNone = (owner o (s.modMgp fun m => { m with part := p })).isNone
  · rw [if_neg fun hn => hn.2 h, if_pos h]
    rfl
  · rw [if_pos ⟨mem_allOutputs o, h⟩, if_neg h]

/-- Settles O11. -/
theorem outputsFollowTheirOwners : Obligations.OutputsFollowTheirOwners := by
  refine ⟨fun w o v s => ⟨write_discarded, fun hv => write_same fun _ => hv, fun ho hv => ?_⟩, fun p s => ⟨?_, setPart_out p s, ?_⟩⟩
  · refine ⟨?_, fun p hp => ?_, ?_, write_touches (Touches.refl _ s) (by decide)⟩
    · rw [write_owned ho, commandOut_out, if_pos rfl]
    · rw [write_owned ho, commandOut_out, if_neg hp]
    · rw [write_owned ho, commandOut_urgent]
      simp only [hv, false_or]
  · exact (setPart_shows p s).mgp
  · exact setPart_touches (Touches.refl _ s) (by decide) (by decide)

/-! ## NODE_WRITE (R4) -/

/-- R103, R160. Commanding an output that no block owns leaves the pump and the cues as they should be. -/
theorem commandOut_shownOk {o : Output} {v : Nat} {s : State} (ho : owner o s = none) (h : ShownOk s) : ShownOk (commandOut o v s) := by
  have hs := commandOut_shows o v s
  have hout : ∀ p w, owner p (commandOut o v s) = some w → (commandOut o v s).out p = s.out p := by
    intro p w hp
    rw [commandOut_out, if_neg]
    rintro rfl
    rw [hs.owner, ho] at hp
    cases hp
  refine ⟨fun hp => ?_, fun y hy => ?_⟩
  · rw [hout _ _ hp, hs.chl]
    exact h.1 (hs.owner _ ▸ hp)
  · rw [hout _ _ hy, hs.derivedCue]
    exact h.2 y (hs.owner _ ▸ hy)

theorem kick_outs (s : State) : (kick s).blc.outs = s.blc.outs := by
  unfold kick
  split
  · split <;> rfl
  · rfl

theorem finish_outs {s : State} (h : ShownOk s) (o : Output) : (finish s).out o = s.out o := by
  rw [finish_of_shown h]
  show (kick _).blc.outs[outIdx o] = _
  rw [kick_outs]
  rfl

/-- The names of NODE_WRITE: each output is named at its node by one name alone. -/
theorem resolveOutput_nameOf (o : Output) : resolveOutput (outNode o) (nameOf o) = some o := by
  cases o with
  | heater b | cool b | gasIn b | vent b => simp [resolveOutput, outNode, nameOf, bayOfNode, bayNode]
  | pump | regulator | supply => decide
  | lineValve y | purge y | tapValve y | cue y => revert y; decide

theorem resolveOutput_eq_some {n : Node} {c : OutputCode} {o : Output} (h : resolveOutput n c = some o) : n = outNode o ∧ c = nameOf o := by
  simp only [resolveOutput, Option.filter_eq_some_iff, decide_eq_true_eq] at h
  obtain ⟨hf, hn⟩ := h
  refine ⟨hn.symm, ?_⟩
  split at hf <;> simp only [Option.map_eq_some_iff, Option.some.injEq, reduceCtorEq] at hf <;> try (subst hf; rfl)
  all_goals
    obtain ⟨y, hy, rfl⟩ := hf
    rw [tapOf_eq_some hy]
    rfl

theorem largestValue_eq (o : Output) : outMax o = largestValue o := by cases o <;> rfl

theorem outValue_of_le {o : Output} {v : Nat} (h : (v : Int) ≤ largestValue o) : outValue o v = some v := by
  unfold outValue within
  rw [if_pos (by simp [largestValue_eq, h])]
  rfl

theorem outValue_eq_some {o : Output} {x : Int} {v : Nat} (h : outValue o x = some v) : x = v ∧ (v : Int) ≤ largestValue o := by
  simp only [outValue, within, largestValue_eq] at h
  split at h
  · rename_i hx
    have := of_decide_eq_true hx
    cases h
    omega
  · cases h

/-- R4. The refusal of NODE_WRITE for what names no output of the node or lies out of its range. -/
theorem nodeWrite_badValue {p : NodeWriteParams} (s : State)
    (h : ∀ (o : Output) (v : Nat), p ≠ { node := nodeNum (outNode o), output := nameOf o, value := v } ∨ largestValue o < v) :
    nodeWriteRequest p s = refuse .badValue s := by
  unfold nodeWriteRequest withNumber
  split
  · rename_i n hn
    dsimp only
    split
    · rename_i o ho
      split
      · rename_i v hv
        obtain ⟨rfl, hc⟩ := resolveOutput_eq_some ho
        obtain ⟨hx, hle⟩ := outValue_eq_some hv
        have hp : p = { node := nodeNum (outNode o), output := nameOf o, value := v } := by
          rw [← nodeOf_eq_some hn, ← hc, ← hx]
        rcases h o v with h | h
        · exact absurd hp h
        · omega
      · rfl
    · rfl
  · rfl

/-- R4. NODE_WRITE names an output and a value in its range. -/
theorem nodeWrite_named {o : Output} {v : Nat} (s : State) (h : (v : Int) ≤ largestValue o) :
    nodeWriteRequest { node := nodeNum (outNode o), output := nameOf o, value := v } s =
      require (owner o s).isNone .owned (fun s => okay (commandOut o v s)) s := by
  simp only [nodeWriteRequest, nodeOf_nodeNum, withNumber, resolveOutput_nameOf, outValue_of_le h]

theorem nodeWrite_owned {o : Output} {v : Nat} {s : State} (h : (v : Int) ≤ largestValue o) (ho : owner o s ≠ none) :
    nodeWriteRequest { node := nodeNum (outNode o), output := nameOf o, value := v } s = refuse .owned s := by
  rw [nodeWrite_named s h, require, if_neg]
  simpa using ho

theorem nodeWrite_unowned {o : Output} {v : Nat} {s : State} (h : (v : Int) ≤ largestValue o) (ho : owner o s = none) :
    nodeWriteRequest { node := nodeNum (outNode o), output := nameOf o, value := v } s = okay (commandOut o v s) := by
  rw [nodeWrite_named s h, require, if_pos (by simp [ho])]

/-- The end of an event leaves the Management Port as it is. -/
theorem finish_mgp (s : State) : (finish s).mgp = s.mgp := by
  have h := finish_touches (l := eventParts) (Touches.refl _ s) (by decide) (by decide) (by decide)
  have hp : { (finish s).mgp with up := s.mgp.up, seq := s.mgp.seq } = s.mgp := h .port (by decide)
  obtain ⟨hu, hq⟩ : (finish s).mgp.up = s.mgp.up ∧ (finish s).mgp.seq = s.mgp.seq := h .up (by decide)
  rw [← hu, ← hq] at hp
  exact hp

/-- R170. A request is carried out to `u`, whose Management Port has changed by `port` alone; then its event ends, and it is answered. -/
theorem carriedOut_of {tag : Byte} {r : Request} {code : Byte} {x : Result} {port : Mgp → Mgp} {parts : List Part} {s u : State} {post : State → Prop}
    (hq : isQuiet r = false) (hc : requestCode r = some code) (hh : handlerOf r s = ({ status := .ok, result := x }, u))
    (hp : { u.mgp with up := s.mgp.up, seq := s.mgp.seq, receiver := u.mgp.receiver.tail } = port { s.mgp with receiver := s.mgp.receiver.tail })
    (ht : Touches (parts ++ eventParts ++ answerParts) s u) (hpost : post (respond tag r { status := .ok, result := x } (finish u))) :
    CarriedOut tag r code x port parts s post := by
  refine fun hk => ⟨_, exec_carriedOut hk hq hh, ?_, ?_, ?_, hpost⟩
  · rw [← hp, ← finish_mgp u]
    rfl
  · rw [respond_up, List.getLast?_append]
    simp only [formResponse, hc]
    rfl
  · refine respond_touches (finish_touches ht ?_ ?_ ?_) ?_ ?_ ?_ ?_
    all_goals simp [eventParts, answerParts]

theorem respond_blc (tag : Byte) (r : Request) (a : Answer) (s : State) : (respond tag r a s).blc = s.blc := rfl

/-- R4. What the output that no block owns shows once NODE_WRITE is carried out, and where its node stands on the urgent list. -/
theorem nodeWrite_leaves {tag : Byte} {r : Request} {a : Answer} {o : Output} {v : Nat} {s t : State} (ho : owner o s = none) (h : ShownOk s)
    (ht : t = respond tag r a (finish (commandOut o v s))) :
    (∀ p : Output, t.out p = if p = o then v else s.out p) ∧
    (s.blc.exchange ≠ none → t.blc.urgent = if s.out o = v ∨ outNode o ∈ s.blc.urgent then s.blc.urgent else s.blc.urgent ++ [outNode o]) := by
  have hs := commandOut_shownOk (v := v) ho h
  have hb : t.blc = (finish (commandOut o v s)).blc := by rw [ht, respond_blc]
  refine ⟨fun p => ?_, fun he => ?_⟩
  · rw [← commandOut_out, ← finish_outs hs, State.out, hb]
  · rw [hb, finish_blc_busy hs (.inl (by rwa [commandOut_exchange])), commandOut_urgent]

/-- Settles O12: the three outcomes of NODE_WRITE, and the end of the event after the one that writes. -/
theorem nodeWriteWritesWhatNoBlockOwns : Obligations.NodeWriteWritesWhatNoBlockOwns := by
  refine ⟨fun tag p s hp ht => exec_refused ht (by decide) (nodeWrite_badValue s hp),
    fun tag o v s hv ho ht => exec_refused ht (by decide) (nodeWrite_owned hv ho), fun tag o v s hv ho h => ?_⟩
  obtain ⟨hout, hurgent⟩ := nodeWrite_leaves (tag := tag) (a := { status := .ok, result := .nothing }) (v := v) ho h rfl
  refine carriedOut_of (u := commandOut o v s) rfl rfl (nodeWrite_unowned hv ho) ?_ ?_ ⟨hout, fun he hne => ?_, fun he heq => ?_⟩
  · rw [(commandOut_shows o v s).mgp]
    rfl
  · exact commandOut_touches (Touches.refl _ s) (by decide)
  · simpa only [hne, false_or] using hurgent he
  · exact (hurgent he).trans (if_pos (.inl heq))

end Sys2Proof.Proofs
end

section
/-! PROOFS. What arrives on the two links: stray characters, replies outside the reply window, good frames, bad frames and stalled ones (R9, R169, R171). -/

namespace Sys2Proof.Proofs

open Sys2Proof.Machine Sys2Proof.Safety Sys2Proof.Claims

/-! ## Replies outside the reply window (R9) -/

theorem verdictOn_not_awaiting {s : State} {chars : List Char9} (h : ∀ x, s.blc.exchange = some x → x.phase ≠ .awaiting) : verdictOn chars s = none := by
  unfold verdictOn
  split
  · rename_i x hx
    rw [if_neg (h x hx)]
  · rfl

theorem replies_outside_window {s : State} {chars : List Char9} (h : ∀ x, s.blc.exchange = some x → x.phase ≠ .awaiting) :
    exec (.readyReply chars) s = .next s ∧ exec (.busyReply chars) s = .next s ∧ exec (.badReply chars) s = .next s ∧
      exec .replyTimeout s = .next s := by
  have hv := verdictOn_not_awaiting (chars := chars) h
  refine ⟨?_, ?_, ?_, ?_⟩
  · simp only [exec, execReadyReply, hv]
  · simp only [exec, execBusyReply, hv]
  · simp only [exec, execBadReply, hv]
  · simp only [exec, execReplyTimeout]
    split
    · rw [live_not (.inr (decide_eq_false (h _ ‹_›)))]
    · rfl

/-! ## Good and unfinished frames (R169, R171) -/

/-- R171. The model's test of what a payload can spell is that of the statements. -/
theorem fitsPayload_iff (n : Nat) (r : Request) : fitsPayload n r = true ↔ PayloadFits n r := by
  cases r
  case unknown code => cases code <;> simp [fitsPayload, PayloadFits, unknownCodeWf]
  all_goals simp [fitsPayload, PayloadFits]

theorem spells_iff (f : List Byte) (code : Option Byte) (r : Request) :
    spells f code r = true ↔ code = requestCode r ∧ PayloadFits (f.getD 1 0).toNat r := by
  rw [spells, Bool.and_eq_true, decide_eq_true_eq, fitsPayload_iff, eq_comm]

theorem goodFrame_received {bytes : List Byte} {r : Request} {s : State} {tag : Byte} {code : Option Byte} (ha : Awake s)
    (hj : judgeFrame (s.mgp.partialFrame ++ bytes) = .good tag code)
    (hs : code = requestCode r ∧ PayloadFits ((s.mgp.partialFrame ++ bytes).getD 1 0).toNat r) :
    exec (.applianceFrameReceived bytes r) s = .next (receiveFrame { tag := tag, request := r } s) := by
  simp only [exec, execApplianceFrameReceived, frameBytes, hj]
  rw [quiet_of ha ((spells_iff _ _ _).2 hs)]

theorem otherFrame_received {bytes : List Byte} {r : Request} {s : State} {tag : Byte} {code : Option Byte}
    (hj : judgeFrame (s.mgp.partialFrame ++ bytes) = .good tag code)
    (hs : ¬ (code = requestCode r ∧ PayloadFits ((s.mgp.partialFrame ++ bytes).getD 1 0).toNat r)) :
    exec (.applianceFrameReceived bytes r) s = .next s := by
  simp only [exec, execApplianceFrameReceived, frameBytes, hj]
  rw [quiet_not (.inr (Bool.eq_false_iff.2 fun h => hs ((spells_iff _ _ _).1 h)))]

theorem unfinishedFrame_received {bytes : List Byte} {r : Request} {s : State} (ha : Awake s)
    (hj : judgeFrame (s.mgp.partialFrame ++ bytes) = .unfinished) :
    exec (.applianceFrameReceived bytes r) s = .next { s with mgp := { s.mgp with partialFrame := s.mgp.partialFrame ++ bytes } } := by
  simp only [exec, execApplianceFrameReceived, frameBytes, hj]
  rw [quiet_of ha rfl]
  rfl

/-- R169. A good frame joins while fewer than 4 are held. -/
theorem receiveFrame_room {f : RequestFrame} {s : State} (h : s.mgp.receiver.length < 4) :
    receiveFrame f s = { s with mgp := { s.mgp with partialFrame := [], receiver := s.mgp.receiver ++ [f] } } := if_pos h

theorem receiveFrame_full {f : RequestFrame} {s : State} (h : 4 ≤ s.mgp.receiver.length) :
    receiveFrame f s = raise .linkError none { s with mgp := { s.mgp with partialFrame := [] } } := if_neg (Nat.not_lt.2 h)

/-! ## The receiver's scan (R169) -/

/-- R169. The bytes of a frame that is not finished: a start byte, a length up to 120 once it is there, and fewer bytes than it calls for. -/
theorem judgeFrame_unfinished_iff (f : List Byte) :
    judgeFrame f = .unfinished ↔ f.head? = some startByte ∧ ∀ len, f[1]? = some len → len.toNat ≤ 120 ∧ f.length < len.toNat + 6 := by
  unfold judgeFrame
  by_cases hs : f.head? = some startByte
  · rw [if_neg (not_not_intro hs)]
    cases hl : f[1]? with
    | none => simp [hs]
    | some len =>
      simp only [hs, true_and, Option.some.injEq, forall_eq']
      by_cases hlong : 120 < len.toNat
      · rw [if_pos (show Config.payloadLimit < len.toNat from hlong)]
        simp [hlong]
      · rw [if_neg (show ¬ Config.payloadLimit < len.toNat from hlong)]
        by_cases hshort : f.length < len.toNat + 6
        · rw [if_pos hshort]
          simp [hshort, Nat.not_lt.1 hlong]
        · rw [if_neg hshort]
          simp only [hshort, and_false, iff_false]
          split_ifs <;> simp
  · rw [if_pos hs]
    simp [hs]

/-- R169. A length above 120 is judged at its own byte. -/
theorem judgeFrame_long {n : Byte} (h : 120 < n.toNat) : judgeFrame [0xC3, n] = .bad := by
  simp [judgeFrame, startByte, Config.payloadLimit, h]

theorem judgeFrame_stray {b : Byte} (h : b ≠ 0xC3) : judgeFrame [b] = .noFrame := by
  exact if_pos fun hs => h (Option.some.inj hs)

/-- R169. What has come of an unfinished frame was unfinished before. -/
theorem judgeFrame_unfinished_of_append {f g : List Byte} (hf : f ≠ []) (h : judgeFrame (f ++ g) = .unfinished) : judgeFrame f = .unfinished := by
  rw [judgeFrame_unfinished_iff] at *
  obtain ⟨hs, hl⟩ := h
  refine ⟨by rwa [List.head?_append_of_ne_nil _ hf] at hs, fun len hlen => ?_⟩
  obtain ⟨hlt, -⟩ := List.getElem?_eq_some_iff.1 hlen
  obtain ⟨h1, h2⟩ := hl len (by rwa [List.getElem?_append_left hlt])
  rw [List.length_append] at h2
  exact ⟨h1, by omega⟩

/-- R169. Until its last byte, a frame that is judged by its whole length is unfinished. -/
theorem judgeFrame_unfinished_dropLast {f g : List Byte} (hg : g <+: f) (h0 : g ≠ []) (hl : g.length < f.length) (hs : f.head? = some startByte)
    (hf : f.length = 2 ∨ (f.getD 1 0).toNat ≤ 120 ∧ f.length = (f.getD 1 0).toNat + 6) : judgeFrame g = .unfinished := by
  rw [judgeFrame_unfinished_iff]
  obtain ⟨k, rfl⟩ := hg
  refine ⟨by rwa [List.head?_append_of_ne_nil _ h0] at hs, fun len hlen => ?_⟩
  obtain ⟨hlt, -⟩ := List.getElem?_eq_some_iff.1 hlen
  rw [List.getD_eq_getElem?_getD, List.getElem?_append_left hlt, hlen] at hf
  simp only [Option.getD_some] at hf
  rcases hf with hf | ⟨h1, h2⟩
  · omega
  · exact ⟨h1, by omega⟩

/-- R169. The bytes of an unfinished frame are held. -/
theorem scan_unfinished {bytes : List Byte} {x : Scan} (h : judgeFrame (x.held ++ bytes) = .unfinished) :
    bytes.foldl Scan.take x = { x with held := x.held ++ bytes } := by
  induction bytes generalizing x with
  | nil => simp
  | cons b bytes ih =>
    have hb : judgeFrame (x.held ++ [b]) = .unfinished := judgeFrame_unfinished_of_append (g := bytes) (by simp) (by simpa using h)
    have ht : x.take b = { x with held := x.held ++ [b] } := by simp only [Scan.take, hb]
    rw [List.foldl_cons, ht, ih (by simpa using h)]
    simp

/-- R169. Bytes between frames are discarded. -/
theorem scan_strays {bytes : List Byte} {x : Scan} (hx : x.held = []) (h : 0xC3 ∉ bytes) : bytes.foldl Scan.take x = x := by
  induction bytes with
  | nil => rfl
  | cons b bytes ih =>
    obtain ⟨hb, hn⟩ := List.ne_and_not_mem_of_not_mem_cons h
    have ht : x.take b = x := by
      simp only [Scan.take, hx, List.nil_append, judgeFrame_stray hb.symm]
      cases x
      simp_all
    rw [List.foldl_cons, ht, ih hn]

/-- R169. A bad frame that is judged at its last byte is found, and nothing is held behind it. -/
theorem scan_bad {bytes : List Byte} {x : Scan} (hb : bytes ≠ []) (hj : judgeFrame (x.held ++ bytes) = .bad)
    (hf : (x.held ++ bytes).length = 2 ∨ ((x.held ++ bytes).getD 1 0).toNat ≤ 120 ∧ (x.held ++ bytes).length = ((x.held ++ bytes).getD 1 0).toNat + 6) :
    bytes.foldl Scan.take x = { x with held := [], bad := true } := by
  obtain ⟨front, b, rfl⟩ := (List.eq_nil_or_concat bytes).resolve_left hb
  rw [List.concat_eq_append] at *
  have hs : (x.held ++ (front ++ [b])).head? = some startByte := by
    by_contra hn
    rw [judgeFrame, if_pos hn] at hj
    cases hj
  have hfront : front.foldl Scan.take x = { x with held := x.held ++ front } := by
    by_cases he : x.held ++ front = []
    · obtain ⟨hh, rfl⟩ := List.append_eq_nil_iff.1 he
      simp
    · exact scan_unfinished (judgeFrame_unfinished_dropLast ⟨[b], by simp⟩ he (by simp) hs hf)
  rw [List.foldl_append, hfront]
  simp only [List.foldl_cons, List.foldl_nil, Scan.take, List.append_assoc, hj]

/-! ## Bad frames (R169) -/

theorem exec_badFrame {bytes held : List Byte} {e : Bool} {s : State} (ha : Awake s) (hb : frameIsBad bytes e s = true) (hh : heldAfter bytes e s = held) :
    exec (.badFrame bytes e) s = .next (raise .linkError none { s with mgp := { s.mgp with partialFrame := held } }) := by
  subst hh
  show Host.Outcome.next _ = _
  rw [quiet_of ha hb]
  rfl

/-- A bad frame is found, and no good one. -/
theorem frameIsBad_of_scan {bytes held : List Byte} {e : Bool} {s : State} (h : scanBytes bytes s = { held := held, bad := true, good := false }) :
    frameIsBad bytes e s = true := by
  simp [frameIsBad, h]

/-- R169. Without an error what is held after the bytes is what the scan holds. -/
theorem heldAfter_of_scan {bytes : List Byte} {s : State} {x : Scan} (h : scanBytes bytes s = x) : heldAfter bytes false s = x.held :=
  congrArg Scan.held h

theorem badFrame_judged {bytes : List Byte} {e : Bool} {s : State} (ha : Awake s) (hb : bytes ≠ [])
    (hj : judgeFrame (s.mgp.partialFrame ++ bytes) = .bad)
    (hf : (s.mgp.partialFrame ++ bytes).length = 2 ∨ ((s.mgp.partialFrame ++ bytes).getD 1 0).toNat ≤ 120 ∧
      (s.mgp.partialFrame ++ bytes).length = ((s.mgp.partialFrame ++ bytes).getD 1 0).toNat + 6) :
    exec (.badFrame bytes e) s = .next (raise .linkError none { s with mgp := { s.mgp with partialFrame := [] } }) := by
  have hx : scanBytes bytes s = { held := [], bad := true, good := false } := scan_bad hb hj hf
  exact exec_badFrame ha (frameIsBad_of_scan hx) (by simp [heldAfter, hx])

theorem badFrame_framingError {bytes : List Byte} {s : State} (ha : Awake s)
    (hj : judgeFrame (s.mgp.partialFrame ++ bytes) = .unfinished ∨ ∃ tag code, judgeFrame (s.mgp.partialFrame ++ bytes) = .good tag code) :
    exec (.badFrame bytes true) s = .next (raise .linkError none { s with mgp := { s.mgp with partialFrame := [] } }) := by
  refine exec_badFrame ha ?_ rfl
  rcases hj with hj | ⟨tag, code, hj⟩ <;> simp [frameIsBad, frameBytes, hj]

/-- R169. The scan past a length above 120 and the strays behind it. -/
theorem scan_long {n : Byte} {strays : List Byte} {s : State} (hp : s.mgp.partialFrame = []) (hn : 120 < n.toNat) (hs : 0xC3 ∉ strays) :
    scanBytes (0xC3 :: n :: strays) s = { held := [], bad := true, good := false } := by
  have hx : scanBytes [0xC3, n] s = { held := [], bad := true, good := false } := by
    refine scan_bad (by simp) ?_ (.inl ?_)
    · simp only [hp, List.nil_append, judgeFrame_long hn]
    · simp [hp]
  show strays.foldl Scan.take (scanBytes [0xC3, n] s) = _
  rw [hx, scan_strays rfl hs]

theorem badFrame_long {n : Byte} {strays : List Byte} {s : State} (ha : Awake s) (hp : s.mgp.partialFrame = []) (hn : 120 < n.toNat)
    (hs : 0xC3 ∉ strays) : exec (.badFrame (0xC3 :: n :: strays) false) s = .next (raise .linkError none s) := by
  have hx := scan_long hp hn hs
  rw [exec_badFrame ha (frameIsBad_of_scan hx) (heldAfter_of_scan hx), ← hp]

theorem badFrame_long_more {n : Byte} {strays more : List Byte} {s : State} (ha : Awake s) (hp : s.mgp.partialFrame = []) (hn : 120 < n.toNat)
    (hs : 0xC3 ∉ strays) (hm : judgeFrame (0xC3 :: more) = .unfinished) :
    exec (.badFrame (0xC3 :: n :: strays ++ 0xC3 :: more) false) s =
      .next (raise .linkError none { s with mgp := { s.mgp with partialFrame := 0xC3 :: more } }) := by
  have hx : scanBytes (0xC3 :: n :: strays ++ 0xC3 :: more) s = { held := 0xC3 :: more, bad := true, good := false } := by
    show ((0xC3 :: n :: strays) ++ 0xC3 :: more).foldl Scan.take _ = _
    rw [List.foldl_append]
    show (0xC3 :: more).foldl Scan.take (scanBytes (0xC3 :: n :: strays) s) = _
    rw [scan_long hp hn hs, scan_unfinished hm]
    rfl
  exact exec_badFrame ha (frameIsBad_of_scan hx) (heldAfter_of_scan hx)

theorem frameGap_abandons {s : State} (ha : Awake s) (h : s.mgp.partialFrame ≠ []) :
    exec .frameGapTimeout s = .next (raise .linkError none { s with mgp := { s.mgp with partialFrame := [] } }) := by
  show Host.Outcome.next _ = _
  rw [quiet_of ha (by simpa using h)]
  rfl

/-- Settles O17. -/
theorem whatArrivesOnTheLinks : Obligations.WhatArrivesOnTheLinks := by
  refine ⟨⟨fun _ _ => rfl, fun _ _ => rfl, fun s chars => replies_outside_window⟩, fun bytes r s ha => ⟨fun tag hj hp => ?_, fun tag code hj hn => ?_,
    unfinishedFrame_received ha⟩, fun s ha => ⟨fun bytes e hb => ?_, fun n strays hp hn hs => ⟨badFrame_long ha hp hn hs, fun more => badFrame_long_more ha hp hn hs⟩,
    frameGap_abandons ha⟩⟩
  · rw [goodFrame_received ha hj ⟨rfl, hp⟩]
    exact ⟨fun hl => by rw [receiveFrame_room hl], fun hl => by rw [receiveFrame_full hl]⟩
  · exact otherFrame_received hj (by tauto)
  · rcases hb with ⟨hne, hj, hf⟩ | ⟨rfl, hj⟩
    · exact badFrame_judged ha hne hj hf
    · exact badFrame_framingError ha hj

end Sys2Proof.Proofs
end

section
/-! PROOFS. A software reset of the other blocks: the records of the pours it ends, and what each block is left with (R17, R52, R78, R97, R120, R143, R162, R168, R173, R182). -/

namespace Sys2Proof.Proofs

open Sys2Proof.Machine Sys2Proof.Safety Sys2Proof.Claims

/-! ## Work that shows on the upward queue and the flags alone -/

/-- Between the two states only the upward queue, the sequence count, the flags and the free choices have changed. -/
def SendsFrom (s t : State) : Prop := ∃ up seq atn free, t = { s with mgp := { s.mgp with up := up, seq := seq }, atn := atn, free := free }

theorem SendsFrom.refl (s : State) : SendsFrom s s := ⟨s.mgp.up, s.mgp.seq, s.atn, s.free, rfl⟩

theorem SendsFrom.trans {s t u : State} (h : SendsFrom s t) (g : SendsFrom t u) : SendsFrom s u := by
  obtain ⟨_, _, _, _, rfl⟩ := h
  obtain ⟨_, _, _, _, rfl⟩ := g
  exact ⟨_, _, _, _, rfl⟩

theorem sendsFrom_forAll {α : Type} {l : List α} {f : α → State → State} (hf : ∀ x u, SendsFrom u (f x u)) (s : State) : SendsFrom s (forAll l f s) := by
  induction l generalizing s with
  | nil => exact SendsFrom.refl s
  | cons x l ih => exact (hf x s).trans (ih _)

theorem raise_sends (f : Flag) (i : Option Nat) (s : State) : SendsFrom s (raise f i s) := by
  unfold raise handAttention
  dsimp only
  split_ifs <;> exact ⟨_, _, _, _, rfl⟩

theorem joinPourRecord_sends (mk : Byte → PourReport) (s : State) : SendsFrom s (joinPourRecord mk s) := by
  unfold joinPourRecord
  split <;> exact ⟨_, _, _, _, rfl⟩

theorem handPourRecord_sends (mk : Byte → PourReport) (s : State) : SendsFrom s (handPourRecord mk s) := by
  unfold handPourRecord
  split
  · exact joinPourRecord_sends mk s
  · exact (joinPourRecord_sends mk s).trans (raise_sends _ _ _)

theorem resetRecord_sends (x : Tap) (s : State) : SendsFrom s (resetRecord x s) := by
  unfold resetRecord
  split
  · exact handPourRecord_sends _ s
  · exact SendsFrom.refl s

/-! ## The POUR_RECORDs that join, and the LINK_ERROR of one that is lost (R173) -/

/-- R173, R179. The ATTENTION frames that `n` POUR_RECORDs bring: one, where one of them finds no room, LINK_ERROR is clear and unmasked and no ATTENTION frame waits. -/
def attentionOfLost (n : Nat) (s : State) : Nat :=
  if 14 < s.mgp.up.length + n ∧ 0 < n ∧ s.atn[Flag.linkError.idx].pending = false ∧ s.atn[Flag.linkError.idx].masked = false ∧
    ∀ u ∈ s.mgp.up, u.isAttention = false then 1 else 0

theorem handPourRecord_room {mk : Byte → PourReport} {s : State} (h : s.mgp.up.length < 14) :
    handPourRecord mk s = { s with mgp := { s.mgp with up := s.mgp.up ++ [.pourRecord (mk s.mgp.seq)], seq := s.mgp.seq + 1 } } := by
  have hr : pourRecordRoom s = true := decide_eq_true h
  rw [handPourRecord, if_pos hr, joinPourRecord, if_pos hr]
  rfl

theorem handPourRecord_lost {mk : Byte → PourReport} {s : State} (h : 14 ≤ s.mgp.up.length) : handPourRecord mk s = raiseLinkError (takeSeq s) := by
  have hr : ¬ pourRecordRoom s = true := fun e => Nat.not_lt.2 h (of_decide_eq_true e)
  rw [handPourRecord, if_neg hr, joinPourRecord, if_neg hr]

theorem raise_pending (f : Flag) (i : Option Nat) (s : State) : (raise f i s).atn[f.idx].pending = true := by
  have h : (raise f i s).atn = upd s.atn f.idx (FlagRecord.raised i) := by
    unfold raise handAttention
    dsimp only
    split_ifs <;> rfl
  rw [h, upd_get, if_pos rfl]
  rfl

theorem handAttention_mgp (s : State) :
    (handAttention s).mgp = if ∀ u ∈ s.mgp.up, u.isAttention = false
      then { s.mgp with up := s.mgp.up ++ [.attention s.mgp.seq], seq := s.mgp.seq + 1 } else s.mgp := by
  have hany : s.mgp.up.any UpFrame.isAttention = true ↔ ¬ ∀ u ∈ s.mgp.up, u.isAttention = false := by simp
  unfold handAttention
  by_cases hw : ∀ u ∈ s.mgp.up, u.isAttention = false
  · rw [if_neg fun e => hany.1 e hw, if_pos hw]
    rfl
  · rw [if_pos (hany.2 hw), if_neg hw]

/-- R178, R179. What a raise hands over. -/
theorem raise_mgp (f : Flag) (i : Option Nat) (s : State) :
    (raise f i s).mgp = if s.atn[f.idx].pending = false ∧ s.atn[f.idx].masked = false ∧ ∀ u ∈ s.mgp.up, u.isAttention = false
      then { s.mgp with up := s.mgp.up ++ [.attention s.mgp.seq], seq := s.mgp.seq + 1 } else s.mgp := by
  unfold raise
  dsimp only
  by_cases hf : s.atn[f.idx].pending = false ∧ s.atn[f.idx].masked = false
  · rw [if_pos hf, handAttention_mgp]
    exact if_congr ⟨fun hw => ⟨hf.1, hf.2, hw⟩, fun e => e.2.2⟩ rfl rfl
  · rw [if_neg hf, if_neg fun e => hf ⟨e.1, e.2.1⟩]
    rfl

/-- The upward queue after `n` POUR_RECORDs: their numbers, the ATTENTION frames, and the frames that joined. -/
def SentRecords (n : Nat) (s t : State) : Prop :=
  t.mgp.seq = s.mgp.seq + BitVec.ofNat 8 (n + attentionOfLost n s) ∧
  t.mgp.up.countP UpFrame.isAttention = s.mgp.up.countP UpFrame.isAttention + attentionOfLost n s ∧
  t.mgp.up.length = s.mgp.up.length + min n (14 - s.mgp.up.length) + attentionOfLost n s

/-- R173. The numbers run on by one. -/
theorem seq_succ (q : Byte) (n : Nat) : q + 1 + BitVec.ofNat 8 n = q + BitVec.ofNat 8 (n + 1) := by
  rw [Nat.add_comm n, BitVec.ofNat_add, ← add_assoc]
  rfl

theorem SentRecords.zero (s : State) : SentRecords 0 s s := by simp [SentRecords, attentionOfLost]

/-- R173. A record that finds room is followed by those behind it. -/
theorem SentRecords.cons_room {n : Nat} {mk : Byte → PourReport} {s t : State} (h : s.mgp.up.length < 14)
    (ht : SentRecords n (handPourRecord mk s) t) : SentRecords (n + 1) s t := by
  have ha : attentionOfLost n (handPourRecord mk s) = attentionOfLost (n + 1) s := by
    rw [handPourRecord_room h]
    have hq : ∀ f, (∀ u ∈ s.mgp.up ++ [.pourRecord f], u.isAttention = false) ↔ ∀ u ∈ s.mgp.up, u.isAttention = false := fun f => by
      rw [List.forall_mem_append]
      exact and_iff_left fun u hu => List.mem_singleton.1 hu ▸ rfl
    unfold attentionOfLost
    congr 1
    rw [hq, List.length_append, List.length_singleton]
    exact propext ⟨fun ⟨h1, _, h3⟩ => ⟨by omega, by omega, h3⟩, fun ⟨h1, _, h3⟩ => ⟨by omega, by omega, h3⟩⟩
  rw [SentRecords, ha, handPourRecord_room h] at ht
  obtain ⟨hs, hc, hl⟩ := ht
  refine ⟨?_, ?_, ?_⟩
  · rw [hs, seq_succ, Nat.add_right_comm]
  · rw [hc]
    simp [UpFrame.isAttention]
  · rw [hl]
    simp only [List.length_append, List.length_cons, List.length_nil]
    omega

/-- R173, R179. The first record that finds no room hands over the ATTENTION frame; those behind it find the flag pending. -/
theorem SentRecords.cons_lost {n : Nat} {mk : Byte → PourReport} {s t : State} (h : 14 ≤ s.mgp.up.length)
    (ht : SentRecords n (handPourRecord mk s) t) : SentRecords (n + 1) s t := by
  rw [handPourRecord_lost h] at ht
  have h0 : attentionOfLost n (raiseLinkError (takeSeq s)) = 0 := if_neg fun ⟨_, _, hp, _⟩ => by
    rw [raiseLinkError, raise_pending] at hp
    cases hp
  have hm := raise_mgp .linkError none (takeSeq s)
  rw [SentRecords, h0, raiseLinkError, hm] at ht
  obtain ⟨hs, hc, hl⟩ := ht
  have ha : attentionOfLost (n + 1) s = if (takeSeq s).atn[Flag.linkError.idx].pending = false ∧ (takeSeq s).atn[Flag.linkError.idx].masked = false ∧
      ∀ u ∈ (takeSeq s).mgp.up, u.isAttention = false then 1 else 0 := by
    unfold attentionOfLost
    congr 1
    simp only [eq_iff_iff, show 14 < s.mgp.up.length + (n + 1) by omega, Nat.succ_pos, true_and]
    rfl
  rw [SentRecords, ha]
  split at hs
  · rename_i hr
    rw [if_pos hr] at hc hl ⊢
    refine ⟨?_, ?_, ?_⟩
    · rw [hs]
      exact (seq_succ _ _).trans (seq_succ _ _)
    · rw [hc]
      simp [UpFrame.isAttention, takeSeq]
    · rw [hl]
      simp only [List.length_append, List.length_cons, List.length_nil, takeSeq, modMgp_mgp]
      omega
  · rename_i hr
    rw [if_neg hr] at hc hl ⊢
    refine ⟨?_, ?_, ?_⟩
    · rw [hs]
      exact seq_succ _ _
    · rw [hc]
      rfl
    · rw [hl]
      simp only [takeSeq, modMgp_mgp]
      omega

theorem resetRecord_pour {x : Tap} {p : Pour} {s : State} (h : (s.tapRec x).pour = some p) :
    resetRecord x s = handPourRecord (pourReport x p .reset) s := by
  unfold resetRecord
  rw [h]

theorem resetRecord_none {x : Tap} {s : State} (h : (s.tapRec x).pour = none) : resetRecord x s = s := by
  unfold resetRecord
  rw [h]

theorem SendsFrom.tapRec {s t : State} (h : SendsFrom s t) (x : Tap) : t.tapRec x = s.tapRec x := by
  obtain ⟨_, _, _, _, rfl⟩ := h
  rfl

theorem resetRecords_sent {l : List Tap} {s : State} (hl : ∀ x ∈ l, (s.tapRec x).pour.isSome = true) : SentRecords l.length s (forAll l resetRecord s) := by
  induction l generalizing s with
  | nil => exact SentRecords.zero s
  | cons x l ih =>
    obtain ⟨p, hp⟩ := Option.isSome_iff_exists.1 (hl x List.mem_cons_self)
    have ht := ih (s := resetRecord x s) fun y hy => by
      rw [(resetRecord_sends x s).tapRec]
      exact hl y (List.mem_cons_of_mem _ hy)
    show SentRecords (l.length + 1) s (forAll l resetRecord (resetRecord x s))
    rw [resetRecord_pour hp] at ht ⊢
    rcases Nat.lt_or_ge s.mgp.up.length 14 with h | h
    · exact ht.cons_room h
    · exact ht.cons_lost h

/-- While there is room for all, each of the records joins, and none that has joined leaves. -/
theorem resetRecords_join {l : List Tap} {s : State} (hl : s.mgp.up.length + l.length ≤ 14) :
    s.mgp.up <+: (forAll l resetRecord s).mgp.up ∧
    ∀ x ∈ l, ∀ p, (s.tapRec x).pour = some p → ∃ n : Byte, .pourRecord (pourReport x p .reset n) ∈ (forAll l resetRecord s).mgp.up := by
  induction l generalizing s with
  | nil => exact ⟨List.prefix_rfl, fun x hx => by cases hx⟩
  | cons x l ih =>
    rw [List.length_cons] at hl
    show _ <+: (forAll l resetRecord (resetRecord x s)).mgp.up ∧ ∀ y ∈ x :: l, ∀ p, _ → ∃ n, _ ∈ (forAll l resetRecord (resetRecord x s)).mgp.up
    have hx : (resetRecord x s).mgp.up = s.mgp.up ++ ((s.tapRec x).pour.toList.map fun p => .pourRecord (pourReport x p .reset s.mgp.seq)) := by
      cases hp : (s.tapRec x).pour with
      | none => rw [resetRecord_none hp]; exact (List.append_nil _).symm
      | some p =>
        rw [resetRecord_pour hp, handPourRecord_room (by omega)]
        rfl
    obtain ⟨hpre, hjoin⟩ := ih (s := resetRecord x s) (by
      have : (s.tapRec x).pour.toList.length ≤ 1 := by cases (s.tapRec x).pour <;> simp
      rw [hx, List.length_append, List.length_map]
      omega)
    refine ⟨(hx ▸ List.prefix_append _ _ : s.mgp.up <+: (resetRecord x s).mgp.up).trans hpre, fun y hy p hp => ?_⟩
    rcases List.mem_cons.1 hy with rfl | hy
    · exact ⟨s.mgp.seq, hpre.subset (by rw [hx, hp]; exact List.mem_append_right _ List.mem_cons_self)⟩
    · exact hjoin y hy p (by rwa [(resetRecord_sends x s).tapRec])

/-! ## What the TAP is left with (R162) -/

/-- R162. The POUR_RECORDs of the pours that the reset ends have been handed over. -/
def poursReset (s : State) : State := forAny (allTaps.filter fun x => (s.tapRec x).pour.isSome) resetRecord s

theorem poursReset_sends (s : State) : SendsFrom s (poursReset s) := by
  obtain ⟨l, x, -, h⟩ := forAny_spec (allTaps.filter fun x => (s.tapRec x).pour.isSome) resetRecord s
  rw [poursReset, h]
  exact SendsFrom.trans ⟨_, _, _, x, rfl⟩ (sendsFrom_forAll resetRecord_sends _)

theorem mem_ended {s : State} {x : Tap} : x ∈ allTaps.filter (fun x => (s.tapRec x).pour.isSome) ↔ (s.tapRec x).pour.isSome = true :=
  List.mem_filter.trans (and_iff_right (List.mem_finRange x))

theorem poursReset_sent (s : State) : SentRecords ((List.finRange 2).countP fun x => (s.tapRec x).pour.isSome) s (poursReset s) := by
  obtain ⟨l, x, hp, h⟩ := forAny_spec (allTaps.filter fun x => (s.tapRec x).pour.isSome) resetRecord s
  have hl : ∀ y ∈ l, ((s.setFree x).tapRec y).pour.isSome = true := fun y hy => mem_ended.1 (hp.mem_iff.1 hy)
  have hs := resetRecords_sent hl
  rw [hp.length_eq, ← List.countP_eq_length_filter] at hs
  rw [poursReset, h]
  exact hs

theorem poursReset_join {s : State} (hu : s.mgp.up.length < 12) {x : Tap} {p : Pour} (hx : (s.tapRec x).pour = some p) :
    ∃ n : Byte, .pourRecord (pourReport x p .reset n) ∈ (poursReset s).mgp.up := by
  obtain ⟨l, y, hp, h⟩ := forAny_spec (allTaps.filter fun x => (s.tapRec x).pour.isSome) resetRecord s
  have hl : l.length ≤ 2 := hp.length_eq ▸ List.length_filter_le _ allTaps
  have hj := (resetRecords_join (s := s.setFree y) (l := l) (by
    show s.mgp.up.length + l.length ≤ 14
    omega)).2 x (hp.mem_iff.2 (mem_ended.2 (hx ▸ rfl))) p hx
  rw [poursReset, h]
  exact hj

theorem poursReset_touches (s : State) : Touches [.up, .atn, .free] s (poursReset s) :=
  forAny_touches (Touches.refl _ s) (by decide) fun _ _ hu => resetRecord_touches hu (by decide) (by decide)

theorem upd_both {α : Type} (v : Vector α 2) (f : α → α) : upd (upd v 0 f) 1 f = v.map f := by
  ext i hi
  match i, hi with
  | 0, _ | 1, _ => simp [upd]

theorem tapRecordsReset_eq (s : State) :
    forAll allTaps (fun t s => s.modTap t TapRecord.softReset) s = { s with tap := { s.tap with taps := s.tap.taps.map TapRecord.softReset } } := by
  rw [← upd_both]
  rfl

theorem tapsSoftReset_eq (s : State) :
    tapsSoftReset s = { poursReset s with tap := { s.tap with taps := s.tap.taps.map TapRecord.softReset } } := by
  have ht : (poursReset s).tap = s.tap := by
    obtain ⟨_, _, _, _, h⟩ := poursReset_sends s
    rw [h]
  exact (tapRecordsReset_eq (poursReset s)).trans (by rw [ht])

/-! ## What every block is left with (R168) -/

/-- R17. The Bay Link Controller once its software reset is done, before the next exchange is chosen. -/
def blcReset (x : Blc) : Blc :=
  { nodes := .replicate 9 { state := .unseen, failures := 0, lastReply := none, due := true }, outs := .replicate 35 0,
    urgent := [0, 1, 2, 3, 4, 5, 6, 7, 8], exchange := none, roundOpen := true, roundTimer := true, overrun := false,
    discard := (match x.exchange with
      | none => x.discard
      | some y => match y.phase with | .sending => .finishing | .awaiting => .running | .retryWait => .none)
    driver := x.driver, txFrame := x.txFrame }

theorem softReset_eq (s : State) :
    softReset s =
      { s with
        blc := blcReset s.blc, ccu := s.ccu.map Channel.softReset
        rte := { s.rte with slots := .replicate 24 none, counts := .replicate 24 0, lastControl := .replicate 6 none }
        kegs := s.kegs.map Keg.softReset
        chl := { s.chl with
          guardState := .normal, limit := s.chl.configured, nodeLost := false, holders := [], queue := [], thermos := .replicate 6 none
          lines := s.chl.lines.map fun l => { l with active := false, state := .rest } }
        man := { s.man with op := none, queue := [], state := if s.man.leak then .lockout else .idle, nodeOnline := false }
        tap := { s.tap with taps := s.tap.taps.map TapRecord.softReset }
        mgp := { s.mgp with part := .held, receiver := s.mgp.receiver.take 1, up := (poursReset s).mgp.up, seq := (poursReset s).mgp.seq }
        atn := (poursReset s).atn.map FlagRecord.cleared, free := (poursReset s).free } := by
  obtain ⟨up, seq, atn, free, h⟩ := poursReset_sends s
  rw [softReset, flagsSoftReset, tapsSoftReset_eq, h]
  rfl

/-- In HELD no block owns the pump or a cue. -/
theorem shownOk_held {s : State} (h : s.mgp.part = .held) : ShownOk s := by
  have hr : ¬ s.running := by simp [State.running, h]
  refine ⟨fun ho => ?_, fun y ho => ?_⟩
  · simp [owner, hr] at ho
  · simp [owner, hr] at ho

theorem upd_eq_self {α : Type} {n : Nat} {v : Vector α n} {i : Fin n} {f : α → α} (h : f v[i] = v[i]) : upd v i f = v := by
  rw [upd, h]
  exact Vector.set_getElem_self _

/-- R159. No purge retry timer runs in HELD. -/
theorem retrySync_held {s : State} {x : Tap} (h : s.mgp.part = .held) (hx : (s.tapRec x).purgeRetry = none) : retrySync x s = s := by
  have hr : retryRuns x s = false := by simp [retryRuns, State.running, h]
  rw [retrySync, State.modTap, upd_eq_self]
  rw [hr, if_neg Bool.false_ne_true, ← hx]

/-- The choice of the next exchange is the Bay Link's own. -/
theorem kick_eq (s : State) : kick s = { s with blc := (kick s).blc } := by
  unfold kick
  split
  · split <;> rfl
  · rfl

/-- The end of an event in HELD, while no purge retry timer runs, is the choice of the next exchange alone. -/
theorem finish_held {s : State} (h : s.mgp.part = .held) (hx : ∀ x, (s.tapRec x).purgeRetry = none) : finish s = { s with blc := (finish s).blc } := by
  rw [finish_of_shown (shownOk_held h), retrySync_held h (hx 0), retrySync_held h (hx 1)]
  exact kick_eq s

theorem softReset_held (s : State) : (softReset s).mgp.part = .held := by rw [softReset_eq]

theorem softReset_purgeRetry (s : State) (x : Tap) : ((softReset s).tapRec x).purgeRetry = none := by
  rw [softReset_eq]
  simp [TapRecord.softReset]

theorem imageOf_reset {s : State} (h : s.blc.outs = .replicate 35 0) (n : Node) : imageOf n s = (outputsOf n).map fun _ => 0 :=
  List.map_congr_left fun o _ => by
    rw [State.out, h]
    exact Vector.getElem_replicate _

/-- R6, R17. On a line that the reset leaves idle the first exchange of the round begins. -/
theorem softReset_blc (s : State) :
    (finish (softReset s)).blc =
      if (blcReset s.blc).discard = .none then withNextExchange (fun n => (outputsOf n).map fun _ => 0) (blcReset s.blc) else blcReset s.blc := by
  have hs := shownOk_held (softReset_held s)
  have hb : (softReset s).blc = blcReset s.blc := by rw [softReset_eq]
  split
  · rename_i hd
    rw [finish_blc_idle hs (by rw [hb]; rfl) (by rw [hb, hd]), hb]
    congr 1
    funext n
    exact imageOf_reset (by rw [hb]; rfl) n
  · rename_i hd
    rw [finish_blc_busy hs (.inr (by rwa [hb])), hb]

theorem kegSoftReset_eq (k : Keg) :
    k.softReset = { k with
      phase := if k.phase = .scheduled ∨ k.phase = .serving then .halted else k.phase
      prior := if k.phase = .scheduled then some .scheduled else if k.phase = .serving then some .serving else k.prior
      haltReason := if k.phase = .scheduled ∨ k.phase = .serving then some .reset else k.haltReason
      relief := false, ventOpen := false, sensedTemp := none, sensedPressure := none, pours := 0, underControl := false
      chargePending := false, counted := false } := by
  unfold Keg.softReset
  cases h : k.phase <;> simp [Phase.active, Keg.scheduleReset, h]

/-- R162. A pour that a reset ends counts as ended, not as refused. -/
theorem pourReport_reset (x : Tap) (p : Pour) (n : Byte) :
    pourReport x p .reset n =
      { tag := n, number := p.number, tap := x, bay := some p.bay, source := p.source, target := p.target, metered := p.metered,
        refused := false, reason := .reset } := by
  simp [pourReport, PourReason.refuses]

theorem softReset_leads {tag : Byte} {s : State} (h : Taken tag (.softReset (.params ())) s) :
    exec (.softReset tag (.params ())) s =
      .next (respond tag (.softReset (.params ())) { status := .ok, result := .nothing } { softReset s with blc := (finish (softReset s)).blc }) := by
  have he := exec_carriedOut h rfl (u := softReset s) (x := .nothing) rfl
  rw [finish_held (softReset_held s) (softReset_purgeRetry s)] at he
  exact he

/-- Settles O25. -/
theorem softwareResetOfTheRest : Obligations.SoftwareResetOfTheRest := by
  intro tag s h
  refine ⟨_, softReset_leads h, ?_⟩
  have hsent := poursReset_sent s
  have htouch := poursReset_touches s
  rw [softReset_blc, softReset_eq]
  refine ⟨rfl, h.1, rfl, rfl, fun b => ?_, rfl, rfl, rfl, fun x => ?_, rfl, rfl, rfl, rfl, ?_, rfl, ?_, fun i => ?_, ?_, fun hu x p hp => ?_⟩
  · show (s.kegs.map Keg.softReset)[b] = _
    rw [Fin.getElem_fin, Vector.getElem_map]
    exact kegSoftReset_eq _
  · show (s.tap.taps.map TapRecord.softReset)[x] = _
    rw [Fin.getElem_fin, Vector.getElem_map]
    rfl
  · show (s.mgp.receiver.take 1).tail = []
    cases s.mgp.receiver <;> rfl
  · exact (htouch .sentOn (by decide)).trans (List.prefix_append _ _)
  · show ((poursReset s).atn.map FlagRecord.cleared)[i] = _
    have hm : (poursReset s).atn[i].masked = s.atn[i].masked := by
      simpa using congrArg (·[i]) (show (poursReset s).atn.map (·.masked) = s.atn.map (·.masked) from htouch .masks (by decide))
    rw [Fin.getElem_fin, Vector.getElem_map, ← hm]
    rfl
  · obtain ⟨hs, hc, hl⟩ := hsent
    refine ⟨hs, ?_, ?_⟩
    · rw [respond_up, List.countP_append]
      exact hc
    · rw [respond_up, List.length_append]
      exact congrArg (· + 1) hl
  · obtain ⟨n, hn⟩ := poursReset_join hu hp
    rw [pourReport_reset] at hn
    exact ⟨n, List.mem_append_left _ hn⟩

end Sys2Proof.Proofs
end

section
/-! PROOFS. A valid READY reply: the node's record, what is handed over, and the end of the exchange (R7, R11, R14, R15). -/

namespace Sys2Proof.Proofs

open Sys2Proof.Machine Sys2Proof.Safety Sys2Proof.Claims

/-! ## The end of an exchange (R7, R11, R13) -/

theorem anyDue_iff (s : State) : anyDue s = false ↔ ∀ n : Node, s.blc.nodes[n].due = false := by
  have hn : ∀ n : Node, n ∈ allNodes := by decide
  rw [anyDue, List.any_eq_false]
  exact ⟨fun h n => Bool.eq_false_iff.2 (h n (hn n)), fun h n _ => Bool.eq_false_iff.1 (h n)⟩

/-- R7. The end of a round, as the line sees it. -/
def withRoundEnd (x : Blc) : Blc :=
  if x.roundOpen = true ∧ ∀ n : Node, x.nodes[n].due = false then
    if x.roundTimer = true then { x with roundOpen := false } else withNewRound x
  else x

theorem endRound_eq (s : State) : endRound s = s.modBlc withRoundEnd := by
  have hd : (s.blc.roundOpen && !anyDue s) = true ↔ s.blc.roundOpen = true ∧ ∀ n : Node, s.blc.nodes[n].due = false := by
    rw [Bool.and_eq_true, Bool.not_eq_true', anyDue_iff]
  unfold endRound State.modBlc withRoundEnd
  by_cases hc : s.blc.roundOpen = true ∧ ∀ n : Node, s.blc.nodes[n].due = false
  · rw [if_pos (hd.2 hc), if_pos hc]
    by_cases ht : s.blc.roundTimer = true
    · rw [if_pos ht, if_pos ht]
    · rw [if_neg ht, if_neg ht]
      rfl
  · rw [if_neg (hd.not.2 hc), if_neg hc]

/-- R7, R11, R13. The end of an exchange is that of `withoutExchange`. -/
theorem endExchange_eq (s : State) : endExchange s = s.modBlc withoutExchange := endRound_eq _

theorem withoutExchange_fields (x : Blc) :
    (withoutExchange x).exchange = none ∧ (withoutExchange x).outs = x.outs ∧ (withoutExchange x).discard = x.discard ∧
      ∀ n : Node, (withoutExchange x).nodes[n].state = x.nodes[n].state := by
  unfold withoutExchange withNewRound
  dsimp only
  split_ifs <;> simp

/-! ## The records of the nodes -/

/-- A node's record but for its due mark, in a state that only work outside the nodes has changed. -/
theorem undue_of_same {s t : State} (h : Same .nodes s t) (n : Node) : undue (t.node n) = undue (s.node n) := by
  simpa using congrArg (·[n]) (show t.blc.nodes.map undue = s.blc.nodes.map undue from h)

/-- R11, R15. The node's record once its READY reply has been taken. -/
def heardRecord (r : Reply) (x : NodeRecord) : NodeRecord := { x with lastReply := some r, failures := 0, state := .online }

/-- What a successful exchange reaches beyond the record of its node. -/
def heardParts : List Part :=
  [.line, .image, .retry, .chans, .slots, .drawn, .kegs, .phases, .chl, .man, .taps, .up, .atn, .free, .counts, .volumes, .pourless]

theorem exchangeSucceeded_heard (n : Node) (r : Reply) (s : State) :
    Touches heardParts (s.modNode n (heardRecord r)) (finish (exchangeSucceeded n r s)) := by
  have h0 := Touches.refl heardParts (s.modNode n (heardRecord r))
  have hd : Touches heardParts (s.modNode n (heardRecord r))
      (if (s.node n).state = .online then s.modNode n (heardRecord r) else deliverOnline n (decide ((s.node n).state = .lost)) (s.modNode n (heardRecord r))) :=
    Touches.branch (fun _ => h0) fun _ => deliverOnline_touches h0 (by decide) (by decide) (by decide) (by decide) (by decide) (by decide) (by decide)
      (by decide) (by decide) (by decide) (by decide) (by decide)
  exact finish_touches (endExchange_touches (handOver_touches hd (by decide) (by decide) (by decide) (by decide) (by decide) (by decide) (by decide)
    (by decide) (by decide) (by decide) (by decide) (by decide) (by decide) (by decide) (by decide)) (by decide)) (by decide) (by decide) (by decide)

theorem exec_readyReply {s : State} {x : Exchange} {chars : List Char9} {r : Reply} (ha : Awake s) (he : s.blc.exchange = some x)
    (hp : x.phase = .awaiting) (hj : judgeReply x.node chars = .ready r) :
    exec (.readyReply chars) s = .next (finish (exchangeSucceeded x.node r s)) := by
  simp only [exec, execReadyReply, verdictOn_awaiting he hp, hj]
  rw [live_of ha rfl]

/-- R11, R14. From a node that is ONLINE already nothing comes of a reply but the hand-over. -/
theorem exchangeSucceeded_online {n : Node} {r : Reply} {s : State} (h : (s.node n).state = .online) :
    exchangeSucceeded n r s = endExchange (handOver n r false (s.modNode n (heardRecord r))) := by
  unfold exchangeSucceeded
  simp only [h, if_true]
  rfl

theorem endOfExchange_touches (s : State) : Touches eventParts s (finish (endExchange s)) :=
  finish_touches (endExchange_touches (Touches.refl _ s) (by decide)) (by decide) (by decide) (by decide)

/-! ## What is handed over (R15, R21) -/

/-- R15. Without panel data only the readings are handed over. -/
theorem handOver_readings {n : Node} {r : Reply} {first : Bool} {s : State} (h : r.panel = none) : handOver n r first s = takeReadings n r s := by
  simp only [handOver, h]

/-- R15, R21. With panel data: the readings are conditioned, and the panel's event falls before, after or between the publications. -/
theorem handOver_panel {n : Node} {r : Reply} {first : Bool} {v : Vector PanelTap 2} {s : State} (h : r.panel = some v) :
    ∃ free before after, (before ++ after).Perm (publishers n r s) ∧
      handOver n r first s = forAll after publish (panelData first v (forAll before publish (conditionReadings n r (s.setFree free)))) := by
  obtain ⟨before, after, free, hp, he⟩ := forAnyWith_spec (panelData first v) (publishers n r s) publish (conditionReadings n r s)
  refine ⟨free, before, after, hp, ?_⟩
  simp only [handOver, h]
  rw [he, conditionReadings_setFree]

/-- R15. A node that no channel reads hands no reading over. -/
theorem takeReadings_unread {n : Node} {r : Reply} {s : State} (h : ∀ c : Chan, (s.chan c).record.node ≠ n) : takeReadings n r s = s := by
  have hr : readers n s = [] := List.filter_eq_nil_iff.2 fun c _ e => h c (of_decide_eq_true (Bool.and_eq_true_iff.1 e).1)
  simp only [takeReadings, conditionReadings, publishers, hr]
  rfl

/-- Table 10-4. Panel data comes from the tap panel's node alone. -/
theorem judgeReply_panel {n : Node} {chars : List Char9} {r : Reply} (h : judgeReply n chars = .ready r) (hn : n ≠ panelNode) : r.panel = none := by
  unfold judgeReply at h
  repeat' split at h
  all_goals cases h
  simp [readyContents, hn]

/-- R11. From an ONLINE node that no channel reads and that is not the tap panel, nothing is handed over. -/
theorem exchangeSucceeded_unread {n : Node} {r : Reply} {s : State} (ho : (s.node n).state = .online) (hr : r.panel = none)
    (hc : ∀ c : Chan, (s.chan c).record.node ≠ n) :
    exchangeSucceeded n r s = s.modBlc fun x => withoutExchange { x with nodes := upd x.nodes n (heardRecord r) } := by
  rw [exchangeSucceeded_online ho, handOver_readings hr, takeReadings_unread (s := s.modNode n (heardRecord r)) hc, endExchange_eq]
  rfl

/-- The end of an exchange that changes the record of its node, but not the node's state as ONLINE or not. -/
theorem recorded_shownOk {n : Node} {g : NodeRecord → NodeRecord} {s : State} (ho : (g (s.node n)).state = (s.node n).state) (h : ShownOk s) :
    ShownOk (s.modBlc fun x => withoutExchange { x with nodes := upd x.nodes n g }) := by
  obtain ⟨-, houts, -, hstate⟩ := withoutExchange_fields { s.blc with nodes := upd s.blc.nodes n g }
  refine shownOk_modBlc houts ?_ h
  rw [hstate]
  show (upd s.blc.nodes n g)[panelNode].state = _
  rw [upd_get]
  split
  · rename_i e
    subst e
    exact ho
  · rfl

/-- R6, R11. With the line idle behind it, the next exchange begins. -/
theorem recorded_blc {n : Node} {g : NodeRecord → NodeRecord} {s : State} (ho : (g (s.node n)).state = (s.node n).state) (h : ShownOk s)
    (hd : s.blc.discard = .none) :
    (finish (s.modBlc fun x => withoutExchange { x with nodes := upd x.nodes n g })).blc =
      withNextExchange (fun n => imageOf n s) (withoutExchange { s.blc with nodes := upd s.blc.nodes n g }) := by
  obtain ⟨hex, houts, hdis, -⟩ := withoutExchange_fields { s.blc with nodes := upd s.blc.nodes n g }
  rw [finish_blc_idle (recorded_shownOk ho h) hex (hdis.trans hd)]
  congr 1
  funext m
  exact imageOf_congr houts m

theorem heard_touches (n : Node) (r : Reply) (s : State) : Touches (.nodes :: eventParts) s (s.modNode n (heardRecord r)) :=
  modNode_touches (Touches.refl _ s) (by decide) (.inr fun _ => ⟨by simp [heardRecord], by simp [heardRecord]⟩) (.inl (by decide))

/-- Settles O10. -/
theorem aReadyReplySucceeds : Obligations.AReadyReplySucceeds := by
  intro s x chars r ha he hp hj
  have hnodes := fun m => undue_of_same (exchangeSucceeded_heard x.node r s .nodes (by decide)) m
  refine ⟨_, exec_readyReply ha he hp hj, ?_, fun m hm => ?_, ?_, fun ho => ⟨fun hv => ?_, fun v hv => ?_⟩, fun ho hn hc => ?_⟩
  · rw [hnodes]
    show undue (upd s.blc.nodes x.node (heardRecord r))[x.node] = _
    rw [upd_get, if_pos rfl]
    rfl
  · rw [hnodes]
    show undue (upd s.blc.nodes x.node (heardRecord r))[m] = _
    rw [upd_get, if_neg hm]
  · exact ((heard_touches x.node r s).mono (by decide)).trans ((exchangeSucceeded_heard x.node r s).mono (by decide))
  · rw [exchangeSucceeded_online ho, handOver_readings hv]
    exact endOfExchange_touches _
  · obtain ⟨free, before, after, hperm, hover⟩ := handOver_panel (n := x.node) (first := false) (s := s.modNode x.node (heardRecord r)) hv
    refine ⟨free, before, after, hperm, ?_⟩
    rw [exchangeSucceeded_online ho, hover]
    exact endOfExchange_touches _
  · have hv := judgeReply_panel hj hn
    refine ⟨?_, fun h hd => ?_⟩
    · rw [exchangeSucceeded_online ho, handOver_readings hv, takeReadings_unread (s := s.modNode x.node (heardRecord r)) hc]
      exact (heard_touches x.node r s).trans ((endOfExchange_touches _).mono (by decide))
    · rw [exchangeSucceeded_unread ho hv hc]
      exact recorded_blc ho.symm h hd

end Sys2Proof.Proofs
end

section
/-! PROOFS. Readings: which channels condition them, what a publication stores, and that the orders left open do not show (R15, R21, R28, R46). -/

namespace Sys2Proof.Proofs

open Sys2Proof.Machine Sys2Proof.Safety Sys2Proof.Claims

/-! ## Slots -/

theorem mem_allDests (d : Dest) : d ∈ allDests := by
  cases d with
  | kegCore b | kegWall b | kegPress b => revert b; decide
  | line x => revert x; decide
  | manifold | cylinder | glycol | ambient => decide

/-- No two destinations have the same slot. -/
theorem destIdx_injective {d e : Dest} (h : destIdx d = destIdx e) : d = e :=
  List.inj_on_of_nodup_map (by decide : (allDests.map destIdx).Nodup) (mem_allDests d) (mem_allDests e) h

theorem setSlot_get (d e : Dest) (x : Option Slot) (s : State) :
    (setSlot d x s).rte.slots[destIdx e] = if e = d then x else s.rte.slots[destIdx e] := by
  show (upd s.rte.slots (destIdx d) fun _ => x)[destIdx e] = _
  rw [upd_get]
  by_cases h : e = d
  · rw [if_pos h, if_pos (congrArg destIdx h)]
  · rw [if_neg h, if_neg fun i => h (destIdx_injective i)]

/-! ## Work beside a channel -/

/-- What the consumers of a publication, and its count, may reach: no channel, no route and no slot among it. -/
def consumerParts : List Part :=
  [.image, .chl, .man, .kegs, .phases, .taps, .up, .atn, .free, .drawn, .counts, .volumes, .pourless]

/-- The channel, the routes, and the slot of the channel's own route are the same in both states. -/
def Beside (c : Chan) (s t : State) : Prop :=
  t.chan c = s.chan c ∧ t.rte.routes = s.rte.routes ∧
  ∀ d, s.rte.routes[c].dest = some d → (∀ c' : Chan, c' ≠ c → s.rte.routes[c'].dest ≠ some d) → t.rte.slots[destIdx d] = s.rte.slots[destIdx d]

theorem Beside.refl (c : Chan) (s : State) : Beside c s s := ⟨rfl, rfl, fun _ _ _ => rfl⟩

theorem Beside.trans {c : Chan} {s t u : State} (h : Beside c s t) (g : Beside c t u) : Beside c s u := by
  obtain ⟨hc, hr, hs⟩ := h
  obtain ⟨gc, gr, gs⟩ := g
  rw [hr] at gs gr
  exact ⟨gc.trans hc, gr, fun d hd hn => (gs d hd hn).trans (hs d hd hn)⟩

theorem beside_of_touches {s t : State} (h : Touches consumerParts s t) (c : Chan) : Beside c s t := by
  have hc : t.ccu = s.ccu := h .chans (by decide)
  have hr : t.rte.routes = s.rte.routes := h .routes (by decide)
  have hs : t.rte.slots = s.rte.slots := h .slots (by decide)
  exact ⟨by rw [State.chan, hc], hr, fun d _ _ => by rw [hs]⟩

theorem beside_forAll {α : Type} {c : Chan} {l : List α} {f : α → State → State} (hf : ∀ x ∈ l, ∀ u, Beside c u (f x u)) (s : State) :
    Beside c s (forAll l f s) := by
  induction l generalizing s with
  | nil => exact Beside.refl c s
  | cons x l ih => exact (hf x List.mem_cons_self s).trans (ih (fun y hy => hf y (List.mem_cons_of_mem _ hy)) _)

/-! ## One publication (R28, R36, R46) -/

theorem chan_modChan (c c' : Chan) (f : Channel → Channel) (s : State) : (s.modChan c f).chan c' = if c' = c then f (s.chan c) else s.chan c' := by
  show (upd s.ccu c f)[c'] = _
  rw [upd_get]

/-- R46. The slot of the channel's route holds the value, and nothing has been delivered yet. -/
def inSlot (c : Chan) (v : Int) (m : Marks) (s : State) : State :=
  match s.rte.routes[c].dest with
  | some d => setSlot d (some { value := v, marks := m, channel := c }) s
  | none => s

/-- R46, R51. Of a publication the routes, the channels and the slots see the new content of one slot, that of the channel's route. -/
theorem storePublication_slots (c : Chan) (v : Int) (m : Marks) (s : State) : Touches consumerParts (inSlot c v m s) (storePublication c v m s) := by
  cases hd : s.rte.routes[c].dest with
  | none =>
    simp only [storePublication, inSlot, hd]
    exact reportCount_touches (Touches.refl _ s) (by decide) (by decide) (by decide)
  | some d =>
    simp only [storePublication, inSlot, hd]
    exact reportCount_touches (slotStored_touches (Touches.refl _ _) (by decide) (by decide) (by decide) (by decide) (by decide) (by decide) (by decide)
      (by decide) (by decide) (by decide)) (by decide) (by decide) (by decide)

theorem inSlot_ccu (c : Chan) (v : Int) (m : Marks) (s : State) : (inSlot c v m s).ccu = s.ccu := by
  unfold inSlot
  split <;> rfl

theorem inSlot_get (c : Chan) (v : Int) (m : Marks) (s : State) (e : Dest) :
    (inSlot c v m s).rte.slots[destIdx e] =
      if s.rte.routes[c].dest = some e then some { value := v, marks := m, channel := c } else s.rte.slots[destIdx e] := by
  cases hd : s.rte.routes[c].dest with
  | none => simp only [inSlot, hd, reduceCtorEq, if_false]
  | some d =>
    simp only [inSlot, hd, setSlot_get, Option.some.injEq, eq_comm]

/-- R28, R36. What a publication leaves of the channels. -/
theorem publish_chan (c c' : Chan) (s : State) :
    (publish c s).chan c' = if c' = c then { s.chan c with subst := (s.chan c).subst.next } else s.chan c' := by
  have h := storePublication_slots c (s.chan c).publication.1 (s.chan c).publication.2 (s.modChan c fun ch => { ch with subst := ch.subst.next })
  have hc : (publish c s).ccu = _ := h .chans (by decide)
  rw [inSlot_ccu] at hc
  rw [State.chan, hc]
  exact chan_modChan c c' _ s

theorem publish_routes (c : Chan) (s : State) : (publish c s).rte.routes = s.rte.routes :=
  publish_touches (l := .chans :: .slots :: consumerParts) (Touches.refl _ s) (by decide) (by decide) (by decide) (by decide) (by decide) (by decide)
    (by decide) (by decide) (by decide) (by decide) (by decide) (by decide) (by decide) .routes (by decide)

/-- R46. What a publication leaves of the slots: that of the channel's route holds it. -/
theorem publish_slot (c : Chan) (e : Dest) (s : State) :
    (publish c s).rte.slots[destIdx e] =
      if s.rte.routes[c].dest = some e then some { value := (s.chan c).publication.1, marks := (s.chan c).publication.2, channel := c }
      else s.rte.slots[destIdx e] := by
  have h := storePublication_slots c (s.chan c).publication.1 (s.chan c).publication.2 (s.modChan c fun ch => { ch with subst := ch.subst.next })
  have hs : (publish c s).rte.slots = _ := h .slots (by decide)
  rw [hs, inSlot_get]
  rfl

/-- Another channel's publication is work beside this channel. -/
theorem publish_beside {c c' : Chan} (h : c' ≠ c) (s : State) : Beside c s (publish c' s) := by
  refine ⟨by rw [publish_chan, if_neg h.symm], publish_routes c' s, fun d _ hn => ?_⟩
  rw [publish_slot, if_neg (hn c' h)]

/-- In a run of publications, each channel's own is the only one that shows on it. -/
theorem publishes_once {c : Chan} {l : List Chan} (hn : l.Nodup) (hc : c ∈ l) (s : State) :
    ∃ u, Beside c s u ∧ Beside c (publish c u) (forAll l publish s) := by
  induction l generalizing s with
  | nil => cases hc
  | cons a l ih =>
    obtain ⟨ha, hn⟩ := List.nodup_cons.1 hn
    rcases List.mem_cons.1 hc with rfl | hc
    · exact ⟨s, Beside.refl c s, beside_forAll (fun y hy u => publish_beside (ne_of_mem_of_not_mem hy ha) u) _⟩
    · obtain ⟨u, hu, hv⟩ := ih hn hc (publish a s)
      exact ⟨u, (publish_beside (ne_of_mem_of_not_mem hc ha).symm s).trans hu, hv⟩

/-! ## The hand-over, in whatever order (R15, R21) -/

/-- The publications of `l` in some order, with work beside the channels before, after or between them. -/
def Publishes (l : List Chan) (s t : State) : Prop :=
  ∃ (before after : List Chan) (g : State → State), (before ++ after).Perm l ∧ (∀ c u, Beside c u (g u)) ∧
    t = forAll after publish (g (forAll before publish s))

theorem Publishes.not_mem {l : List Chan} {s t : State} (h : Publishes l s t) {c : Chan} (hc : c ∉ l) : Beside c s t := by
  obtain ⟨before, after, g, hp, hg, rfl⟩ := h
  have hb : ∀ c' ∈ before ++ after, c' ≠ c := fun c' hm e => hc (hp.mem_iff.1 (e ▸ hm))
  exact (beside_forAll (fun y hy u => publish_beside (hb y (List.mem_append_left _ hy)) u) _).trans
    ((hg c _).trans (beside_forAll (fun y hy u => publish_beside (hb y (List.mem_append_right _ hy)) u) _))

theorem Publishes.mem {l : List Chan} {s t : State} (h : Publishes l s t) (hn : l.Nodup) {c : Chan} (hc : c ∈ l) :
    ∃ u, Beside c s u ∧ Beside c (publish c u) t := by
  obtain ⟨before, after, g, hp, hg, rfl⟩ := h
  obtain ⟨hnb, hna, hdis⟩ := List.nodup_append.1 (hp.nodup_iff.2 hn)
  rcases List.mem_append.1 (hp.mem_iff.2 hc) with hm | hm
  · obtain ⟨u, hu, hv⟩ := publishes_once hnb hm s
    exact ⟨u, hu, (hv.trans (hg c _)).trans (beside_forAll (fun y hy v => publish_beside (fun e => hdis c hm y hy e.symm) v) _)⟩
  · obtain ⟨u, hu, hv⟩ := publishes_once hna hm (g (forAll before publish s))
    exact ⟨u, ((beside_forAll (fun y hy v => publish_beside (fun e => hdis y hy c hm e) v) s).trans (hg c _)).trans hu, hv⟩

/-- R28, R36, R46. What a channel that publishes is left with, and what its slot holds. -/
theorem Publishes.published {l : List Chan} {s t : State} (h : Publishes l s t) (hn : l.Nodup) {c : Chan} (hc : c ∈ l) :
    t.chan c = { s.chan c with subst := (s.chan c).subst.next } ∧
    ∀ d, s.rte.routes[c].dest = some d → (∀ c' : Chan, c' ≠ c → s.rte.routes[c'].dest ≠ some d) →
      t.rte.slots[destIdx d] = some { value := (s.chan c).publication.1, marks := (s.chan c).publication.2, channel := c } := by
  obtain ⟨u, ⟨huc, hur, -⟩, hvc, hvr, hvs⟩ := h.mem hn hc
  rw [publish_routes, hur] at hvs
  refine ⟨by rw [hvc, publish_chan, if_pos rfl, huc], fun d hd hu => ?_⟩
  rw [hvs d hd hu, publish_slot, hur, if_pos hd, huc]

theorem takeReadings_publishes (n : Node) (r : Reply) (s : State) :
    ∃ x, Publishes (publishers n r s) ((conditionReadings n r s).setFree x) (takeReadings n r s) := by
  obtain ⟨l, x, hp, he⟩ := forAny_spec (publishers n r s) publish (conditionReadings n r s)
  exact ⟨x, [], l, id, hp, fun c u => Beside.refl c u, he⟩

theorem panelData_beside (first : Bool) (v : Vector PanelTap 2) (c : Chan) (s : State) : Beside c s (panelData first v s) :=
  beside_of_touches (panelData_touches (Touches.refl _ s) (by decide) (by decide) (by decide) (by decide) (by decide) (by decide)
    (by decide) (by decide) (by decide) (by decide) (by decide)) c

theorem handOver_publishes (n : Node) (r : Reply) (first : Bool) (s : State) :
    ∃ x, Publishes (publishers n r s) ((conditionReadings n r s).setFree x) (handOver n r first s) := by
  cases hv : r.panel with
  | none =>
    rw [handOver_readings hv]
    exact takeReadings_publishes n r s
  | some v =>
    obtain ⟨x, before, after, hp, he⟩ := handOver_panel (n := n) (first := first) (s := s) hv
    rw [conditionReadings_setFree] at he
    exact ⟨x, before, after, panelData first v, hp, panelData_beside first v, he⟩

/-! ## Conditioning (R21 to R27) -/

theorem readers_nodup (n : Node) (s : State) : (readers n s).Nodup := (List.nodup_finRange 24).filter _

theorem mem_readers {n : Node} {s : State} {c : Chan} : c ∈ readers n s ↔ (s.chan c).record.node = n ∧ (s.chan c).state.takes = true := by
  rw [readers, List.mem_filter, Bool.and_eq_true, decide_eq_true_eq]
  exact and_iff_right (List.mem_finRange c)

theorem mem_publishers {n : Node} {r : Reply} {s : State} {c : Chan} :
    c ∈ publishers n r s ↔ c ∈ readers n s ∧ ((s.chan c).condition (readingFor r c s)).2 = true := List.mem_filter

theorem takes_iff {x : ChannelState} : x.takes = true ↔ x = .priming ∨ x = .live := by cases x <;> decide

theorem readingFor_congr {r : Reply} {c : Chan} {s t : State} (h : t.chan c = s.chan c) : readingFor r c t = readingFor r c s := by
  simp only [readingFor, h]

/-- R21. Each channel of the list conditions its own input once, and no other channel does. -/
theorem conditionAll_chan {r : Reply} {l : List Chan} (hn : l.Nodup) (s : State) (c : Chan) :
    (forAll l (fun c s => conditionChan (readingFor r c s) c s) s).chan c =
      if c ∈ l ∧ (s.chan c).state.takes = true then ((s.chan c).condition (readingFor r c s)).1 else s.chan c := by
  induction l generalizing s with
  | nil => simp [forAll]
  | cons a l ih =>
    obtain ⟨ha, hn⟩ := List.nodup_cons.1 hn
    show (forAll l _ (conditionChan (readingFor r a s) a s)).chan c = _
    have hstep := chan_modChan a c (fun ch => if ch.state.takes then (ch.condition (readingFor r a s)).1 else ch) s
    rw [ih hn]
    by_cases hc : c = a
    · subst hc
      rw [if_neg fun e => ha e.1]
      refine hstep.trans ?_
      rw [if_pos rfl]
      simp only [List.mem_cons_self, true_and]
    · rw [if_neg hc] at hstep
      have hread : readingFor r c (conditionChan (readingFor r a s) a s) = readingFor r c s := readingFor_congr hstep
      rw [hread, show (conditionChan (readingFor r a s) a s).chan c = s.chan c from hstep]
      simp only [List.mem_cons, hc, false_or]

theorem conditionReadings_chan (n : Node) (r : Reply) (s : State) (c : Chan) :
    (conditionReadings n r s).chan c = if c ∈ readers n s then ((s.chan c).condition (readingFor r c s)).1 else s.chan c := by
  refine (conditionAll_chan (readers_nodup n s) s c).trans (if_congr (and_iff_left_of_imp fun h => (mem_readers.1 h).2) rfl rfl)

theorem conditionReadings_routes (n : Node) (r : Reply) (s : State) : (conditionReadings n r s).rte.routes = s.rte.routes :=
  conditionReadings_touches (l := [.chans]) (Touches.refl _ s) (by decide) .routes (by decide)

/-- R15, R21, R28, R46. What the readings of a reply come to for a channel, in whatever order its publications fall. -/
theorem readings_reach {n : Node} {r : Reply} {s t : State} {x : Free} (h : Publishes (publishers n r s) ((conditionReadings n r s).setFree x) t) (c : Chan) :
    ((s.chan c).record.node ≠ n ∨ (s.chan c).state = .off ∨ (s.chan c).state = .stale → t.chan c = s.chan c) ∧
    ((s.chan c).record.node = n → ((s.chan c).state = .priming ∨ (s.chan c).state = .live) →
      let next := (s.chan c).condition (r.inputs[(s.chan c).record.input]).toNat
      (next.2 = false → t.chan c = next.1) ∧
      (next.2 = true → t.chan c = { next.1 with subst := next.1.subst.next } ∧
        ∀ d, s.rte.routes[c].dest = some d → (∀ c' : Chan, c' ≠ c → s.rte.routes[c'].dest ≠ some d) →
          t.rte.slots[destIdx d] = some { value := next.1.publication.1, marks := next.1.publication.2, channel := c })) := by
  have hchan : ((conditionReadings n r s).setFree x).chan c = if c ∈ readers n s then ((s.chan c).condition (readingFor r c s)).1 else s.chan c :=
    conditionReadings_chan n r s c
  have hroutes : ((conditionReadings n r s).setFree x).rte.routes = s.rte.routes := conditionReadings_routes n r s
  refine ⟨fun hno => ?_, fun hnode hstate => ⟨fun hnext => ?_, fun hnext => ?_⟩⟩
  · have hr : c ∉ readers n s := fun hm => by
      obtain ⟨hnode, htakes⟩ := mem_readers.1 hm
      rw [takes_iff] at htakes
      rcases hno with h | h | h
      · exact h hnode
      · rcases htakes with e | e <;> cases h.symm.trans e
      · rcases htakes with e | e <;> cases h.symm.trans e
    rw [(h.not_mem fun hm => hr (mem_publishers.1 hm).1).1, hchan, if_neg hr]
  all_goals
    have hr : c ∈ readers n s := mem_readers.2 ⟨hnode, takes_iff.2 hstate⟩
    rw [if_pos hr] at hchan
  · rw [(h.not_mem fun hm => Bool.eq_false_iff.1 hnext (mem_publishers.1 hm).2).1, hchan]
    rfl
  · obtain ⟨hc, hslot⟩ := h.published ((readers_nodup n s).filter _) (mem_publishers.2 ⟨hr, hnext⟩)
    rw [hchan] at hc hslot
    rw [hroutes] at hslot
    exact ⟨hc, hslot⟩

/-- Settles O29. -/
theorem readingsReachTheirChannels : Obligations.ReadingsReachTheirChannels := by
  intro n r s
  refine ⟨?_, fun first => ⟨?_, fun hv => handOver_readings hv⟩, fun t ht c => ?_⟩
  · exact takeReadings_touches (Touches.refl _ s) (by decide) (by decide) (by decide) (by decide) (by decide) (by decide)
      (by decide) (by decide) (by decide) (by decide) (by decide) (by decide) (by decide)
  · exact handOver_touches (Touches.refl _ s) (by decide) (by decide) (by decide) (by decide) (by decide) (by decide)
      (by decide) (by decide) (by decide) (by decide) (by decide) (by decide) (by decide) (by decide) (by decide)
  · rcases ht with rfl | ⟨first, rfl⟩
    · obtain ⟨x, hx⟩ := takeReadings_publishes n r s
      exact readings_reach hx c
    · obtain ⟨x, hx⟩ := handOver_publishes n r first s
      exact readings_reach hx c

end Sys2Proof.Proofs
end

section
/-! PROOFS. What the work of the blocks leaves of pours, kegs, holders and the manifold, whatever its order: the relation `Work`, and its rules for the plain updates. -/

namespace Sys2Proof.Proofs

open Sys2Proof.Machine Sys2Proof.Safety Sys2Proof.Claims

/-! ## What work leaves of the records -/

/-- A tap record but for its state and its purge request. -/
def still (r : TapRecord) : TapRecord := { r with state := .idle, purgeRequest := .none }

/-- What work leaves of a tap record: the settings and the counts of the panel, and no pour but one from the same bay;
and, where the tap's pour is not what the work is about, all but its state and its purge request. -/
structure TapWork (about : Prop) (r r' : TapRecord) : Prop where
  set : r'.set = r.set
  flow : r'.lastFlow = r.lastFlow
  presses : r'.lastPresses = r.lastPresses
  pour : ∀ q, r'.pour = some q → ∃ q₀, r.pour = some q₀ ∧ q₀.bay = q.bay
  still : ¬ about → still r' = still r

theorem TapWork.of_still {c : Prop} {r r' : TapRecord} (h : Proofs.still r' = Proofs.still r) : TapWork c r r' := by
  have hset : (Proofs.still r').set = (Proofs.still r).set := congrArg _ h
  have hflow : (Proofs.still r').lastFlow = (Proofs.still r).lastFlow := congrArg _ h
  have hpresses : (Proofs.still r').lastPresses = (Proofs.still r).lastPresses := congrArg _ h
  have hpour : (Proofs.still r').pour = (Proofs.still r).pour := congrArg _ h
  exact ⟨hset, hflow, hpresses, fun q hq => ⟨q, hpour.symm.trans hq, rfl⟩, fun _ => h⟩

theorem TapWork.trans {c : Prop} {r r' r'' : TapRecord} (h : TapWork c r r') (g : TapWork c r' r'') : TapWork c r r'' where
  set := g.set.trans h.set
  flow := g.flow.trans h.flow
  presses := g.presses.trans h.presses
  pour q hq := by
    obtain ⟨q', hq', hb'⟩ := g.pour q hq
    obtain ⟨q₀, hq₀, hb₀⟩ := h.pour q' hq'
    exact ⟨q₀, hq₀, hb₀.trans hb'⟩
  still hc := (g.still hc).trans (h.still hc)

/-- The keg has been halted by a loss, from SCHEDULED or SERVING. -/
def Halted (k k' : Keg) : Prop :=
  ∃ ph : ActivePhase, k.phase = ph.phase ∧ k'.phase = .halted ∧ k'.prior = some ph ∧ (k'.haltReason = some .node ∨ k'.haltReason = some .sensor)

/-- What work leaves of a keg's phase: itself, or by a loss HALTED. -/
def KegWork (loss : Prop) (k k' : Keg) : Prop :=
  (k'.phase = k.phase ∧ k'.prior = k.prior ∧ k'.haltReason = k.haltReason) ∨ loss ∧ Halted k k'

theorem KegWork.refl (l : Prop) (k : Keg) : KegWork l k k := .inl ⟨rfl, rfl, rfl⟩

theorem KegWork.trans {l : Prop} {k k' k'' : Keg} (h : KegWork l k k') (g : KegWork l k' k'') : KegWork l k k'' := by
  rcases h with ⟨h1, h2, h3⟩ | ⟨hl, ph, h1, h2, h3, h4⟩ <;> rcases g with ⟨g1, g2, g3⟩ | ⟨gl, ph', g1, g2⟩
  · exact .inl ⟨g1.trans h1, g2.trans h2, g3.trans h3⟩
  · exact .inr ⟨gl, ph', h1 ▸ g1, g2⟩
  · exact .inr ⟨hl, ph, h1, g1.trans h2, g2.trans h3, by rwa [g3]⟩
  · cases ph' <;> cases g1.symm.trans h2

/-- What a loss may bring about beyond the pours that end: kegs halted, and the manifold DOWN. -/
structure Loss where
  halts : Prop
  down : Prop

/-- A PURGE for the tap is ACTIVE, as the manifold's own record has it. -/
def purgeOn (z : Tap) (m : Man) : Prop := ∃ op d, m.op = some op ∧ op.need = .purge z d ∧ op.sub = .active

/-- What work leaves of the manifold: its node, its latches, no POUR in the queue or in the pour set but those that stood in either,
no PURGE newly ACTIVE, and DOWN with nothing in progress as it is; it enters DOWN by a loss alone. -/
structure ManWork (loss : Prop) (m m' : Man) : Prop where
  online : m'.nodeOnline = m.nodeOnline
  latches : m'.leak = m.leak ∧ m'.result = m.result
  queue : ∀ e ∈ m'.queue, e.need.isPour = true → e ∈ m.queue
  pours : ∀ op', m'.op = some op' → ∀ p ∈ op'.pours,
    (∃ op, m.op = some op ∧ p ∈ op.pours) ∨ ∃ e ∈ m.queue, e.need = .pour p.tap p.bay
  active : ∀ z, purgeOn z m' → purgeOn z m
  down : m.state = .down → m.op = none → m'.state = .down ∧ m'.op = none ∧ (m.queue = [] → m'.queue = [])
  falls : m'.state = .down → m.state = .down ∨ loss

theorem ManWork.refl (l : Prop) (m : Man) : ManWork l m m :=
  ⟨rfl, ⟨rfl, rfl⟩, fun _ h _ => h, fun op h _ hp => .inl ⟨op, h, hp⟩, fun _ h => h, fun hs ho => ⟨hs, ho, id⟩, .inl⟩

theorem ManWork.trans {l : Prop} {m m' m'' : Man} (h : ManWork l m m') (g : ManWork l m' m'') : ManWork l m m'' where
  online := g.online.trans h.online
  latches := ⟨g.latches.1.trans h.latches.1, g.latches.2.trans h.latches.2⟩
  queue e he hp := h.queue e (g.queue e he hp) hp
  pours op hop p hp := by
    rcases g.pours op hop p hp with ⟨op', hop', hp'⟩ | ⟨e, he, hn⟩
    · exact h.pours op' hop' p hp'
    · exact .inr ⟨e, h.queue e he (by rw [hn]; rfl), hn⟩
  active z hz := h.active z (g.active z hz)
  down hs ho := by
    obtain ⟨hs', ho', hq'⟩ := h.down hs ho
    obtain ⟨hs'', ho'', hq''⟩ := g.down hs' ho'
    exact ⟨hs'', ho'', fun hq => hq'' (hq' hq)⟩
  falls hs := (g.falls hs).elim h.falls .inr

/-! ## Weights -/

/-- The length of the upward queue, an ATTENTION frame that may still join counted. -/
def weight (l : List UpFrame) : Nat := l.length + if ∀ u ∈ l, u.isAttention = false then 1 else 0

/-- The taps that have a pour. -/
def inHand (s : State) : Nat := (List.finRange 2).countP fun y => (s.tapRec y).pour.isSome

theorem length_le_weight (l : List UpFrame) : l.length ≤ weight l := Nat.le_add_right _ _

theorem weight_le (l : List UpFrame) : weight l ≤ l.length + 1 := by
  unfold weight
  split <;> omega

theorem inHand_le (s : State) : inHand s ≤ 2 := List.countP_le_length

theorem inHand_congr {s t : State} (h : ∀ y, ((t.tapRec y).pour.map (·.bay)) = ((s.tapRec y).pour.map (·.bay))) : inHand t = inHand s := by
  unfold inHand
  congr 1
  funext y
  simpa using congrArg Option.isSome (h y)

theorem inFlight_congr {b : Bay} {s t : State} (h : ∀ y, ((t.tapRec y).pour.map (·.bay)) = ((s.tapRec y).pour.map (·.bay))) :
    inFlight b t = inFlight b s := by
  unfold inFlight
  congr 1
  funext y
  have hany : ∀ o : Option Pour, (o.any fun p => decide (p.bay = b)) = ((o.map (·.bay)).any fun c => decide (c = b)) := fun o => by cases o <;> rfl
  rw [hany, hany, h y]

/-! ## Work -/

/-- The requester's valve is OFF, or the requester holds a slot. -/
def ShutOrHeld (r : Requester) (s : State) : Prop := s.out (valveOf r) = 0 ∨ r ∈ holding s

/-- What the work of the blocks leaves, whatever it is: `T` holds the taps whose pours and valves it is about, `loss` tells whether it may halt kegs and enter DOWN.
The pours of a keg go down with those that end; the upward queue's weight rises only by the records of pours that end;
a requester's valve is OFF unless it holds a slot; DOWN, the regulator at 0, and a chiller lost with no holder stay so. -/
structure Work (T : Tap → Prop) (loss : Loss) (s t : State) : Prop where
  part : t.mgp.part = s.mgp.part
  routes : t.rte.routes = s.rte.routes
  sentOn : s.mgp.up <+: t.mgp.up
  weight : weight t.mgp.up + inHand t ≤ weight s.mgp.up + inHand s
  lost : t.chl.nodeLost = s.chl.nodeLost
  held : ∀ r, OwnsValve r s → OwnsValve r t ∧ (ShutOrHeld r s → ShutOrHeld r t)
  freed : s.chl.nodeLost = true → s.chl.holders = [] → t.chl.holders = []
  kegs : ∀ b, KegWork loss.halts (s.keg b) (t.keg b)
  pours : ∀ b, inFlight b t ≤ inFlight b s ∧ (t.keg b).pours = (s.keg b).pours - (inFlight b s - inFlight b t)
  taps : ∀ z, TapWork (T z) (s.tapRec z) (t.tapRec z)
  man : ManWork loss.down s.man t.man
  valve : ∀ z, ¬ T z → t.out (.tapValve z) = s.out (.tapValve z)
  regulator : s.man.state = .down → s.man.op = none → s.out .regulator = 0 → t.out .regulator = 0

section
variable {T : Tap → Prop} {loss : Loss}

theorem Work.refl (s : State) : Work T loss s s where
  part := rfl
  routes := rfl
  sentOn := List.prefix_rfl
  weight := Nat.le_refl _
  lost := rfl
  held _ h := ⟨h, id⟩
  freed _ h := h
  kegs b := KegWork.refl _ _
  pours b := ⟨Nat.le_refl _, by omega⟩
  taps z := TapWork.of_still rfl
  man := ManWork.refl _ _
  valve _ _ := rfl
  regulator _ _ h := h

theorem Work.trans {s t u : State} (h : Work T loss s t) (g : Work T loss t u) : Work T loss s u where
  part := g.part.trans h.part
  routes := g.routes.trans h.routes
  sentOn := h.sentOn.trans g.sentOn
  weight := g.weight.trans h.weight
  lost := g.lost.trans h.lost
  held r hr := by
    obtain ⟨h1, h2⟩ := h.held r hr
    obtain ⟨g1, g2⟩ := g.held r h1
    exact ⟨g1, fun hs => g2 (h2 hs)⟩
  freed hn hh := g.freed (h.lost.trans hn) (h.freed hn hh)
  kegs b := (h.kegs b).trans (g.kegs b)
  pours b := by
    obtain ⟨h1, h2⟩ := h.pours b
    obtain ⟨g1, g2⟩ := g.pours b
    exact ⟨g1.trans h1, by omega⟩
  taps z := (h.taps z).trans (g.taps z)
  man := h.man.trans g.man
  valve z hz := (g.valve z hz).trans (h.valve z hz)
  regulator hs ho hr := by
    obtain ⟨hs', ho', -⟩ := h.man.down hs ho
    exact g.regulator hs' ho' (h.regulator hs ho hr)

theorem Work.branch {s t u : State} {c : Prop} {_ : Decidable c} (h : c → Work T loss s t) (g : ¬ c → Work T loss s u) : Work T loss s (if c then t else u) := by
  split
  · exact h ‹_›
  · exact g ‹_›

theorem Work.forAll {α : Type} {l : List α} {f : α → State → State} (hf : ∀ x u, Work T loss u (f x u)) (s : State) : Work T loss s (forAll l f s) := by
  induction l generalizing s with
  | nil => exact Work.refl s
  | cons x l ih => exact (hf x s).trans (ih _)

theorem Work.setFree (x : Free) (s : State) : Work T loss s (s.setFree x) := { Work.refl s with }

theorem Work.forAny {α : Type} {l : List α} {f : α → State → State} (hf : ∀ x u, Work T loss u (f x u)) (s : State) : Work T loss s (forAny l f s) := by
  obtain ⟨l', x, -, he⟩ := forAny_spec l f s
  rw [he]
  exact (Work.setFree x s).trans (Work.forAll hf _)

/-! ## Work on the outputs -/

/-- Work that shows on the outputs alone. -/
theorem Work.shows {s t : State} (h : ShowsFrom s t) (hv : ∀ z, ¬ T z → t.out (.tapValve z) = s.out (.tapValve z))
    (hr : ∀ r, OwnsValve r s → ShutOrHeld r s → ShutOrHeld r t)
    (hg : s.man.state = .down → s.man.op = none → s.out .regulator = 0 → t.out .regulator = 0) : Work T loss s t := by
  have hown : ∀ r, OwnsValve r s → OwnsValve r t := fun r hr => by
    rw [OwnsValve, h.owner]
    exact hr
  obtain ⟨outs, urgent, rfl⟩ := h
  exact { Work.refl (T := T) (loss := loss) s with held := fun r h => ⟨hown r h, hr r h⟩, valve := hv, regulator := hg }

theorem write_shows (w : Owner) (o : Output) (v : Nat) (s : State) : ShowsFrom s (write w o v s) := by
  unfold write
  split
  · exact commandOut_shows o v s
  · exact ShowsFrom.refl s

theorem write_out_other {w : Owner} {o p : Output} {v : Nat} {s : State} (h : p ≠ o) : (write w o v s).out p = s.out p := by
  unfold write
  split
  · rw [commandOut_out, if_neg h]
  · rfl

theorem ShowsFrom.holding {s t : State} (h : ShowsFrom s t) : holding t = Machine.holding s := by rw [Machine.holding, h.chl]; rfl

/-- The outputs that no requester and no tap's pour opens, the regulator apart. -/
def Output.plain : Output → Bool
  | .cool _ | .lineValve _ | .tapValve _ | .regulator => false
  | _ => true

theorem valveOf_injective {r r' : Requester} (h : valveOf r = valveOf r') : r = r' := by cases r <;> cases r' <;> cases h <;> rfl

/-- Work on one output leaves every requester whose valve it is not as it is. -/
theorem shutOrHeld_of_out {r : Requester} {s t : State} (h : ShowsFrom s t) (ho : t.out (valveOf r) = s.out (valveOf r)) (hs : ShutOrHeld r s) :
    ShutOrHeld r t := by
  rwa [ShutOrHeld, ho, h.holding]

theorem Work.write {w : Owner} {o : Output} (v : Nat) (s : State) (ho : Output.plain o = true := by rfl) : Work T loss s (write w o v s) := by
  have hne : ∀ p, Output.plain p = false → p ≠ o := fun p hp e => by rw [e, ho] at hp; cases hp
  refine Work.shows (write_shows w o v s) (fun z _ => write_out_other (hne _ rfl))
    (fun r _ => shutOrHeld_of_out (write_shows w o v s) (write_out_other (hne _ (by cases r <;> rfl)))) fun _ _ h => ?_
  rwa [write_out_other (hne _ rfl)]

theorem Work.writeRegulator (v : Nat) (s : State) (h : v = 0 ∨ s.man.state ≠ .down) : Work T loss s (Machine.write .man .regulator v s) := by
  refine Work.shows (write_shows _ _ v s) (fun z _ => write_out_other (by simp))
    (fun r _ => shutOrHeld_of_out (write_shows _ _ v s) (write_out_other (by cases r <;> simp [valveOf]))) fun hs _ hr => ?_
  rcases h with rfl | h
  · unfold Machine.write
    split
    · rw [commandOut_out, if_pos rfl]
    · exact hr
  · exact absurd hs h

theorem Work.commandTapValve {z : Tap} (v : Nat) (s : State) (hz : T z) : Work T loss s (commandOut (.tapValve z) v s) := by
  refine Work.shows (commandOut_shows _ v s) (fun x hx => ?_)
    (fun r _ => shutOrHeld_of_out (commandOut_shows _ v s) ?_) fun _ _ h => ?_
  · rw [commandOut_out, if_neg]
    rintro ⟨⟩
    exact hx hz
  · rw [commandOut_out, if_neg (by cases r <;> simp [valveOf])]
  · rwa [commandOut_out, if_neg (by simp)]

theorem Work.writeTapValve {w : Owner} {z : Tap} (v : Nat) (s : State) (hz : T z) : Work T loss s (Machine.write w (.tapValve z) v s) :=
  Work.branch (fun _ => Work.commandTapValve v s hz) fun _ => Work.refl s

theorem writeValve_eq (r : Requester) (v : Nat) (s : State) : writeValve r v s = Machine.write (if r.isLine then .tap else .keg) (valveOf r) v s := by
  cases r <;> rfl

theorem writeValve_out {r : Requester} {v : Nat} {s : State} (h : OwnsValve r s) : (writeValve r v s).out (valveOf r) = v := by
  rw [writeValve_eq, write_owned h, commandOut_out, if_pos rfl]

theorem writeValve_out_other {r : Requester} {o : Output} {v : Nat} {s : State} (h : o ≠ valveOf r) : (writeValve r v s).out o = s.out o := by
  rw [writeValve_eq, write_out_other h]

theorem writeValve_shows (r : Requester) (v : Nat) (s : State) : ShowsFrom s (writeValve r v s) := by
  rw [writeValve_eq]
  exact write_shows _ _ _ _

/-- A valve that goes OFF, or that opens for a holder. -/
theorem Work.writeValve {r : Requester} {v : Nat} {s : State} (h : v = 0 ∨ r ∈ holding s) : Work T loss s (writeValve r v s) := by
  have hs := writeValve_shows r v s
  refine Work.shows hs (fun z _ => writeValve_out_other (by cases r <;> simp [valveOf])) (fun r' hr' hh => ?_) fun _ _ h => ?_
  · by_cases e : r' = r
    · subst e
      rcases h with rfl | h
      · exact .inl (writeValve_out hr')
      · exact .inr (by rwa [hs.holding])
    · exact shutOrHeld_of_out hs (writeValve_out_other fun i => e (valveOf_injective i)) hh
  · rwa [writeValve_out_other (by cases r <;> simp [valveOf])]

/-! ## Work on the records -/

/-- Work on the chiller arbiter: it may drop holders whose valves are OFF, and take holders while its node is there. -/
theorem Work.modChl {f : Chl → Chl} {s : State} (hn : (f s.chl).nodeLost = s.chl.nodeLost)
    (hd : ∀ r, OwnsValve r s → r ∈ holding s → s.out (valveOf r) = 0 ∨ r ∈ (f s.chl).holders.map (·.who))
    (hf : s.chl.nodeLost = true → s.chl.holders = [] → (f s.chl).holders = []) : Work T loss s (s.modChl f) where
  __ := Work.refl (T := T) (loss := loss) s
  lost := hn
  held r hr := ⟨hr, fun h => h.elim .inl fun h => hd r hr h⟩
  freed := hf

/-- Work on the chiller arbiter beside its holders. -/
theorem Work.modChl_beside {f : Chl → Chl} {s : State} (hn : ∀ c, (f c).nodeLost = c.nodeLost := by exact fun _ => rfl)
    (hh : ∀ c, (f c).holders = c.holders := by exact fun _ => rfl) : Work T loss s (s.modChl f) :=
  Work.modChl (hn _) (fun r _ h => .inr (by rw [hh]; exact h)) fun _ h => (hh _).trans h

theorem Work.modRte {f : Rte → Rte} {s : State} (h : ∀ x, (f x).routes = x.routes := by exact fun _ => rfl) : Work T loss s (s.modRte f) := { Work.refl s with routes := h _ }

theorem ownsBay_of_kegWork {l : Prop} {k k' : Keg} (h : KegWork l k k') (ho : k.phase.ownsBay = true) : k'.phase.ownsBay = true := by
  rcases h with ⟨h, -⟩ | ⟨-, -, -, h, -⟩
  · rwa [h]
  · rw [h]
    rfl

theorem ownsValve_of_kegs {l : Prop} {r : Requester} {s t : State} (hp : t.mgp.part = s.mgp.part) (hk : ∀ b, KegWork l (s.keg b) (t.keg b))
    (h : OwnsValve r s) : OwnsValve r t := by
  cases r with
  | line y =>
    have hb : s.running := by
      by_contra hn
      rw [OwnsValve, valveOf, owner, if_neg hn] at h
      cases h
    exact if_pos (hp.trans hb)
  | keg b =>
    have hb : s.running ∧ (s.keg b).phase.ownsBay = true := by
      by_contra hn
      rw [OwnsValve, valveOf, owner] at h
      simp only [hn, if_false] at h
      cases h
    have hb' : t.running ∧ (t.keg b).phase.ownsBay = true := ⟨hp.trans hb.1, ownsBay_of_kegWork (hk b) hb.2⟩
    exact if_pos hb'

theorem Work.modMan {f : Man → Man} {s : State} (h : ManWork loss.down s.man (f s.man)) : Work T loss s (s.modMan f) where
  __ := Work.refl (T := T) (loss := loss) s
  held _ hr := ⟨ownsValve_of_kegs (l := False) (s := s) rfl (fun _ => KegWork.refl _ _) hr, id⟩
  man := h

theorem Work.modKeg {b : Bay} {f : Keg → Keg} {s : State} (h : KegWork loss.halts (s.keg b) (f (s.keg b))) (hp : (f (s.keg b)).pours = (s.keg b).pours) :
    Work T loss s (s.modKeg b f) := by
  have hk : ∀ d, KegWork loss.halts (s.keg d) ((s.modKeg b f).keg d) := fun d => by
    rw [keg_modKeg]
    split
    · rename_i e
      subst e
      exact h
    · exact KegWork.refl _ _
  refine { Work.refl (T := T) (loss := loss) s with kegs := hk, held := fun r hr => ⟨ownsValve_of_kegs (s := s) rfl hk hr, fun h => h⟩, pours := fun d => ⟨Nat.le_refl _, ?_⟩ }
  show ((s.modKeg b f).keg d).pours = (s.keg d).pours - (inFlight d s - inFlight d s)
  rw [keg_modKeg, Nat.sub_self, Nat.sub_zero]
  split
  · rename_i e
    subst e
    exact hp
  · rfl

/-- Work on a keg beside its phase and its pours. -/
theorem Work.modKeg_beside {b : Bay} {f : Keg → Keg} {s : State}
    (h : ∀ k, ((f k).phase = k.phase ∧ (f k).prior = k.prior ∧ (f k).haltReason = k.haltReason) ∧ (f k).pours = k.pours := by exact fun _ => ⟨⟨rfl, rfl, rfl⟩, rfl⟩) :
    Work T loss s (s.modKeg b f) := Work.modKeg (.inl (h _).1) (h _).2

/-- Entries may leave the manifold's queue. -/
theorem Work.filterQueue {g : List GasEntry → List GasEntry} {s : State} (h : ∀ e ∈ g s.man.queue, e ∈ s.man.queue) :
    Work T loss s (s.modMan fun m => { m with queue := g m.queue }) :=
  Work.modMan (f := fun m => { m with queue := g m.queue }) ⟨rfl, ⟨rfl, rfl⟩, fun e he _ => h e he, fun op hop p hp => .inl ⟨op, hop, hp⟩, fun _ h => h,
    fun hs ho => ⟨hs, ho, fun hq => List.eq_nil_iff_forall_not_mem.2 fun e he => by have := h e he; rw [hq] at this; cases this⟩, .inl⟩

/-- Pours may leave the pour set of the operation in progress. -/
theorem Work.filterPours {op : Operation} {l : List SetPour} {s : State} (hop : s.man.op = some op) (h : ∀ p ∈ l, p ∈ op.pours) :
    Work T loss s (s.modMan fun m => { m with op := some { op with pours := l } }) := by
  refine Work.modMan (f := fun m => { m with op := some { op with pours := l } })
    ⟨rfl, ⟨rfl, rfl⟩, fun _ he _ => he, fun op' hop' p hp => .inl ⟨op, hop, ?_⟩, fun z hz => ?_, fun _ ho => (by rw [hop] at ho; cases ho), .inl⟩
  · cases hop'
    exact h p hp
  · obtain ⟨op', d, hop', hn, hsub⟩ := hz
    cases hop'
    exact ⟨op, d, hop, hn, hsub⟩

theorem tapRec_modTap (z y : Tap) (f : TapRecord → TapRecord) (s : State) : (s.modTap z f).tapRec y = if y = z then f (s.tapRec z) else s.tapRec y := by
  show (upd s.tap.taps z f)[y] = _
  rw [upd_get]

theorem Work.modTap {z : Tap} {f : TapRecord → TapRecord} {s : State} (h : TapWork (T z) (s.tapRec z) (f (s.tapRec z)))
    (hp : (f (s.tapRec z)).pour.map (·.bay) = (s.tapRec z).pour.map (·.bay)) : Work T loss s (s.modTap z f) := by
  have hb : ∀ y, ((s.modTap z f).tapRec y).pour.map (·.bay) = (s.tapRec y).pour.map (·.bay) := fun y => by
    rw [tapRec_modTap]
    split
    · rename_i e
      subst e
      exact hp
    · rfl
  refine { Work.refl (T := T) (loss := loss) s with
    held := fun r hr => ⟨ownsValve_of_kegs (l := False) (s := s) rfl (fun _ => KegWork.refl _ _) hr, fun h => h⟩
    weight := by rw [inHand_congr hb]; exact Nat.le_refl _
    pours := fun d => by rw [inFlight_congr hb]; exact ⟨Nat.le_refl _, (Nat.sub_zero _).symm.trans (by rw [Nat.sub_self]; rfl)⟩
    taps := fun y => ?_ }
  rw [tapRec_modTap]
  split
  · rename_i e
    subst e
    exact h
  · exact TapWork.of_still rfl

/-- Work on a tap's state and purge request alone. -/
theorem Work.modTap_still {z : Tap} {f : TapRecord → TapRecord} {s : State} (h : ∀ r, still (f r) = still r := by exact fun _ => rfl) : Work T loss s (s.modTap z f) := by
  refine Work.modTap (TapWork.of_still (h _)) ?_
  have := congrArg (fun r => r.pour.map (·.bay)) (h (s.tapRec z))
  exact this

/-! ## Frames that join, and the end of a pour -/

theorem weight_attention (l : List UpFrame) (q : Byte) (h : ∀ u ∈ l, u.isAttention = false) : weight (l ++ [.attention q]) = weight l := by
  have hn : ¬ ∀ u ∈ l ++ [UpFrame.attention q], u.isAttention = false := fun hn => by
    cases hn (.attention q) (List.mem_append_right _ List.mem_cons_self)
  rw [weight, weight, if_neg hn, if_pos h, List.length_append]
  rfl

theorem weight_pourRecord (l : List UpFrame) (r : PourReport) : weight (l ++ [.pourRecord r]) = weight l + 1 := by
  have hn : (∀ u ∈ l ++ [UpFrame.pourRecord r], u.isAttention = false) ↔ ∀ u ∈ l, u.isAttention = false := by
    rw [List.forall_mem_append]
    exact and_iff_left fun u hu => List.mem_singleton.1 hu ▸ rfl
  unfold weight
  rw [List.length_append, List.length_singleton]
  by_cases h : ∀ u ∈ l, u.isAttention = false
  · rw [if_pos h, if_pos (hn.2 h)]
  · rw [if_neg h, if_neg fun e => h (hn.1 e)]

/-- What frames have joined, by weight. -/
theorem raise_up (f : Flag) (i : Option Nat) (s : State) :
    s.mgp.up <+: (raise f i s).mgp.up ∧ Proofs.weight (raise f i s).mgp.up = Proofs.weight s.mgp.up ∧ (raise f i s).mgp.part = s.mgp.part := by
  rw [raise_mgp]
  split
  · rename_i h
    exact ⟨List.prefix_append _ _, weight_attention _ _ h.2.2, rfl⟩
  · exact ⟨List.prefix_rfl, rfl, rfl⟩

theorem handPourRecord_up (mk : Byte → PourReport) (s : State) :
    s.mgp.up <+: (handPourRecord mk s).mgp.up ∧ Proofs.weight (handPourRecord mk s).mgp.up ≤ Proofs.weight s.mgp.up + 1 ∧
      (handPourRecord mk s).mgp.part = s.mgp.part := by
  rcases Nat.lt_or_ge s.mgp.up.length 14 with h | h
  · rw [handPourRecord_room h]
    exact ⟨List.prefix_append _ _, Nat.le_of_eq (weight_pourRecord _ _), rfl⟩
  · rw [handPourRecord_lost h]
    obtain ⟨h1, h2, h3⟩ := raise_up .linkError none (takeSeq s)
    exact ⟨h1, Nat.le_succ_of_le (Nat.le_of_eq h2), h3⟩

/-- Work that shows on the upward queue and the flags alone. -/
theorem Work.sends {s t : State} (h : SendsFrom s t) (hp : s.mgp.up <+: t.mgp.up) (hw : Proofs.weight t.mgp.up ≤ Proofs.weight s.mgp.up) : Work T loss s t := by
  obtain ⟨up, seq, atn, free, rfl⟩ := h
  exact { Work.refl (T := T) (loss := loss) s with sentOn := hp, weight := Nat.add_le_add_right hw _ }

theorem Work.raise (f : Flag) (i : Option Nat) (s : State) : Work T loss s (raise f i s) := by
  obtain ⟨hp, hw, -⟩ := raise_up f i s
  exact Work.sends (raise_sends f i s) hp (Nat.le_of_eq hw)

/-- The pour of the tap is gone, its keg counts one less, and its record has been handed over. -/
def pourGoneFrom (y : Tap) (p : Pour) (mk : Byte → PourReport) (s : State) : State :=
  (handPourRecord mk (s.modKeg p.bay fun k => { k with pours := k.pours - 1 })).modTap y TapRecord.pourGone

theorem pourGoneFrom_tapRec (y z : Tap) (p : Pour) (mk : Byte → PourReport) (s : State) :
    (pourGoneFrom y p mk s).tapRec z = if z = y then (s.tapRec y).pourGone else s.tapRec z := by
  rw [pourGoneFrom, tapRec_modTap, (handPourRecord_sends mk _).tapRec, (handPourRecord_sends mk _).tapRec]
  rfl

theorem SendsFrom.kegs {s t : State} (h : SendsFrom s t) : t.kegs = s.kegs := by
  obtain ⟨_, _, _, _, rfl⟩ := h
  rfl

theorem pourGoneFrom_keg (y : Tap) (p : Pour) (mk : Byte → PourReport) (s : State) (b : Bay) :
    (pourGoneFrom y p mk s).keg b = if b = p.bay then { s.keg b with pours := (s.keg b).pours - 1 } else s.keg b := by
  have h : (pourGoneFrom y p mk s).kegs = (s.modKeg p.bay fun k => { k with pours := k.pours - 1 }).kegs := (handPourRecord_sends mk _).kegs
  rw [State.keg, h]
  refine (keg_modKeg s p.bay b _).trans ?_
  split
  · rename_i e
    subst e
    rfl
  · rfl

theorem countP_both (f : Tap → Bool) : (List.finRange 2).countP f = (if f 0 = true then 1 else 0) + if f 1 = true then 1 else 0 := by
  show [0, 1].countP f = _
  rw [List.countP_cons, List.countP_cons, List.countP_nil]
  omega

/-- One tap's pour fewer, of all the pours or of those of a bay. -/
theorem countP_gone {f g : Tap → Bool} {y : Tap} (hy : g y = false) (hz : ∀ z, z ≠ y → g z = f z) :
    (List.finRange 2).countP f = (List.finRange 2).countP g + if f y = true then 1 else 0 := by
  rw [countP_both, countP_both]
  rcases (by decide : ∀ y : Tap, y = 0 ∨ y = 1) y with rfl | rfl
  · rw [hy, hz 1 (by decide)]
    simp only [Bool.false_eq_true, if_false]
    omega
  · rw [hy, hz 0 (by decide)]
    simp only [Bool.false_eq_true, if_false]
    omega

theorem inHand_pourGoneFrom {y : Tap} {p : Pour} {mk : Byte → PourReport} {s : State} (hp : (s.tapRec y).pour = some p) :
    inHand s = inHand (pourGoneFrom y p mk s) + 1 := by
  refine (countP_gone (y := y) (g := fun z => ((pourGoneFrom y p mk s).tapRec z).pour.isSome) ?_ fun z hz => ?_).trans ?_
  · rw [pourGoneFrom_tapRec, if_pos rfl]
    rfl
  · rw [pourGoneFrom_tapRec, if_neg hz]
  · rw [hp]
    rfl

theorem inFlight_pourGoneFrom {y : Tap} {p : Pour} {mk : Byte → PourReport} {s : State} (hp : (s.tapRec y).pour = some p) (b : Bay) :
    inFlight b s = inFlight b (pourGoneFrom y p mk s) + if p.bay = b then 1 else 0 := by
  refine (countP_gone (y := y) (g := fun z => ((pourGoneFrom y p mk s).tapRec z).pour.any fun p => decide (p.bay = b)) ?_ fun z hz => ?_).trans ?_
  · rw [pourGoneFrom_tapRec, if_pos rfl]
    rfl
  · rw [pourGoneFrom_tapRec, if_neg hz]
  · simp only [hp, Option.any_some, decide_eq_true_eq]
    rfl

theorem Work.pourGone {y : Tap} {p : Pour} (mk : Byte → PourReport) {s : State} (hy : T y) (hp : (s.tapRec y).pour = some p) :
    Work T loss s (pourGoneFrom y p mk s) := by
  obtain ⟨hup, hw, hpart⟩ := handPourRecord_up mk (s.modKeg p.bay fun k => { k with pours := k.pours - 1 })
  have hkeg := pourGoneFrom_keg y p mk s
  have hkegs : ∀ b, KegWork loss.halts (s.keg b) ((pourGoneFrom y p mk s).keg b) := fun b => by
    rw [hkeg]
    split <;> exact .inl ⟨rfl, rfl, rfl⟩
  have hsends := handPourRecord_sends mk (s.modKeg p.bay fun k => { k with pours := k.pours - 1 })
  have hin := inHand_pourGoneFrom (mk := mk) hp
  have hfl := inFlight_pourGoneFrom (mk := mk) hp
  have hgone : pourGoneFrom y p mk s = { s with
      kegs := (pourGoneFrom y p mk s).kegs, tap := (pourGoneFrom y p mk s).tap, mgp := (pourGoneFrom y p mk s).mgp
      atn := (pourGoneFrom y p mk s).atn, free := (pourGoneFrom y p mk s).free } := by
    unfold pourGoneFrom
    obtain ⟨_, _, _, _, h⟩ := hsends
    rw [h]
    rfl
  have hfield : ∀ {α : Type} (g : State → α), (∀ k x m a f, g { s with kegs := k, tap := x, mgp := m, atn := a, free := f } = g s) → g (pourGoneFrom y p mk s) = g s :=
    fun g hg => by rw [hgone]; exact hg _ _ _ _ _
  refine { part := hpart, routes := hfield (·.rte.routes) fun _ _ _ _ _ => rfl, sentOn := hup, weight := ?_, lost := hfield (·.chl.nodeLost) fun _ _ _ _ _ => rfl,
           held := fun r hr => ⟨ownsValve_of_kegs (s := s) hpart hkegs hr, fun h => ?_⟩, freed := fun _ h => ?_, kegs := hkegs, pours := fun b => ⟨?_, ?_⟩, taps := fun z => ?_,
           man := ?_, valve := fun z _ => hfield (·.out (.tapValve z)) fun _ _ _ _ _ => rfl, regulator := fun _ _ h => ?_ }
  · have hmgp : (pourGoneFrom y p mk s).mgp.up = (handPourRecord mk (s.modKeg p.bay fun k => { k with pours := k.pours - 1 })).mgp.up := rfl
    rw [hmgp, hin]
    exact (Nat.add_le_add_right hw _).trans (Nat.le_of_eq (by rw [modKeg_mgp]; omega))
  · rw [ShutOrHeld, hfield (·.out (valveOf r)) fun _ _ _ _ _ => rfl, hfield holding fun _ _ _ _ _ => rfl]
    exact h
  · rw [hfield (·.chl.holders) fun _ _ _ _ _ => rfl]
    exact h
  · rw [hfl b]
    exact Nat.le_add_right _ _
  · rw [hkeg b, hfl b, Nat.add_sub_cancel_left]
    by_cases e : b = p.bay
    · subst e
      rw [if_pos rfl, if_pos rfl]
    · rw [if_neg e, if_neg fun i => e i.symm]
      rfl
  · rw [pourGoneFrom_tapRec]
    split
    · rename_i e
      subst e
      exact ⟨rfl, rfl, rfl, fun q hq => (by cases hq), fun hn => absurd hy hn⟩
    · exact TapWork.of_still rfl
  · rw [hfield (·.man) fun _ _ _ _ _ => rfl]
    exact ManWork.refl _ _
  · rw [hfield (·.out .regulator) fun _ _ _ _ _ => rfl]
    exact h

end

end Sys2Proof.Proofs
end

section
/-! PROOFS. The rules of `Work` for the model's own operations: the chiller arbiter, the manifold, the taps and the kegs. -/

namespace Sys2Proof.Proofs

open Sys2Proof.Machine Sys2Proof.Safety Sys2Proof.Claims

section
variable {T : Tap → Prop} {loss : Loss}

/-! ## The chiller arbiter -/

theorem modThermo_work (b : Bay) (f : Thermo → Thermo) (s : State) : Work T loss s (s.modThermo b f) := Work.modChl_beside

theorem modLine_work (y : Tap) (f : Line → Line) (s : State) : Work T loss s (s.modLine y f) := Work.modChl_beside

theorem setWant_work (r : Requester) (s : State) : Work T loss s (setWant r s) := by
  cases r with
  | keg b => exact modThermo_work b _ s
  | line y => exact modLine_work y _ s

theorem setCooling_work (r : Requester) (s : State) : Work T loss s (setCooling r s) := by
  cases r with
  | keg b => exact modThermo_work b _ s
  | line y => exact modLine_work y _ s

theorem setRest_work (r : Requester) (s : State) : Work T loss s (setRest r s) := by
  cases r with
  | keg b => exact modThermo_work b _ s
  | line y => exact modLine_work y _ s

theorem dropWaiting_work (r : Requester) (s : State) : Work T loss s (dropWaiting r s) := Work.modChl_beside

theorem mem_holding_dropHolder {r x : Requester} {s : State} (h : x ∈ holding s) (hx : x ≠ r) : x ∈ holding (dropHolder r s) := by
  obtain ⟨a, ha, rfl⟩ := List.mem_map.1 h
  exact List.mem_map.2 ⟨a, List.mem_filter.2 ⟨ha, decide_eq_true hx⟩, rfl⟩

/-- A holder whose valve is OFF may be dropped. -/
theorem dropHolder_work {r : Requester} {s : State} (h : OwnsValve r s → s.out (valveOf r) = 0) : Work T loss s (dropHolder r s) := by
  refine Work.modChl rfl (fun x hx hm => ?_) fun _ hh => ?_
  · by_cases e : x = r
    · subst e
      exact .inl (h hx)
    · exact .inr (mem_holding_dropHolder hm e)
  · rw [hh]
    rfl

theorem setCooling_holding (r : Requester) (s : State) : holding (setCooling r s) = holding s := by cases r <;> rfl

theorem grantHead_work {s : State} (hn : s.chl.nodeLost = false) : Work T loss s (grantHead s) := by
  unfold grantHead
  split
  · exact Work.refl s
  · rename_i r rest hq
    refine Work.trans (Work.modChl rfl (fun x _ hx => .inr ?_) fun hl => ?_) ((setCooling_work r _).trans (Work.writeValve (.inr ?_)))
    · rw [List.map_append]
      exact List.mem_append_left _ hx
    · rw [hn] at hl
      cases hl
    · rw [setCooling_holding]
      show r ∈ (s.chl.holders ++ [newHolder s.chl.policy r]).map (·.who)
      rw [List.map_append]
      exact List.mem_append_right _ List.mem_cons_self

theorem canGrant_nodeLost {s : State} (h : canGrant s = true) : s.chl.nodeLost = false := by
  simp only [canGrant, Bool.and_eq_true, Bool.not_eq_true'] at h
  exact h.1.1.2

theorem grantUpTo_work (fuel : Nat) (s : State) : Work T loss s (grantUpTo fuel s) := by
  induction fuel generalizing s with
  | zero => exact Work.refl s
  | succ fuel ih => exact Work.branch (fun h => (grantHead_work (canGrant_nodeLost h)).trans (ih _)) fun _ => Work.refl s

theorem grants_work (s : State) : Work T loss s (grants s) := grantUpTo_work _ s

theorem requestSlot_work (r : Requester) (s : State) : Work T loss s (requestSlot r s) :=
  (Work.trans Work.modChl_beside (setWant_work r _)).trans (grants_work _)

theorem ownsValve_writeValve {r x : Requester} {v : Nat} {s : State} (h : OwnsValve r (writeValve x v s)) : OwnsValve r s := by
  rwa [OwnsValve, (writeValve_shows x v s).owner] at h

theorem release_work (r : Requester) (s : State) : Work T loss s (release r s) :=
  (((Work.writeValve (.inl rfl)).trans (dropHolder_work fun h => writeValve_out (ownsValve_writeValve h))).trans (setRest_work r _)).trans (grants_work _)

theorem withdraw_work (r : Requester) (s : State) : Work T loss s (withdraw r s) := (dropWaiting_work r s).trans (setRest_work r _)

theorem heatDecision_work (b : Bay) (sp : Int) (s : State) : Work T loss s (heatDecision b sp s) :=
  Work.branch (fun _ => Work.refl s) fun _ => (modThermo_work b _ s).trans (Work.write _ _)

theorem thermoFromRest_work (b : Bay) (s : State) : Work T loss s (thermoFromRest b s) := by
  unfold thermoFromRest
  split
  · exact Work.branch
      (fun _ => Work.branch (fun _ => requestSlot_work _ s) fun _ => Work.branch (fun _ => heatDecision_work b _ s) fun _ => Work.refl s)
      fun _ => Work.refl s
  · exact Work.refl s

theorem thermoEval_work (b : Bay) (s : State) : Work T loss s (thermoEval b s) := by
  unfold thermoEval
  split
  · exact Work.refl s
  · split
    · exact thermoFromRest_work b s
    · exact Work.branch (fun _ => (withdraw_work _ s).trans (thermoFromRest_work b _)) fun _ => Work.refl s
    · exact Work.branch (fun _ => (release_work _ s).trans (thermoFromRest_work b _)) fun _ => Work.refl s
    · exact Work.branch (fun _ => ((modThermo_work b _ s).trans (Work.write _ _)).trans (thermoFromRest_work b _)) fun _ => Work.refl s

theorem thermoTemp_work (b : Bay) (v : Int) (s : State) : Work T loss s (thermoTemp b v s) := (modThermo_work b _ s).trans (thermoEval_work b _)

theorem lineEval_work (y : Tap) (v : Int) (s : State) : Work T loss s (lineEval y v s) := by
  refine Work.branch (fun _ => ?_) fun _ => Work.refl s
  split
  · exact Work.branch (fun _ => requestSlot_work _ s) fun _ => Work.refl s
  · exact Work.branch (fun _ => withdraw_work _ s) fun _ => Work.refl s
  · exact Work.branch (fun _ => release_work _ s) fun _ => Work.refl s

theorem lineSatisfied_work (y : Tap) (s : State) : Work T loss s (lineSatisfied y s) := by
  unfold lineSatisfied
  split
  · exact Work.refl s
  · exact withdraw_work _ s
  · exact release_work _ s

theorem lineEmptied_work (y : Tap) (s : State) : Work T loss s (lineEmptied y s) := Work.branch (fun _ => lineSatisfied_work y s) fun _ => Work.refl s

theorem lineActivate_work (y : Tap) (s : State) : Work T loss s (lineActivate y s) := by
  unfold lineActivate
  dsimp only
  split
  · exact (modLine_work y _ s).trans (lineEval_work y _ _)
  · exact modLine_work y _ s

theorem lineDeactivate_work (y : Tap) (s : State) : Work T loss s (lineDeactivate y s) := (lineSatisfied_work y s).trans (modLine_work y _ _)

theorem lineRefresh_work (y : Tap) (s : State) : Work T loss s (lineRefresh y s) :=
  Work.branch (fun _ => Work.refl s) fun _ => Work.branch (fun _ => lineActivate_work y s) fun _ => lineDeactivate_work y s

theorem linesRefresh_work (s : State) : Work T loss s (linesRefresh s) := Work.forAny lineRefresh_work s

theorem thermoEnd_work (b : Bay) (s : State) : Work T loss s (thermoEnd b s) := by
  have hc : ∀ u : State, Work T loss u (linesRefresh (u.modChl fun c => { c with thermos := upd c.thermos b fun _ => none })) := fun u =>
    Work.trans Work.modChl_beside (linesRefresh_work _)
  unfold thermoEnd
  split
  · exact Work.refl s
  · dsimp only
    refine Work.trans ?_ (hc _)
    split
    · exact Work.write _ _
    · exact release_work _ s
    · exact withdraw_work _ s
    · exact Work.refl s

/-- R113. To drop a holder and shut its valve is to shut its valve and drop it. -/
theorem writeValve_dropHolder (r : Requester) (s : State) : writeValve r 0 (dropHolder r s) = dropHolder r (writeValve r 0 s) := by
  have ho : owner (valveOf r) (dropHolder r s) = owner (valveOf r) s := by cases r <;> rfl
  rw [writeValve_eq, writeValve_eq, Machine.write, Machine.write, ho]
  by_cases hw : owner (valveOf r) s = some (if r.isLine then .tap else .keg)
  · rw [if_pos hw, if_pos hw, commandOut_eq, commandOut_eq]
    rfl
  · rw [if_neg hw, if_neg hw]

theorem revokeOne_work (r : Requester) (s : State) : Work T loss s (revokeOne r s) := by
  have h : Work T loss s (writeValve r 0 (dropHolder r s)) := by
    rw [writeValve_dropHolder]
    exact (Work.writeValve (.inl rfl)).trans (dropHolder_work fun h => writeValve_out (ownsValve_writeValve h))
  exact h.trans (setWant_work r _)

/-! ## The manifold's queue and operations -/

theorem chargeMarked_work (b : Bay) (s : State) : Work T loss s (chargeMarked b s) :=
  Work.branch (fun _ => Work.modKeg_beside) fun _ => Work.refl s

theorem chargeEnded_work (b : Bay) (opened : Bool) (s : State) : Work T loss s (chargeEnded b opened s) :=
  Work.branch (fun _ => Work.modKeg_beside) fun _ => Work.refl s

theorem purgeServed_work (y : Tap) (s : State) : Work T loss s (purgeServed y s) := Work.modTap_still

theorem tellServed_work (n : GasNeed) (s : State) : Work T loss s (tellServed n s) := by
  unfold tellServed
  split
  · exact chargeMarked_work _ s
  · exact purgeServed_work _ s
  all_goals exact Work.refl s

/-- What an operation newly taken into service has in its pour set: the pour of its entry. -/
theorem mem_newOperation_pours {e : GasEntry} {s : State} {p : SetPour} (h : p ∈ (newOperation e s).pours) : e.need = .pour p.tap p.bay := by
  simp only [newOperation] at h
  split at h
  · rename_i y b hn
    rw [hn, List.mem_singleton.1 h]
  · cases h

/-- R128. An entry taken into service, the queue having changed by `g`. -/
theorem startOperation_work {e : GasEntry} {g : List GasEntry → List GasEntry} {s : State} (hd : s.man.state ≠ .down)
    (hq : ∀ x ∈ g s.man.queue, x ∈ s.man.queue) (he : e.need.isPour = true → e ∈ s.man.queue) :
    Work T loss s (startOperation e (s.modMan fun m => { m with queue := g m.queue })) := by
  have hm : Work T loss s (s.modMan fun m => { m with queue := g m.queue, op := some (newOperation e (s.modMan fun m => { m with queue := g m.queue })), state := .busy }) := by
    refine Work.modMan ⟨rfl, ⟨rfl, rfl⟩, fun x hx _ => hq x hx, fun op hop p hp => .inr ?_, fun z hz => ?_, fun hs => absurd hs hd, fun hs => (by cases hs)⟩
    · cases hop
      have hn := mem_newOperation_pours hp
      exact ⟨e, he (by rw [hn]; rfl), hn⟩
    · obtain ⟨op, d, hop, -, hsub⟩ := hz
      cases hop
      cases hsub
  exact (hm.trans (Work.writeRegulator _ _ (.inr (by simp)))).trans (tellServed_work _ _)

theorem entryPour_eq_some {e : GasEntry} {p : SetPour} (h : entryPour e = some p) : e.need = .pour p.tap p.bay := by
  unfold entryPour at h
  split at h
  · rename_i y b hn
    cases h
    exact hn
  · cases h

theorem write_man (w : Owner) (o : Output) (v : Nat) (s : State) : (write w o v s).man = s.man := by
  obtain ⟨_, _, h⟩ := write_shows w o v s
  rw [h]
  rfl

theorem tellServed_man (n : GasNeed) (s : State) : (tellServed n s).man = s.man := by
  unfold tellServed chargeMarked
  split
  · split <;> rfl
  all_goals rfl

theorem startOperation_man (e : GasEntry) (s : State) : (startOperation e s).man = { s.man with op := some (newOperation e s), state := .busy } :=
  (tellServed_man _ _).trans (write_man _ _ _ _)

theorem serveEntry_work {e : GasEntry} {s : State} (hd : s.man.state ≠ .down) (he : e ∈ s.man.queue) : Work T loss s (serveEntry e s) := by
  have h1 : Work T loss s (startOperation e (s.modMan fun m => { m with queue := m.queue.erase e })) :=
    startOperation_work (g := fun q => q.erase e) hd (fun _ => List.mem_of_mem_erase) fun _ => he
  unfold serveEntry
  dsimp only
  refine Work.branch (fun _ => h1.trans (Work.modMan ?_)) fun _ => h1
  rw [startOperation_man]
  refine ⟨rfl, ⟨rfl, rfl⟩, fun x hx _ => List.mem_of_mem_filter hx, fun op hop p hp => ?_, fun z hz => ?_, fun hs => (by cases hs), fun hs => (by cases hs)⟩
  · cases hop
    rcases List.mem_append.1 hp with hp | hp
    · exact .inl ⟨_, rfl, hp⟩
    · obtain ⟨x, hx, hxp⟩ := List.mem_filterMap.1 hp
      exact .inr ⟨x, List.mem_of_mem_filter hx, entryPour_eq_some hxp⟩
  · obtain ⟨op, d, hop, -, hsub⟩ := hz
    cases hop
    cases hsub

theorem orElse_eq_some {α : Type} {x y : Option α} {a : α} (h : (x <|> y) = some a) : x = some a ∨ y = some a := by
  cases x with
  | none => exact .inr h
  | some b => exact .inl h

theorem chooseEntry_mem {e : GasEntry} {s : State} (h : chooseEntry s = some e) : e ∈ s.man.queue := by
  unfold chooseEntry at h
  rcases orElse_eq_some h with h | h
  · exact List.mem_of_find?_eq_some h
  rcases orElse_eq_some h with h | h
  · exact List.mem_of_find?_eq_some h
  rcases orElse_eq_some h with h | h <;> exact List.mem_of_find?_eq_some h

theorem serveQueue_work (s : State) : Work T loss s (serveQueue s) := by
  refine Work.branch (fun h => ?_) fun _ => Work.refl s
  split
  · exact serveEntry_work (by rw [h.2]; simp) (chooseEntry_mem ‹_›)
  · exact Work.refl s

/-- R126. The manifold becomes IDLE from an operation that has ended. -/
theorem becomeIdle_clearOp_work {s : State} (h : s.man.op ≠ none) : Work T loss s (becomeIdle (clearOp s)) := by
  have hm : Work T loss s (s.modMan fun m => { m with op := none, state := .idle }) :=
    Work.modMan (f := fun m => { m with op := none, state := .idle })
      ⟨rfl, ⟨rfl, rfl⟩, fun _ hx _ => hx, fun _ hop => (by cases hop), fun z ⟨_, _, hop, _⟩ => (by cases hop), fun _ ho => absurd ho h, fun hs => (by cases hs)⟩
  exact hm.trans (serveQueue_work _)

/-- R127. What the pour set comes to when a pour has left it: its valve shuts, unless `c`, and the operation ends, if `e`. -/
theorem unlessWrite_work {c e : Prop} {_ : Decidable c} {_ : Decidable e} {b : Bay} (u : State) (hu : u.man.op ≠ none) :
    Work T loss u (if e then becomeIdle (clearOp (if c then u else write .man (.gasIn b) 0 u)) else if c then u else write .man (.gasIn b) 0 u) := by
  have h1 : Work T loss u (if c then u else write .man (.gasIn b) 0 u) := Work.branch (fun _ => Work.refl u) fun _ => Work.write _ _
  have h2 : (if c then u else write .man (.gasIn b) 0 u).man.op ≠ none := by
    split
    · exact hu
    · rwa [write_man]
  exact h1.trans (Work.branch (fun _ => becomeIdle_clearOp_work h2) fun _ => Work.refl _)

theorem pourEnded_work (y : Tap) (s : State) : Work T loss s (pourEnded y s) := by
  have hq : Work T loss s (s.modMan fun m => { m with queue := m.queue.filter fun e => match e.need with | .pour t' _ => decide (t' ≠ y) | _ => true }) :=
    Work.filterQueue (g := fun q => q.filter fun e => match e.need with | .pour t' _ => decide (t' ≠ y) | _ => true) fun _ he => List.mem_of_mem_filter he
  unfold pourEnded
  dsimp only
  split
  · rename_i op hop
    split
    · rename_i p hp
      refine hq.trans (Work.trans (Work.filterPours (l := op.pours.filter fun p => decide (p.tap ≠ y)) hop fun _ h => List.mem_of_mem_filter h) ?_)
      exact unlessWrite_work _ (by simp)
    · exact hq
  · exact hq

theorem chargeEnded_clearOp (b : Bay) (opened : Bool) (s : State) : chargeEnded b opened (clearOp s) = clearOp (chargeEnded b opened s) := by
  have hc : inCarb b (clearOp s) = inCarb b s := rfl
  unfold chargeEnded
  rw [hc]
  split <;> rfl

theorem chargeEnded_man (b : Bay) (opened : Bool) (s : State) : (chargeEnded b opened s).man = s.man := by
  unfold chargeEnded
  split <;> rfl

/-- R127. What the end of a CHARGE in progress comes to. -/
theorem chargeOp_work (b : Bay) {op : Operation} {s : State} (hop : s.man.op = some op) :
    Work T loss s (becomeIdle (chargeEnded b (decide (op.sub = .active)) (clearOp (if op.sub = .active then write .man (.gasIn b) 0 s else s)))) := by
  have hw : Work T loss s (if op.sub = .active then write .man (.gasIn b) 0 s else s) := Work.branch (fun _ => Work.write _ _) fun _ => Work.refl s
  have ho : (if op.sub = .active then write .man (.gasIn b) 0 s else s).man.op ≠ none := by
    split
    · rw [write_man, hop]
      simp
    · rw [hop]
      simp
  rw [chargeEnded_clearOp]
  exact (hw.trans (chargeEnded_work b _ _)).trans (becomeIdle_clearOp_work (by rwa [chargeEnded_man]))

theorem chargesEnd_work (b : Bay) (s : State) : Work T loss s (chargesEnd b s) := by
  have hq : Work T loss s (if s.man.queue.any fun e => e.need.same (.charge b) then
      chargeEnded b false (s.modMan fun m => { m with queue := m.queue.filter fun e => !e.need.same (.charge b) }) else s) :=
    Work.branch (fun _ => Work.trans (Work.filterQueue (g := fun q => q.filter fun e => !e.need.same (.charge b)) fun _ he => List.mem_of_mem_filter he)
      (chargeEnded_work b false _)) fun _ => Work.refl s
  unfold chargesEnd
  dsimp only
  split
  · exact hq.trans (Work.branch (fun _ => chargeOp_work b ‹_›) fun _ => Work.refl _)
  · exact hq

/-! ## Purge needs -/

theorem turnedAway_cases (n : GasNeed) (r : PourReason) : turnedAway n r = .refused r ∨ turnedAway n r = .unqueued := by
  unfold turnedAway
  split
  · exact .inl rfl
  · exact .inr rfl

/-- What is asked of the manifold when it takes a new need. -/
theorem answerNeed_taken {serving : Bool} {e : GasEntry} {s : State} :
    (answerNeed serving e s = .inService → s.man.state = .idle) ∧ (answerNeed serving e s = .queued → s.man.state ≠ .down) ∧
      (answerNeed serving e s = .joined → e.need.isPour = true) := by
  have ht : ∀ r, turnedAway e.need r ≠ .inService ∧ turnedAway e.need r ≠ .queued ∧ turnedAway e.need r ≠ .joined := fun r => by
    rcases turnedAway_cases e.need r with h | h <;> rw [h] <;> simp
  unfold answerNeed
  split_ifs with h1 h2 h3 h4 h5 h6 h7
  · exact ⟨fun h => absurd h (ht _).1, fun h => absurd h (ht _).2.1, fun h => absurd h (ht _).2.2⟩
  · exact ⟨fun h => absurd h (ht _).1, fun h => absurd h (ht _).2.1, fun h => absurd h (ht _).2.2⟩
  · simp
  · simp
  · refine ⟨by simp, by simp, fun _ => ?_⟩
    unfold mayJoin at h5
    split at h5
    · simp only [Bool.and_eq_true] at h5
      exact h5.1.1.1
    · cases h5
  · exact ⟨fun _ => h6.2.2.1, by simp, by simp⟩
  · exact ⟨fun h => absurd h (ht _).1, fun h => absurd h (ht _).2.1, fun h => absurd h (ht _).2.2⟩
  · exact ⟨by simp, fun _ => h1, by simp⟩

/-- R125. A need that is no POUR, raised. -/
theorem raiseNeed_work {serving : Bool} {e : GasEntry} {s : State} (he : e.need.isPour = false) : Work T loss s (raiseNeed serving e s).2 := by
  obtain ⟨hserve, hqueue, hjoin⟩ := answerNeed_taken (serving := serving) (e := e) (s := s)
  have hp : e.need.isPour ≠ true := by simp [he]
  unfold raiseNeed
  split
  · exact absurd (hjoin ‹_›) hp
  · exact startOperation_work (g := id) (by rw [hserve ‹_›]; simp) (fun _ h => h) fun h => absurd h hp
  · have hd := hqueue ‹_›
    refine Work.modMan (f := fun m => { m with queue := m.queue ++ [e] }) ⟨rfl, ⟨rfl, rfl⟩, fun x hx hx' => ?_, fun op hop p hp => .inl ⟨op, hop, hp⟩, fun _ h => h, fun hs => absurd hs hd, .inl⟩
    rcases List.mem_append.1 hx with hx | hx
    · exact hx
    · rw [List.mem_singleton.1 hx] at hx'
      exact absurd hx' hp
  · exact Work.refl s

theorem evalPurge_work (serving : Bool) (y : Tap) (s : State) : Work T loss s (evalPurge serving y s) := by
  have hr : Work T loss s (raiseNeed serving (purgeEntry y s) s).2 := raiseNeed_work rfl
  refine Work.branch (fun _ => ?_) fun _ => Work.refl s
  split
  · rename_i u hu
    rw [hu] at hr
    exact hr.trans Work.modTap_still
  · rename_i u hu
    rw [hu] at hr
    exact hr

theorem tapIdle_work (y : Tap) (s : State) : Work T loss s (tapIdle y s) :=
  Work.trans (t := if _ then _ else _) (Work.branch (fun _ => serveQueue_work s) fun _ => Work.refl s) (evalPurge_work true y _)

/-! ## The end of a pour -/

theorem startBlink_work {y : Tap} (s : State) (hy : T y) : Work T loss s (startBlink y s) :=
  Work.branch (fun _ => Work.modTap ⟨rfl, rfl, rfl, fun q hq => ⟨q, hq, rfl⟩, fun hn => absurd hy hn⟩ rfl) fun _ => Work.refl s

/-- R155. The work on the end of a pour, before what the idle tap asks for. -/
def pourEndCore (reason : PourReason) (y : Tap) (p : Pour) (s : State) : State :=
  let u := pourGoneFrom y p (pourReport y p reason) (pourEnded y (if p.pouring then write .tap (.tapValve y) 0 s else s))
  if !p.pouring && reason.refuses then startBlink y u else u

theorem endPour_eq {reason : PourReason} {y : Tap} {p : Pour} {s : State} (h : (s.tapRec y).pour = some p) :
    endPour reason y s =
      if ((pourEndCore reason y p s).tapRec y).state = .idle then tapIdle y (pourEndCore reason y p s) else pourEndCore reason y p s := by
  unfold endPour
  rw [h]
  rfl

theorem endPour_none {reason : PourReason} {y : Tap} {s : State} (h : (s.tapRec y).pour = none) : endPour reason y s = s := by
  unfold endPour
  rw [h]

theorem pour_of_still {r r' : TapRecord} (h : still r' = still r) : r'.pour = r.pour :=
  (congrArg TapRecord.pour h : (still r').pour = (still r).pour)

/-- The valve's closing and the notice to the manifold leave the pour with the tap. -/
theorem pourEnded_pour (y : Tap) (p : Pour) (s : State) :
    still ((pourEnded y (if p.pouring then write .tap (.tapValve y) 0 s else s)).tapRec y) = still (s.tapRec y) := by
  have h1 : Work (fun _ => False) ⟨False, False⟩ (if p.pouring then write .tap (.tapValve y) 0 s else s) (pourEnded y (if p.pouring then write .tap (.tapValve y) 0 s else s)) :=
    pourEnded_work y _
  rw [(h1.taps y).still id]
  split
  · obtain ⟨_, _, h⟩ := write_shows .tap (.tapValve y) 0 s
    rw [h]
    rfl
  · rfl

theorem pourEndCore_work (reason : PourReason) {y : Tap} {p : Pour} {s : State} (hy : T y) (h : (s.tapRec y).pour = some p) :
    Work T loss s (pourEndCore reason y p s) := by
  have hv : Work T loss s (if p.pouring then write .tap (.tapValve y) 0 s else s) := Work.branch (fun _ => Work.writeTapValve 0 s hy) fun _ => Work.refl s
  have hp : ((pourEnded y (if p.pouring then write .tap (.tapValve y) 0 s else s)).tapRec y).pour = some p :=
    (pour_of_still (pourEnded_pour y p s)).trans h
  have hg := (hv.trans (pourEnded_work y _)).trans (Work.pourGone (pourReport y p reason) hy hp)
  exact Work.branch (fun _ => hg.trans (startBlink_work _ hy)) fun _ => hg

theorem endPour_work (reason : PourReason) {y : Tap} (s : State) (hy : T y) : Work T loss s (endPour reason y s) := by
  cases h : (s.tapRec y).pour with
  | none =>
    rw [endPour_none h]
    exact Work.refl s
  | some p =>
    rw [endPour_eq h]
    exact Work.branch (fun _ => (pourEndCore_work reason hy h).trans (tapIdle_work y _)) fun _ => pourEndCore_work reason hy h

/-! ## Kegs -/

theorem writeVent_work (b : Bay) (s : State) : Work T loss s (writeVent b s) := Work.write _ _

theorem leaveControl_work (b : Bay) (s : State) : Work T loss s (leaveControl b s) := by
  refine Work.branch (fun _ => ?_) fun _ => Work.refl s
  exact ((((Work.modKeg_beside).trans (thermoEnd_work b _)).trans (chargesEnd_work b _)).trans
    (Work.modKeg_beside)).trans (writeVent_work b _)

end

/-! ## Losses: work about every tap, which may halt kegs -/

/-- Work about every tap, which may halt kegs, but does not enter DOWN. -/
abbrev HaltWork (s t : State) : Prop := Work (fun _ => True) ⟨True, False⟩ s t

/-- The work of a loss. -/
abbrev LossWork (s t : State) : Prop := Work (fun _ => True) ⟨True, True⟩ s t

section
variable {loss : Loss}

theorem endPoursFrom_work (reason : PourReason) (b : Bay) (s : State) : Work (fun _ => True) loss s (endPoursFrom reason b s) := Work.forAny (fun _ u => endPour_work reason u trivial) s

theorem endAllPours_work (reason : PourReason) (s : State) : Work (fun _ => True) loss s (endAllPours reason s) := Work.forAny (fun _ u => endPour_work reason u trivial) s

theorem active_eq_some {p : Phase} {ph : ActivePhase} (h : p.active = some ph) : p = ph.phase := by
  cases p <;> cases h <;> rfl

theorem haltKeg_work {b : Bay} {reason : HaltReason} (hl : loss.halts) (hr : reason = .node ∨ reason = .sensor) (s : State) : Work (fun _ => True) loss s (haltKeg b reason s) := by
  unfold haltKeg
  split
  · rename_i ph hp
    refine ((Work.modKeg (.inr ⟨hl, ph, active_eq_some hp, rfl, rfl, ?_⟩) rfl).trans (leaveControl_work b _)).trans
      ((endPoursFrom_work .halted b _).trans (Work.raise _ _ _))
    rcases hr with rfl | rfl
    · exact .inl rfl
    · exact .inr rfl
  · exact Work.refl s

theorem tryStart_work (y : Tap) (s : State) : Work (fun _ => True) loss s (tryStart y s) := by
  unfold tryStart
  split
  · rename_i p hp
    refine Work.branch (fun _ => ?_) fun _ => Work.refl s
    refine (Work.modTap ⟨rfl, rfl, rfl, fun q hq => ⟨p, hp, ?_⟩, fun hn => absurd trivial hn⟩ (by rw [hp]; rfl)).trans (Work.writeTapValve _ _ trivial)
    cases hq
    rfl
  · exact Work.refl s

theorem purgeEnded_work (y : Tap) (s : State) : Work (fun _ => True) loss s (purgeEnded y s) :=
  Work.trans Work.modTap_still (Work.branch (fun _ => evalPurge_work true y _) fun _ => tryStart_work y _)

theorem closeOp_work (s : State) : Work (fun _ => True) loss s (closeOp s) := by
  unfold closeOp
  split
  · refine Work.branch (fun _ => ?_) fun _ => Work.refl s
    split
    · exact Work.write _ _
    · exact Work.forAll (fun _ u => Work.write _ u) s
    · exact (Work.write _ _).trans (Work.writeTapValve _ _ trivial)
    · exact Work.write _ _
  · exact Work.refl s

theorem clearOp_work (s : State) : Work (fun _ => True) loss s (clearOp s) :=
  Work.modMan (f := fun m => { m with op := none })
    ⟨rfl, ⟨rfl, rfl⟩, fun _ h _ => h, fun _ hop => (by cases hop), fun _ ⟨_, _, hop, _⟩ => (by cases hop), fun hs _ => ⟨hs, rfl, id⟩, .inl⟩

theorem returnOp_work (s : State) : Work (fun _ => True) loss s (returnOp s) :=
  (clearOp_work s).trans
    ((Work.branch (fun _ => Work.refl _) fun _ => Work.commandTapValve (z := 0) 0 _ trivial).trans
      (Work.branch (fun _ => Work.refl _) fun _ => Work.commandTapValve (z := 1) 0 _ trivial))

theorem tellEnded_work (reason : PourReason) (op : Operation) (s : State) : Work (fun _ => True) loss s (tellEnded reason op s) := by
  unfold tellEnded
  split
  · exact chargeEnded_work _ _ s
  · exact Work.forAny (fun _ u => endPour_work reason u trivial) s
  · exact purgeEnded_work _ s
  · exact Work.refl s

theorem dropEntry_work {T : Tap → Prop} (e : GasEntry) (s : State) : Work T loss s (dropEntry e s) := by
  unfold dropEntry
  split
  · exact chargeEnded_work _ _ s
  · exact Work.modTap_still
  all_goals exact Work.refl s

theorem emptyQueue_work (reason : PourReason) (s : State) : Work (fun _ => True) loss s (emptyQueue reason s) :=
  (Work.trans (Work.filterQueue (g := fun _ => []) fun _ h => (by cases h)) (Work.forAll dropEntry_work _)).trans (Work.forAny (fun _ u => endPour_work reason u trivial) _)

theorem enterDown_work (s : State) : LossWork s (enterDown s) := by
  refine Work.branch (fun _ => Work.refl s) fun _ => ?_
  have hm : ∀ u : State, LossWork u (u.modMan fun m => { m with state := .down }) := fun u =>
    Work.modMan (f := fun m => { m with state := .down }) ⟨rfl, ⟨rfl, rfl⟩, fun _ h _ => h, fun op hop p hp => .inl ⟨op, hop, hp⟩, fun _ h => h, fun _ ho => ⟨rfl, ho, id⟩, fun _ => .inr trivial⟩
  have hd := ((closeOp_work s).trans (returnOp_work _)).trans (hm _)
  have hw : ∀ u : State, LossWork u (emptyQueue .manifoldDown (write .man .regulator 0 u)) := fun u =>
    (Work.writeRegulator 0 u (.inl rfl)).trans (emptyQueue_work _ _)
  dsimp only
  split
  · exact (hd.trans (tellEnded_work _ _ _)).trans (hw _)
  · exact hd.trans (hw _)

end

end Sys2Proof.Proofs
end

section
/-! PROOFS. What a slot that is emptied may ruin: kegs halted and out of control, their pours ended, and the manifold DOWN with nothing left to do. -/

namespace Sys2Proof.Proofs

open Sys2Proof.Machine Sys2Proof.Safety Sys2Proof.Claims

/-! ## Pours that have ended -/

/-- No pour begins in work. -/
theorem Work.pour_none {T : Tap → Prop} {loss : Loss} {s t : State} (h : Work T loss s t) {y : Tap} (hy : (s.tapRec y).pour = none) :
    (t.tapRec y).pour = none := by
  cases ht : (t.tapRec y).pour with
  | none => rfl
  | some q =>
    obtain ⟨q₀, hq₀, -⟩ := (h.taps y).pour q ht
    rw [hy] at hq₀
    cases hq₀

theorem pourEndCore_none (reason : PourReason) (y : Tap) (p : Pour) (s : State) : ((pourEndCore reason y p s).tapRec y).pour = none := by
  have hg : ∀ (mk : Byte → PourReport) (u : State), ((pourGoneFrom y p mk u).tapRec y).pour = none := fun mk u => by
    rw [pourGoneFrom_tapRec, if_pos rfl]
    rfl
  have hw : ∀ {c : Prop} {_ : Decidable c} (u : State), HaltWork u (if c then startBlink y u else u) := fun u =>
    Work.branch (fun _ => startBlink_work u trivial) fun _ => Work.refl u
  exact (hw _).pour_none (hg _ _)

theorem endPour_gone (reason : PourReason) (y : Tap) (s : State) : ((endPour reason y s).tapRec y).pour = none := by
  cases h : (s.tapRec y).pour with
  | none => rwa [endPour_none h]
  | some p =>
    rw [endPour_eq h]
    split
    · exact (tapIdle_work (T := fun _ => True) (loss := ⟨True, True⟩) y _).pour_none (pourEndCore_none reason y p s)
    · exact pourEndCore_none reason y p s

theorem forAll_endPour_work (reason : PourReason) (l : List Tap) (s : State) : HaltWork s (forAll l (endPour reason) s) :=
  Work.forAll (fun _ u => endPour_work reason u trivial) s

theorem forAll_endPour_gone {reason : PourReason} {l : List Tap} {y : Tap} (hy : y ∈ l) (s : State) : ((forAll l (endPour reason) s).tapRec y).pour = none := by
  induction l generalizing s with
  | nil => cases hy
  | cons z l ih =>
    rcases List.mem_cons.1 hy with rfl | hy
    · exact (forAll_endPour_work reason l _).pour_none (endPour_gone reason y s)
    · exact ih hy _

/-- R156. No pour from the bay is left. -/
theorem endPoursFrom_gone (reason : PourReason) (b : Bay) (s : State) (y : Tap) (q : Pour) (hq : ((endPoursFrom reason b s).tapRec y).pour = some q) : q.bay ≠ b := by
  obtain ⟨l, x, hl, he⟩ := forAny_spec (allTaps.filter fun t => poursFrom b t s) (endPour reason) s
  intro hb
  unfold endPoursFrom at hq
  rw [he] at hq
  obtain ⟨q₀, hq₀, hb₀⟩ := ((forAll_endPour_work reason l (s.setFree x)).taps y).pour q hq
  have hy : y ∈ l := hl.mem_iff.2 (List.mem_filter.2 ⟨List.mem_finRange y, by
    have h : (s.tapRec y).pour = some q₀ := hq₀
    rw [poursFrom, h]
    exact decide_eq_true (hb₀.trans hb)⟩)
  rw [forAll_endPour_gone hy] at hq
  cases hq

/-- R156. No pour is left. -/
theorem endAllPours_gone (reason : PourReason) (s : State) (y : Tap) : ((endAllPours reason s).tapRec y).pour = none := by
  obtain ⟨l, x, hl, he⟩ := forAny_spec (allTaps.filter fun t => (s.tapRec t).pour.isSome) (endPour reason) s
  unfold endAllPours
  rw [he]
  cases h : (s.tapRec y).pour with
  | none => exact (forAll_endPour_work reason l (s.setFree x)).pour_none h
  | some p => exact forAll_endPour_gone (hl.mem_iff.2 (mem_ended.2 (by rw [h]; rfl))) _

/-! ## What is ruined -/

/-- R63, R64. The keg of bay `b` has been halted: it is out of control, its pours have ended, and KEG_HALTED is raised. -/
def Fallen (b : Bay) (t : State) : Prop :=
  (t.keg b).underControl = false ∧ Raised .kegHalted (bayNum b) t ∧ ∀ y q, (t.tapRec y).pour = some q → q.bay ≠ b

/-- R124, R139. The manifold has nothing left to do, and its regulator is at 0. -/
def Drained (t : State) : Prop := t.man.op = none ∧ t.man.queue = [] ∧ (t.mgp.part = .running → t.out .regulator = 0)

/-- What a slot's emptying reaches. -/
def ruinParts : List Part := [.image, .chl, .man, .kegs, .phases, .taps, .up, .atn, .free, .drawn, .slots]

/-- The work of a loss, taken whole: the kegs it halts have fallen, and a manifold it brings DOWN is drained. -/
structure Ruin (s t : State) : Prop where
  work : LossWork s t
  touches : Touches ruinParts s t
  fallen : ∀ b (ph : ActivePhase), (s.keg b).phase = ph.phase → (t.keg b).phase = .halted → Fallen b t
  drained : s.man.state ≠ .down → t.man.state = .down → Drained t

theorem active_ne_halted (ph : ActivePhase) : ph.phase ≠ .halted := by cases ph <;> simp [ActivePhase.phase]

theorem raised_kept {f : Flag} {n : Nat} {s t : State} (h : Raised f n s) (hf : Same .flags s t) : Raised f n t := by
  obtain ⟨hp, hi⟩ := h
  have hf : ∀ i : Fin 12, s.atn[i].pending = true → t.atn[i].pending = true ∧ ∀ n ∈ s.atn[i].index, n ∈ t.atn[i].index := hf
  exact ⟨(hf _ hp).1, (hf _ hp).2 _ hi⟩

theorem Fallen.kept {b : Bay} {s t : State} (h : Fallen b s) (hw : LossWork s t) (hr : Same .released s t) (hf : Same .flags s t) : Fallen b t := by
  obtain ⟨hc, hi, hg⟩ := h
  have hr : ∀ b : Bay, (s.keg b).underControl = false → (t.keg b).underControl = false := hr
  refine ⟨hr b hc, raised_kept hi hf, fun y q hq => ?_⟩
  obtain ⟨q₀, hq₀, hb⟩ := (hw.taps y).pour q hq
  rw [← hb]
  exact hg y q₀ hq₀

theorem Drained.kept {s t : State} (hs : s.man.state = .down) (h : Drained s) (hw : LossWork s t) : Drained t := by
  obtain ⟨ho, hq, hr⟩ := h
  obtain ⟨-, ho', hq'⟩ := hw.man.down hs ho
  exact ⟨ho', hq' hq, fun hp => hw.regulator hs ho (hr (hw.part ▸ hp))⟩

theorem Ruin.trans {s t u : State} (h : Ruin s t) (g : Ruin t u) : Ruin s u where
  work := h.work.trans g.work
  touches := h.touches.trans g.touches
  fallen b ph hs hu := by
    rcases h.work.kegs b with ⟨ht, -⟩ | ⟨-, ph', -, ht, -⟩
    · exact g.fallen b ph (ht.trans hs) hu
    · exact (h.fallen b ph hs ht).kept g.work (g.touches .released (by decide)) (g.touches .flags (by decide))
  drained hs hu := by
    by_cases ht : t.man.state = .down
    · exact (h.drained hs ht).kept ht g.work
    · exact g.drained ht hu

theorem phase_of_same {s t : State} (h : Same .phases s t) (b : Bay) : (t.keg b).phase = (s.keg b).phase := by
  simpa using congrArg (·[b]) (show t.kegs.map (·.phase) = s.kegs.map (·.phase) from h)

theorem chain_of_same {s t : State} (h : Same .chains s t) (b : Bay) : (t.keg b).chain = (s.keg b).chain := by
  simpa using congrArg (·[b]) (show t.kegs.map (·.chain) = s.kegs.map (·.chain) from h)

/-- Work that halts no keg and does not enter DOWN ruins nothing. -/
theorem Ruin.calm {s t : State} (h : Work (fun _ => True) ⟨False, False⟩ s t) (ht : Touches [.image, .chl, .man, .kegs, .taps, .up, .atn, .free, .drawn, .slots] s t) : Ruin s t where
  work := { h with
    kegs := fun b => (h.kegs b).imp id fun ⟨hl, _⟩ => hl.elim
    man := { h.man with falls := fun hs => (h.man.falls hs).imp id fun hl => hl.elim } }
  touches := ht.mono (by decide)
  fallen b ph hs hb := by
    rw [phase_of_same (ht .phases (by decide)), hs] at hb
    exact absurd hb (active_ne_halted ph)
  drained hs hd := (h.man.falls hd).elim (absurd · hs) False.elim

theorem Ruin.refl (s : State) : Ruin s s := Ruin.calm (Work.refl s) (Touches.refl _ s)

theorem Ruin.forAll {α : Type} {l : List α} {f : α → State → State} (hf : ∀ x u, Ruin u (f x u)) (s : State) : Ruin s (forAll l f s) := by
  induction l generalizing s with
  | nil => exact Ruin.refl s
  | cons x l ih => exact (hf x s).trans (ih _)

/-! ## A keg is halted -/

theorem leaveControl_underControl (b : Bay) (s : State) : ((leaveControl b s).keg b).underControl = false := by
  unfold leaveControl
  split
  · have hw : ∀ u : State, Touches [.image, .chl, .man, .kegs, .taps, .free] u
        (writeVent b ((chargesEnd b (thermoEnd b u)).modKeg b fun k => { k with ventOpen := false })) := fun u =>
      writeVent_touches (modKeg_touches (chargesEnd_touches (thermoEnd_touches (Touches.refl _ _) (by decide) (by decide) (by decide))
        (by decide) (by decide) (by decide) (by decide)) (by decide) (.inr fun _ => rfl) (.inr fun _ => rfl) (.inr fun _ => ⟨rfl, rfl⟩)
        (.inr fun _ => ⟨rfl, .inl⟩) (.inr fun _ h => h)) (by decide)
    have hr : ∀ u : State, (u.keg b).underControl = false → _ := fun u => hw u .released (by decide) b
    refine hr _ ?_
    rw [keg_modKeg, if_pos rfl]
  · exact Bool.eq_false_iff.2 ‹_›

theorem raise_raised (f : Flag) (n : Nat) (s : State) : Raised f n (raise f (some n) s) := by
  refine ⟨raise_pending f _ s, ?_⟩
  have h : (raise f (some n) s).atn = upd s.atn f.idx (FlagRecord.raised (some n)) := by
    unfold raise
    dsimp only
    split
    · exact (handAttention_touches (Touches.refl [.up] _) (by decide)) .atn (by decide)
    · rfl
  rw [h, upd_get, if_pos rfl]
  exact mem_insertIndex.2 (.inl rfl)

/-- R63. A SCHEDULED or SERVING keg is halted: its phase, and then what follows from it. -/
def haltedAs (b : Bay) (ph : ActivePhase) (reason : HaltReason) (s : State) : State :=
  s.modKeg b fun k => { k with phase := .halted, prior := some ph, haltReason := some reason }

theorem haltKeg_active {b : Bay} {ph : ActivePhase} {reason : HaltReason} {s : State} (h : (s.keg b).phase = ph.phase) :
    haltKeg b reason s = raise .kegHalted (some (bayNum b)) (endPoursFrom .halted b (leaveControl b (haltedAs b ph reason s))) := by
  have ha : (s.keg b).phase.active = some ph := by
    rw [h]
    cases ph <;> rfl
  unfold haltKeg
  rw [ha]
  rfl

theorem haltKeg_inactive {b : Bay} {reason : HaltReason} {s : State} (h : ∀ ph : ActivePhase, (s.keg b).phase ≠ ph.phase) : haltKeg b reason s = s := by
  unfold haltKeg
  split
  · exact absurd (active_eq_some ‹_›) (h _)
  · rfl

/-- What follows the new phase of a halted keg. -/
theorem afterHalt_work (b : Bay) (u : State) : Work (fun _ => True) ⟨False, False⟩ u (raise .kegHalted (some (bayNum b)) (endPoursFrom .halted b (leaveControl b u))) :=
  (leaveControl_work b u).trans ((endPoursFrom_work .halted b _).trans (Work.raise _ _ _))

theorem haltKeg_fallen {b : Bay} {ph : ActivePhase} (reason : HaltReason) {s : State} (h : (s.keg b).phase = ph.phase) :
    ((haltKeg b reason s).keg b).phase = .halted ∧ ((haltKeg b reason s).keg b).prior = some ph ∧
      ((haltKeg b reason s).keg b).haltReason = some reason ∧ Fallen b (haltKeg b reason s) := by
  rw [haltKeg_active h]
  have hk : (haltedAs b ph reason s).keg b = { s.keg b with phase := .halted, prior := some ph, haltReason := some reason } := by
    rw [haltedAs, keg_modKeg, if_pos rfl]
  obtain ⟨h1, h2, h3⟩ := ((afterHalt_work b (haltedAs b ph reason s)).kegs b).resolve_right fun ⟨hl, _⟩ => hl
  rw [hk] at h1 h2 h3
  have hrel : Touches [.image, .man, .kegs, .taps, .up, .atn, .free] (leaveControl b (haltedAs b ph reason s))
      (raise .kegHalted (some (bayNum b)) (endPoursFrom .halted b (leaveControl b (haltedAs b ph reason s)))) :=
    raise_touches (endPoursFrom_touches (Touches.refl _ _) (by decide) (by decide) (by decide) (by decide) (by decide) (by decide) (by decide)) (by decide) (by decide)
  refine ⟨h1, h2, h3, hrel .released (by decide) b (leaveControl_underControl b _), raise_raised _ _ _, fun y q hq => ?_⟩
  rw [(raise_sends _ _ _).tapRec] at hq
  exact endPoursFrom_gone .halted b _ y q hq

theorem haltKeg_other {b d : Bay} (reason : HaltReason) (s : State) (h : d ≠ b) : ((haltKeg b reason s).keg d).phase = (s.keg d).phase := by
  by_cases ha : ∃ ph : ActivePhase, (s.keg b).phase = ph.phase
  · obtain ⟨ph, ha⟩ := ha
    rw [haltKeg_active ha, (((afterHalt_work b (haltedAs b ph reason s)).kegs d).resolve_right fun ⟨hl, _⟩ => hl).1, haltedAs, keg_modKeg, if_neg h]
  · rw [haltKeg_inactive fun ph hp => ha ⟨ph, hp⟩]

theorem Ruin.haltKeg {b : Bay} {reason : HaltReason} (hr : reason = .node ∨ reason = .sensor) (s : State) : Ruin s (haltKeg b reason s) where
  work := haltKeg_work trivial hr s
  touches := haltKeg_touches (Touches.refl _ s) (by decide) (by decide) (by decide) (by decide) (by decide) (by decide) (by decide) (by decide) (by decide)
  fallen d ph hs hd := by
    by_cases e : d = b
    · subst e
      exact (haltKeg_fallen reason hs).2.2.2
    · rw [haltKeg_other reason s e, hs] at hd
      exact absurd hd (active_ne_halted ph)
  drained hs hd := ((haltKeg_work (loss := ⟨True, False⟩) trivial hr s).man.falls hd).elim (absurd · hs) False.elim

/-! ## The manifold enters DOWN -/

/-- R124, R139. The manifold is DOWN and without its operation, its valves closed. -/
def closedDown (s : State) : State := (returnOp (closeOp s)).modMan fun m => { m with state := .down }

/-- R124, R139. Whoever the operation served has been told that it has ended. -/
def toldDown (s : State) : State :=
  match s.man.op with
  | some op => tellEnded .sensor op (closedDown s)
  | none => closedDown s

theorem enterDown_eq {s : State} (h : s.man.state ≠ .down) : enterDown s = emptyQueue .manifoldDown (write .man .regulator 0 (toldDown s)) := by
  unfold enterDown toldDown
  rw [if_neg h]
  rfl

theorem enterDown_down {s : State} (h : s.man.state = .down) : enterDown s = s := if_pos h

theorem closedDown_man (s : State) : (closedDown s).man = { s.man with state := .down, op := none } := by
  have hc : (closeOp s).man = s.man := by
    unfold closeOp
    split
    · split
      · split
        · exact write_man _ _ _ _
        · exact (forAll_touches (Touches.refl [.image] s) fun _ _ h => write_touches h (by decide)) .man (by decide)
        · rw [write_man, write_man]
        · exact write_man _ _ _ _
      · rfl
    · rfl
  have hr : ∀ u : State, (returnOp u).man = { u.man with op := none } := fun u => by
    obtain ⟨_, _, h⟩ := passing_shows [.tapValve 0, .tapValve 1] u (clearOp u)
    rw [returnOp, passing, h]
    rfl
  rw [closedDown, modMan_man, hr, hc]

theorem toldDown_work (s : State) : Work (fun _ => True) ⟨False, False⟩ (closedDown s) (toldDown s) := by
  unfold toldDown
  split
  · exact tellEnded_work _ _ _
  · exact Work.refl _

theorem regulator_owner {s : State} (h : s.mgp.part = .running) : owner .regulator s = some .man := if_pos h

theorem enterDown_drained {s : State} (h : s.man.state ≠ .down) : (enterDown s).man.state = .down ∧ Drained (enterDown s) := by
  rw [enterDown_eq h]
  have hm := closedDown_man s
  obtain ⟨hs, ho, -⟩ := (toldDown_work s).man.down (by rw [hm]) (by rw [hm])
  have hw : LossWork (State.modMan (fun m => { m with queue := [] }) (write .man .regulator 0 (toldDown s)))
      (emptyQueue .manifoldDown (write .man .regulator 0 (toldDown s))) := by
    unfold emptyQueue
    exact (Work.forAll dropEntry_work _).trans (Work.forAny (fun _ u => endPour_work _ u trivial) _)
  have hq : (State.modMan (fun m => { m with queue := [] }) (write .man .regulator 0 (toldDown s))).man.state = .down := by
    rw [modMan_man, write_man]
    exact hs
  have hd : Drained (State.modMan (fun m => { m with queue := [] }) (write .man .regulator 0 (toldDown s))) := by
    refine ⟨by rw [modMan_man, write_man]; exact ho, rfl, fun hp => ?_⟩
    show (write .man .regulator 0 (toldDown s)).out .regulator = 0
    have hp' : (toldDown s).mgp.part = .running := (write_shows .man .regulator 0 (toldDown s)).mgp ▸ hp
    rw [write_owned (regulator_owner hp'), commandOut_out, if_pos rfl]
  exact ⟨(hw.man.down hq hd.1).1, hd.kept hq hw⟩

theorem Ruin.enterDown (s : State) : Ruin s (enterDown s) where
  work := enterDown_work s
  touches := enterDown_touches (Touches.refl _ s) (by decide) (by decide) (by decide) (by decide) (by decide) (by decide) (by decide)
  fallen b ph hs hb := by
    have ht : Touches [.image, .man, .kegs, .taps, .up, .atn, .free] s (Machine.enterDown s) :=
      enterDown_touches (Touches.refl _ s) (by decide) (by decide) (by decide) (by decide) (by decide) (by decide) (by decide)
    rw [phase_of_same (ht .phases (by decide)), hs] at hb
    exact absurd hb (active_ne_halted ph)
  drained hs _ := (enterDown_drained hs).2

/-! ## A slot that is emptied -/

theorem Ruin.modRte {f : Rte → Rte} {s : State} (h : ∀ x, (f x).routes = x.routes := by exact fun _ => rfl)
    (hc : ∀ x, (f x).counts = x.counts := by exact fun _ => rfl) : Ruin s (s.modRte f) :=
  Ruin.calm (Work.modRte h) (modRte_touches (Touches.refl _ s) (.inr fun x => h x) (.inl (by decide)) (.inl (by decide)) (.inr fun x => hc x))

theorem controlLost_ruin (b : Bay) (s : State) : Ruin s (controlLost b s) := by
  refine (Ruin.calm Work.modKeg_beside ?_).trans (Ruin.haltKeg (.inr rfl) _)
  exact modKeg_touches (Touches.refl _ s) (by decide) (.inr fun _ => rfl) (.inr fun _ => rfl) (.inr fun _ => ⟨rfl, rfl⟩) (.inr fun _ => ⟨rfl, .inl⟩) (.inr fun _ h => h)

theorem controlValue_ruin (b : Bay) (c : ControlTemp) (s : State) : Ruin s (controlValue b c s) := by
  have h : Work (fun _ => True) ⟨False, False⟩ s (thermoTemp b c.value (s.modKeg b fun k => { k with sensedTemp := some c })) :=
    (Work.modKeg_beside).trans (thermoTemp_work b _ _)
  exact Ruin.calm (Work.branch (fun _ => h.trans (endPoursFrom_work _ _ _)) fun _ => h)
    (controlValue_touches (Touches.refl _ s) (by decide) (by decide) (by decide) (by decide) (by decide) (by decide) (by decide) (by decide))

theorem deliverControl_ruin (b : Bay) (draws : Bool) (s : State) : Ruin s (deliverControl b draws s) := by
  unfold deliverControl
  split
  · exact Ruin.refl s
  split
  · split
    · exact Ruin.trans Ruin.modRte (controlValue_ruin b _ _)
    · exact Ruin.refl s
  · split
    · exact Ruin.trans Ruin.modRte (controlLost_ruin b _)
    · exact Ruin.refl s

theorem lineEmptied_ruin (y : Tap) (s : State) : Ruin s (lineEmptied y s) :=
  Ruin.calm (lineEmptied_work y s) (lineEmptied_touches (Touches.refl _ s) (by decide) (by decide))

theorem slotEmptied_ruin (d : Dest) (s : State) : Ruin s (slotEmptied d s) := by
  cases d with
  | kegCore b | kegWall b => exact deliverControl_ruin b _ s
  | kegPress b =>
    refine (Ruin.calm Work.modKeg_beside ?_).trans (Ruin.haltKeg (.inr rfl) _)
    exact modKeg_touches (Touches.refl _ s) (by decide) (.inr fun _ => rfl) (.inr fun _ => rfl) (.inr fun _ => ⟨rfl, rfl⟩) (.inr fun _ => ⟨rfl, .inl⟩) (.inr fun _ h => h)
  | manifold | cylinder => exact Ruin.enterDown s
  | line y => exact lineEmptied_ruin y s
  | glycol | ambient => exact Ruin.refl s

/-- R31. A channel leaves LIVE. -/
theorem leftLive_ruin (c : Chan) (s : State) : Ruin s (leftLive c s) := by
  unfold leftLive
  split
  · unfold emptySlot
    split
    · exact Ruin.trans Ruin.modRte (slotEmptied_ruin _ _)
    · exact Ruin.refl s
  · exact Ruin.refl s

end Sys2Proof.Proofs
end

section
/-! PROOFS. The exchange that fails: what fails it, the node's record, and the loss that begins with the third failure (R9, R12, R13). -/

namespace Sys2Proof.Proofs

open Sys2Proof.Machine Sys2Proof.Safety Sys2Proof.Claims

/-! ## What fails an exchange (R9, R12, R13) -/

/-- R9, R12, R13. The instruction fails the exchange `x`. -/
def Fails (i : Instr) (x : Exchange) : Prop :=
  i = .replyTimeout ∨ (∃ chars, i = .badReply chars ∧ judgeReply x.node chars = .bad) ∨
    ∃ chars, i = .busyReply chars ∧ judgeReply x.node chars = .busy ∧ 3 ≤ x.busyCount

theorem exec_replyTimeout {s : State} {x : Exchange} (ha : Awake s) (he : s.blc.exchange = some x) (hp : x.phase = .awaiting) :
    exec .replyTimeout s = .next (finish (exchangeFailed x.node s)) := by
  simp only [exec, execReplyTimeout, he]
  rw [live_of ha (decide_eq_true hp)]

theorem exec_badReply {s : State} {x : Exchange} {chars : List Char9} (ha : Awake s) (he : s.blc.exchange = some x) (hp : x.phase = .awaiting)
    (hj : judgeReply x.node chars = .bad) : exec (.badReply chars) s = .next (finish (exchangeFailed x.node s)) := by
  simp only [exec, execBadReply, verdictOn_awaiting he hp, hj]
  rw [live_of ha rfl]

/-- R12. A fourth BUSY fails the exchange. -/
theorem exchangeBusy_fourth {s : State} {x : Exchange} (hb : 3 ≤ x.busyCount) : exchangeBusy x s = exchangeFailed x.node s := if_neg (Nat.not_lt.2 hb)

theorem exec_fails {s : State} {x : Exchange} {i : Instr} (ha : Awake s) (he : s.blc.exchange = some x) (hp : x.phase = .awaiting) (hi : Fails i x) :
    exec i s = .next (finish (exchangeFailed x.node s)) := by
  rcases hi with rfl | ⟨chars, rfl, hj⟩ | ⟨chars, rfl, hj, hb⟩
  · exact exec_replyTimeout ha he hp
  · exact exec_badReply ha he hp hj
  · rw [exec_busyReply ha he hp hj, exchangeBusy_fourth hb]

/-! ## The node's record (R13) -/

/-- R13. The node's record once its exchange has failed. -/
def failedRecord (x : NodeRecord) : NodeRecord := { x with failures := min 3 (x.failures + 1) }

/-- R13. The node's record with the failure that makes it LOST. -/
def lostRecord (x : NodeRecord) : NodeRecord := { failedRecord x with state := .lost }

/-- R13. The node is LOST, and NODE_LOST is raised for its number. -/
def lossRaised (n : Node) (s : State) : State := raise .nodeLost (some (nodeNum n)) (s.modNode n lostRecord)

theorem exchangeFailed_kept {n : Node} {s : State} (h : (s.node n).failures < 2 ∨ (s.node n).state = .lost) :
    exchangeFailed n s = s.modBlc fun x => withoutExchange { x with nodes := upd x.nodes n failedRecord } := by
  have hc : ¬ (min 3 ((s.node n).failures + 1) = 3 ∧ (s.node n).state ≠ .lost) := by
    rintro ⟨hc, hs⟩
    rcases h with h | h
    · omega
    · exact hs h
  have hn : (s.modNode n fun r => { r with failures := min 3 ((s.node n).failures + 1) }) = s.modNode n failedRecord := rfl
  unfold exchangeFailed
  dsimp only
  rw [if_neg hc, hn, endExchange_eq]
  rfl

theorem exchangeFailed_kept_end {n : Node} {s : State} (h : (s.node n).failures < 2 ∨ (s.node n).state = .lost) :
    exchangeFailed n s = endExchange (s.modNode n failedRecord) := by
  rw [exchangeFailed_kept h, endExchange_eq]
  rfl

theorem exchangeFailed_lost {n : Node} {s : State} (h : 2 ≤ (s.node n).failures) (hs : (s.node n).state ≠ .lost) :
    exchangeFailed n s = endExchange (deliverLost n (lossRaised n s)) := by
  have hc : min 3 ((s.node n).failures + 1) = 3 := by omega
  have hn : ((s.modNode n fun r => { r with failures := min 3 ((s.node n).failures + 1) }).modNode n fun r => { r with state := .lost }) = s.modNode n lostRecord := by
    show (s.modBlc _).modBlc _ = s.modBlc _
    unfold State.modBlc
    dsimp only
    rw [upd_upd]
    rfl
  unfold exchangeFailed
  dsimp only
  rw [if_pos ⟨hc, hs⟩, hn]
  rfl

/-! ## A failure that loses no node -/

theorem failed_touches (n : Node) (s : State) : Touches (.linkOk :: .nodes :: eventParts) s (s.modNode n failedRecord) :=
  modNode_touches (Touches.refl _ s) (by decide) (.inl (by decide)) (.inl (by decide))

theorem exchangeFailed_all_touches (n : Node) (s : State) : Touches (lossParts ++ eventParts) s (finish (exchangeFailed n s)) :=
  finish_touches (exchangeFailed_touches (Touches.refl _ s) (by decide) (by decide) (by decide) (by decide) (by decide) (by decide) (by decide) (by decide)
    (by decide) (by decide) (by decide) (by decide) (by decide) (by decide)) (by decide) (by decide) (by decide)

theorem kept_failure_leaves {n : Node} {s : State} (h : (s.node n).failures < 2 ∨ (s.node n).state = .lost) :
    Touches (.nodes :: eventParts) s (finish (exchangeFailed n s)) ∧
      (ShownOk s → s.blc.discard = .none →
        (finish (exchangeFailed n s)).blc =
          withNextExchange (fun n => imageOf n s) (withoutExchange { s.blc with nodes := upd s.blc.nodes n failedRecord })) := by
  have he := exchangeFailed_kept_end h
  constructor
  · rw [he]
    refine Touches.close (q := .linkOk) ((failed_touches n s).trans ((endOfExchange_touches _).mono (by decide))) ?_
    rw [← he]
    exact exchangeFailed_all_touches n s .linkOk (by decide)
  · intro hs hd
    rw [exchangeFailed_kept h]
    exact recorded_blc rfl hs hd

/-! ## A loss begins (R13, R14, R29) -/

/-- R14, R29. What stands when a loss has begun, before any slot is emptied and any block is told: nothing but the node's record,
the channels, the flag and its ATTENTION has changed. -/
structure LossBegun (n : Node) (s u : State) : Prop where
  beside : ∃ nodes ccu up seq atn free,
    u = { s with blc := { s.blc with nodes := nodes }, ccu := ccu, mgp := { s.mgp with up := up, seq := seq }, atn := atn, free := free }
  node : ∀ m, u.node m = if m = n then lostRecord (s.node n) else s.node m
  chan : ∀ c, u.chan c = if (s.chan c).record.node = n then (s.chan c).nodeLost else s.chan c
  raised : Raised .nodeLost (nodeNum n) u
  sentOn : s.mgp.up <+: u.mgp.up
  weight : weight u.mgp.up = weight s.mgp.up

theorem moveChannels_eq (n : Node) (f : Channel → Channel) (s : State) : moveChannels n f s = { s with ccu := (moveChannels n f s).ccu } := by
  have h : ∀ (l : List Chan) (u : State),
      ∃ ccu, forAll l (fun c s => if (s.chan c).record.node = n then s.modChan c f else s) u = { u with ccu := ccu } := fun l => by
    induction l with
    | nil => exact fun u => ⟨u.ccu, rfl⟩
    | cons c l ih =>
      intro u
      obtain ⟨ccu, hc⟩ := ih (if (u.chan c).record.node = n then u.modChan c f else u)
      refine ⟨ccu, hc.trans ?_⟩
      split <;> rfl
  obtain ⟨ccu, hc⟩ := h allChans s
  unfold moveChannels
  rw [hc]

theorem moveChannels_chan {n : Node} (f : Channel → Channel) (s : State) (c : Chan) :
    (moveChannels n f s).chan c = if (s.chan c).record.node = n then f (s.chan c) else s.chan c := by
  have h : ∀ (l : List Chan) (u : State), l.Nodup →
      (forAll l (fun c s => if (s.chan c).record.node = n then s.modChan c f else s) u).chan c =
        if c ∈ l ∧ (u.chan c).record.node = n then f (u.chan c) else u.chan c := fun l => by
    induction l with
    | nil => exact fun u _ => by simp [forAll]
    | cons d l ih =>
      intro u hn
      obtain ⟨hd, hn⟩ := List.nodup_cons.1 hn
      refine (ih _ hn).trans ?_
      have hu : (if (u.chan d).record.node = n then u.modChan d f else u).chan c = if c = d ∧ (u.chan c).record.node = n then f (u.chan c) else u.chan c := by
        by_cases e : c = d
        · subst e
          by_cases hr : (u.chan c).record.node = n
          · rw [if_pos hr, chan_modChan, if_pos rfl, if_pos ⟨rfl, hr⟩]
          · rw [if_neg hr, if_neg (fun h : c = c ∧ _ => hr h.2)]
        · rw [if_neg (fun h : c = d ∧ _ => e h.1)]
          by_cases hr : (u.chan d).record.node = n
          · rw [if_pos hr, chan_modChan, if_neg e]
          · rw [if_neg hr]
      rw [hu]
      by_cases e : c = d
      · subst e
        rw [if_neg fun h => hd h.1]
        by_cases hr : (u.chan c).record.node = n
        · rw [if_pos ⟨rfl, hr⟩, if_pos ⟨List.mem_cons_self, hr⟩]
        · rw [if_neg fun h => hr h.2, if_neg fun h => hr h.2]
      · rw [if_neg (fun h : c = d ∧ _ => e h.1)]
        simp [e]
  unfold moveChannels
  rw [h allChans s (List.nodup_finRange 24)]
  simp [allChans]

theorem lossBegun (n : Node) (s : State) (x : Free) : LossBegun n s (moveChannels n Channel.nodeLost ((lossRaised n s).setFree x)) := by
  have hm := moveChannels_eq n Channel.nodeLost ((lossRaised n s).setFree x)
  obtain ⟨up, seq, atn, free, hr⟩ := raise_sends .nodeLost (some (nodeNum n)) (s.modNode n lostRecord)
  obtain ⟨hup, hw, -⟩ := raise_up .nodeLost (some (nodeNum n)) (s.modNode n lostRecord)
  have hl : lossRaised n s = _ := hr
  refine { beside := ⟨upd s.blc.nodes n lostRecord, (moveChannels n Channel.nodeLost ((lossRaised n s).setFree x)).ccu, up, seq, atn, x, hm.trans ?_⟩, node := fun m => ?_, chan := fun c => ?_, raised := ?_, sentOn := ?_, weight := ?_ }
  · rw [hl]
    rfl
  · rw [hm, hl]
    exact upd_get _ _ _ _
  · rw [moveChannels_chan, hl]
    rfl
  · obtain ⟨hp, hi⟩ := raise_raised .nodeLost (nodeNum n) (s.modNode n lostRecord)
    rw [hm]
    exact ⟨hp, hi⟩
  · rw [hm]
    exact hup
  · rw [hm]
    exact hw

/-- R13, R14, R29. The exchange fails for the third time: what follows the beginning of the loss. -/
theorem exchangeFailed_lossBegun {n : Node} {s : State} (h : 2 ≤ (s.node n).failures) (hs : (s.node n).state ≠ .lost) :
    ∃ u before after, LossBegun n s u ∧ (∀ c, c ∈ before ++ after ↔ (s.chan c).record.node = n ∧ (s.chan c).state = .live) ∧
      exchangeFailed n s = endExchange (forAll after leftLive (roleLost n (forAll before leftLive u))) := by
  obtain ⟨before, after, x, hp, he⟩ :=
    forAnyWith_spec (roleLost n) (liveChannels n (lossRaised n s)) leftLive (moveChannels n Channel.nodeLost (lossRaised n s))
  refine ⟨_, before, after, lossBegun n s x, fun c => ?_, ?_⟩
  · obtain ⟨up, seq, atn, free, hr⟩ := raise_sends .nodeLost (some (nodeNum n)) (s.modNode n lostRecord)
    have hl : lossRaised n s = _ := hr
    rw [hp.mem_iff, liveChannels, List.mem_filter, hl]
    simp only [allChans, List.mem_finRange, true_and, decide_eq_true_eq]
    rfl
  · rw [exchangeFailed_lost h hs, deliverLost, changeChannels, he]
    have hf : moveChannels n Channel.nodeLost ((lossRaised n s).setFree x) = (moveChannels n Channel.nodeLost (lossRaised n s)).setFree x :=
      forAll_setFree fun c u => by
        have hc : ((u.setFree x).chan c).record.node = (u.chan c).record.node := rfl
        rw [hc]
        split <;> rfl
    rw [hf]

theorem LossBegun.work {n : Node} {s u : State} (h : LossBegun n s u) : LossWork s u := by
  obtain ⟨⟨nodes, ccu, up, seq, atn, free, rfl⟩, -, -, -, hup, hw⟩ := h
  exact { Work.refl (T := fun _ => True) (loss := ⟨True, True⟩) s with sentOn := hup, weight := Nat.add_le_add_right (Nat.le_of_eq hw) _ }

/-! ## The end of an event, as work -/

section
variable {T : Tap → Prop} {loss : Loss}

theorem Work.modBlc {f : Blc → Blc} {s : State} (h : (f s.blc).outs = s.blc.outs) : Work T loss s (s.modBlc f) := by
  have ho : ∀ o, (s.modBlc f).out o = s.out o := fun o => by
    rw [State.out, modBlc_blc, h]
  exact { Work.refl (T := T) (loss := loss) s with
    held := fun r hr => ⟨hr, fun hs => by rwa [ShutOrHeld, ho]⟩
    valve := fun z _ => ho _
    regulator := fun _ _ hr => (ho _).trans hr }

theorem endExchange_work (s : State) : Work T loss s (endExchange s) := by
  rw [endExchange_eq]
  exact Work.modBlc (withoutExchange_fields s.blc).2.1

theorem kick_work (s : State) : Work T loss s (kick s) := by
  rw [kick_eq]
  exact Work.modBlc (f := fun _ => (kick s).blc) (kick_outs s)

end

theorem retrySync_work {loss : Loss} (y : Tap) (s : State) : Work (fun _ => True) loss s (retrySync y s) :=
  Work.modTap ⟨rfl, rfl, rfl, fun q hq => ⟨q, hq, rfl⟩, fun h => absurd trivial h⟩ rfl

theorem finish_work {loss : Loss} (s : State) : Work (fun _ => True) loss s (finish s) :=
  (((((retrySync_work 0 s).trans (retrySync_work 1 _)).trans (Work.write _ _)).trans (Work.write _ _)).trans (Work.write _ _)).trans (kick_work _)

/-- An output is neither the pump nor a cue. -/
def Output.unshown : Output → Bool
  | .pump | .cue _ => false
  | _ => true

theorem kick_out (o : Output) (s : State) : (kick s).out o = s.out o := by
  rw [State.out, kick_outs]

/-- R103, R160. The end of an event writes the pump and the cues alone. -/
theorem finish_out {o : Output} (h : Output.unshown o = true) (s : State) : (finish s).out o = s.out o := by
  have hne : ∀ p, Output.unshown p = false → o ≠ p := fun p hp e => by rw [e, hp] at h; cases h
  rw [finish, kick_out, cueWrite, write_out_other (hne _ rfl), cueWrite, write_out_other (hne _ rfl), pumpWrite, write_out_other (hne _ rfl)]
  rfl

theorem endOfExchange_out {o : Output} (h : Output.unshown o = true) (s : State) : (finish (endExchange s)).out o = s.out o := by
  rw [finish_out h, endExchange_eq, State.out, modBlc_blc, (withoutExchange_fields s.blc).2.1]

/-- R103. With no holder the pump is OFF at the end of an event. -/
theorem finish_pump {s : State} (hp : s.mgp.part = .running) (hh : s.chl.holders = []) : (finish s).out .pump = 0 := by
  have ho : owner .pump (retrySync 1 (retrySync 0 s)) = some .chl := if_pos hp
  have he : (retrySync 1 (retrySync 0 s)).chl.holders.isEmpty = true := by
    show s.chl.holders.isEmpty = true
    rw [hh]
    rfl
  rw [finish, kick_out, cueWrite, write_out_other (by simp), cueWrite, write_out_other (by simp), pumpWrite, write_owned ho, commandOut_out, if_pos rfl, if_pos he]

/-! ## The failure of an exchange, on the line (R9, R12, R13) -/

theorem roleLost_ruinParts (n : Node) (s : State) : Touches ruinParts s (roleLost n s) :=
  roleLost_touches (Touches.refl _ s) (by decide) (by decide) (by decide) (by decide) (by decide) (by decide) (by decide) (by decide) (by decide)

/-- What follows the beginning of a loss touches no node and no channel. -/
theorem lossWork_touches (n : Node) (before after : List Chan) (u : State) :
    Touches ruinParts u (forAll after leftLive (roleLost n (forAll before leftLive u))) :=
  ((Ruin.forAll leftLive_ruin u).touches.trans (roleLost_ruinParts n _)).trans (Ruin.forAll leftLive_ruin _).touches

theorem endOfExchange_node (m : Node) (s : State) : undue ((finish (endExchange s)).node m) = undue (s.node m) :=
  undue_of_same (endOfExchange_touches s .nodes (by decide)) m

/-- R13. What a failure makes of the node records. -/
theorem failed_node (n m : Node) (s : State) :
    undue ((finish (exchangeFailed n s)).node m) =
      undue (if m = n then (if (s.node n).failures < 2 ∨ (s.node n).state = .lost then failedRecord (s.node n) else lostRecord (s.node n)) else s.node m) := by
  by_cases h : (s.node n).failures < 2 ∨ (s.node n).state = .lost
  · rw [if_pos h, exchangeFailed_kept_end h, endOfExchange_node]
    exact congrArg undue (upd_get _ _ _ _)
  · obtain ⟨hf, hs⟩ := not_or.1 h
    obtain ⟨u, before, after, hu, -, he⟩ := exchangeFailed_lossBegun (Nat.not_lt.1 hf) hs
    rw [if_neg h, he, endOfExchange_node, undue_of_same (lossWork_touches n before after u .nodes (by decide)), hu.node]

theorem exchangeFailed_raises {n : Node} {s : State} (h : 2 ≤ (s.node n).failures) (hs : (s.node n).state ≠ .lost) :
    Raised .nodeLost (nodeNum n) (finish (exchangeFailed n s)) := by
  obtain ⟨u, before, after, hu, -, he⟩ := exchangeFailed_lossBegun h hs
  have hf : Touches (ruinParts ++ eventParts) u (finish (exchangeFailed n s)) := by
    rw [he]
    exact ((lossWork_touches n before after u).mono (by decide)).trans ((endOfExchange_touches _).mono (by decide))
  exact raised_kept hu.raised (hf .flags (by decide))

/-- A node's record but for its due mark. -/
theorem undue_fields {r r' : NodeRecord} (h : undue r = undue r') : r.failures = r'.failures ∧ r.lastReply = r'.lastReply ∧ r.state = r'.state := by
  have hf : (undue r).failures = (undue r').failures := congrArg _ h
  have hl : (undue r).lastReply = (undue r').lastReply := congrArg _ h
  have hs : (undue r).state = (undue r').state := congrArg _ h
  exact ⟨hf, hl, hs⟩

/-- R13. What a failure makes of the record of the exchange's own node. -/
theorem failed_node_fields (n : Node) (s : State) :
    ((finish (exchangeFailed n s)).node n).failures = min 3 ((s.node n).failures + 1) ∧
      ((finish (exchangeFailed n s)).node n).lastReply = (s.node n).lastReply ∧
      ((finish (exchangeFailed n s)).node n).state = if 2 ≤ (s.node n).failures then .lost else (s.node n).state := by
  have hn := failed_node n n s
  rw [if_pos rfl] at hn
  obtain ⟨hf, hl, hs⟩ := undue_fields hn
  rw [hf, hl, hs]
  by_cases h : (s.node n).failures < 2 ∨ (s.node n).state = .lost
  · rw [if_pos h]
    refine ⟨rfl, rfl, ?_⟩
    by_cases h2 : 2 ≤ (s.node n).failures
    · rw [if_pos h2]
      exact h.resolve_left (Nat.not_lt.2 h2)
    · rw [if_neg h2]
      rfl
  · rw [if_neg h, if_pos (Nat.not_lt.1 (not_or.1 h).1)]
    exact ⟨rfl, rfl, rfl⟩

end Sys2Proof.Proofs
end

section
/-! PROOFS. The loss of a bay node: its keg is halted, and its channels are STALE (R13, R14, R29, R63, R64). -/

namespace Sys2Proof.Proofs

open Sys2Proof.Machine Sys2Proof.Safety Sys2Proof.Claims

theorem bayOfNode_bayNode (b : Bay) : bayOfNode (bayNode b) = some b := by
  unfold bayOfNode bayNode
  rw [dif_pos (show b.val < 6 from b.isLt)]

theorem roleLost_bay (b : Bay) (s : State) : roleLost (bayNode b) s = haltKeg b .node s := by
  unfold roleLost
  rw [bayOfNode_bayNode]

theorem activePhase_injective {ph ph' : ActivePhase} (h : ph.phase = ph'.phase) : ph = ph' := by cases ph <;> cases ph' <;> cases h <;> rfl

/-- The keg is HALTED from the phase `ph`, for its node or for a sensor. -/
def HaltedFrom (ph : ActivePhase) (k : Keg) : Prop :=
  k.phase = .halted ∧ k.prior = some ph ∧ (k.haltReason = some .node ∨ k.haltReason = some .sensor)

theorem HaltedFrom.kept {ph : ActivePhase} {l : Prop} {k k' : Keg} (h : HaltedFrom ph k) (hk : KegWork l k k') : HaltedFrom ph k' := by
  obtain ⟨hp, hprior, hr⟩ := h
  rcases hk with ⟨h1, h2, h3⟩ | ⟨-, ph', h1, -⟩
  · exact ⟨h1.trans hp, h2.trans hprior, by rwa [h3]⟩
  · exact absurd (h1.symm.trans hp) (active_ne_halted ph')

/-- R63, R64. Between what the emptied slots ruin, the node's own notice halts the keg that is not halted yet. -/
theorem nodeNotice_halts {b : Bay} {ph : ActivePhase} {u v w : State} (h : (u.keg b).phase = ph.phase) (huv : LossWork u v)
    (hvw : LossWork (haltKeg b .node v) w) : HaltedFrom ph (w.keg b) := by
  refine HaltedFrom.kept ?_ (hvw.kegs b)
  rcases huv.kegs b with ⟨hp, -⟩ | ⟨-, ph', hu, hp, hprior, hr⟩
  · obtain ⟨h1, h2, h3, -⟩ := haltKeg_fallen .node (hp.trans h)
    exact ⟨h1, h2, .inl h3⟩
  · rw [haltKeg_inactive fun x hx => active_ne_halted x (hx.symm.trans hp)]
    rw [activePhase_injective (h.symm.trans hu)]
    exact ⟨hp, hprior, hr⟩

/-- R29. The channels of a lost node that took readings are STALE, their windows empty. -/
theorem nodeLost_stale {x : Channel} (h : x.state = .priming ∨ x.state = .live) : x.nodeLost.state = .stale ∧ x.nodeLost.window = [] := by
  unfold Channel.nodeLost
  rw [if_pos (takes_iff.2 h)]
  exact ⟨rfl, rfl⟩

theorem LossBegun.kegs {n : Node} {s u : State} (h : LossBegun n s u) : u.kegs = s.kegs := by
  obtain ⟨⟨_, _, _, _, _, _, rfl⟩, -, -, -, -, -⟩ := h
  rfl

theorem LossBegun.keg {n : Node} {s u : State} (h : LossBegun n s u) (b : Bay) : u.keg b = s.keg b := by
  rw [State.keg, h.kegs]

/-- R13, R14, R29, R63, R64. What the loss of a bay node leaves. -/
theorem bayNode_lost {s : State} {b : Bay} (h : 2 ≤ (s.node (bayNode b)).failures) (hs : (s.node (bayNode b)).state ≠ .lost) :
    let t := finish (exchangeFailed (bayNode b) s)
    (∀ ph : ActivePhase, (s.keg b).phase = ph.phase → HaltedFrom ph (t.keg b) ∧ Fallen b t ∧ (t.keg b).chain = (s.keg b).chain) ∧
    KegWork True (s.keg b) (t.keg b) ∧
    ∀ c : Chan, (s.chan c).record.node = bayNode b → t.chan c = (s.chan c).nodeLost := by
  obtain ⟨u, before, after, hu, -, he⟩ := exchangeFailed_lossBegun h hs
  have hbefore := Ruin.forAll (l := before) leftLive_ruin u
  have hafter := Ruin.forAll (l := after) leftLive_ruin (haltKeg b .node (forAll before leftLive u))
  have hruin := (hbefore.trans (Ruin.haltKeg (b := b) (.inl rfl) _)).trans hafter
  rw [roleLost_bay] at he
  rw [he]
  have hend := endOfExchange_touches (forAll after leftLive (haltKeg b .node (forAll before leftLive u)))
  have hwork : LossWork _ _ := (endExchange_work (forAll after leftLive (haltKeg b .node (forAll before leftLive u)))).trans (finish_work _)
  refine ⟨fun ph hph => ?_, ?_, fun c hc => ?_⟩
  · rw [← hu.keg b] at hph
    have hhalt := nodeNotice_halts hph hbefore.work hafter.work
    refine ⟨hhalt.kept (hwork.kegs b), (hruin.fallen b ph hph hhalt.1).kept hwork (hend .released (by decide)) (hend .flags (by decide)), ?_⟩
    rw [← hu.keg b]
    exact (chain_of_same (hend .chains (by decide)) b).trans (chain_of_same (hruin.touches .chains (by decide)) b)
  · rw [← hu.keg b]
    exact (hruin.work.kegs b).trans (hwork.kegs b)
  · have hchan : ∀ {v w : State}, Same .chans v w → w.chan c = v.chan c := fun h => congrArg (fun x : Vector Channel 24 => x[c]) h
    rw [hchan (hend .chans (by decide)), hchan (hruin.touches .chans (by decide)), hu.chan, if_pos hc]

end Sys2Proof.Proofs
end

section
/-! PROOFS. The loss of the chiller node: every holder is revoked (R14, R113, R116). -/

namespace Sys2Proof.Proofs

open Sys2Proof.Machine Sys2Proof.Safety Sys2Proof.Claims

/-! ## Revocation (R113) -/

theorem revokeOne_chl (r : Requester) (s : State) : (revokeOne r s).chl = (setWant r (dropHolder r s)).chl := by
  obtain ⟨_, _, h⟩ := writeValve_shows r 0 (dropHolder r s)
  rw [revokeOne, h]
  cases r <;> rfl

theorem revokeOne_holding (r : Requester) (s : State) : holding (revokeOne r s) = (holding s).filter fun x => decide (x ≠ r) := by
  have h : holding (setWant r (dropHolder r s)) = holding (dropHolder r s) := by cases r <;> rfl
  rw [holding, revokeOne_chl]
  refine h.trans ?_
  rw [holding, dropHolder, holding, List.filter_map]
  rfl

theorem revokeOne_queue (r : Requester) (s : State) : (revokeOne r s).chl.queue = s.chl.queue := by
  rw [revokeOne_chl]
  cases r <;> rfl

theorem revokeAll_holding (l : List Requester) (s : State) : holding (forAll l revokeOne s) = (holding s).filter fun x => decide (x ∉ l) := by
  induction l generalizing s with
  | nil => simp [forAll]
  | cons r l ih =>
    refine (ih _).trans ?_
    rw [revokeOne_holding, List.filter_filter]
    congr 1
    funext x
    simp [Bool.and_comm]

theorem revokeAll_queue (l : List Requester) (s : State) : (forAll l revokeOne s).chl.queue = s.chl.queue := by
  induction l generalizing s with
  | nil => rfl
  | cons r l ih => exact (ih _).trans (revokeOne_queue r s)

theorem wanting_congr {r : Requester} {s t : State} (h : t.chl = s.chl) : Wanting r t ↔ Wanting r s := by
  cases r <;> simp only [Wanting, State.thermo, State.line, h]

theorem thermo_modThermo (b d : Bay) (f : Thermo → Thermo) (s : State) : (s.modThermo b f).thermo d = if d = b then (s.thermo b).map f else s.thermo d :=
  upd_get _ _ _ _

theorem line_modLine (y z : Tap) (f : Line → Line) (s : State) : (s.modLine y f).line z = if z = y then f (s.line y) else s.line z := upd_get _ _ _ _

theorem setWant_wanting {r x : Requester} {s : State} (h : x = r ∨ Wanting x s) : Wanting x (setWant r s) := by
  cases x with
  | keg d =>
    intro th hth
    cases r with
    | line y => exact h.resolve_left (by simp) th hth
    | keg b =>
      rw [setWant, thermo_modThermo] at hth
      split at hth
      · obtain ⟨th₀, -, rfl⟩ := Option.map_eq_some_iff.1 hth
        rfl
      · rename_i hd
        exact h.resolve_left (fun e => hd (Requester.keg.inj e)) th hth
  | line z =>
    cases r with
    | keg b => exact h.resolve_left (by simp)
    | line y =>
      show ((s.modLine y fun l => { l with state := .wantCool }).line z).state = .wantCool
      rw [line_modLine]
      split
      · rfl
      · rename_i hz
        exact h.resolve_left fun e => hz (Requester.line.inj e)

/-- R113. A revoked requester wants a slot, as do those that wanted one. -/
theorem revokeOne_wanting {r x : Requester} {s : State} (h : x = r ∨ Wanting x s) : Wanting x (revokeOne r s) := by
  rw [wanting_congr (revokeOne_chl r s)]
  refine setWant_wanting (h.imp id fun hx => ?_)
  cases x <;> exact hx

theorem revokeAll_wanting {x : Requester} (l : List Requester) {s : State} (h : x ∈ l ∨ Wanting x s) : Wanting x (forAll l revokeOne s) := by
  induction l generalizing s with
  | nil => exact h.resolve_left (by simp)
  | cons r l ih =>
    refine ih ?_
    rcases h with h | h
    · rcases List.mem_cons.1 h with rfl | h
      · exact .inr (revokeOne_wanting (.inl rfl))
      · exact .inl h
    · exact .inr (revokeOne_wanting (.inr h))

theorem mem_removalOrder {x : Requester} {l : List Requester} : x ∈ removalOrder l ↔ x ∈ l := by
  cases hx : x.isLine <;> simp [removalOrder, hx]

/-! ## The chiller node is lost (R116) -/

/-- R116. Node 7's loss, before the holders are revoked. -/
def chillerGone (s : State) : State := s.modChl fun c => { c with nodeLost := true }

theorem chillerLost_eq (s : State) :
    chillerLost s = (forAll (removalOrder (holding s)) revokeOne (chillerGone s)).modChl fun c => { c with queue := requeueRevoked (holding s) c.queue } := by
  have hf : (holding s).filter (fun r => decide (r ∈ removalOrder (holding s))) = holding s := by
    rw [List.filter_eq_self]
    exact fun r hr => decide_eq_true (mem_removalOrder.2 hr)
  show revoke (removalOrder (holding s)) (chillerGone s) = _
  unfold revoke
  dsimp only
  have hh : holding (chillerGone s) = holding s := rfl
  rw [hh, hf]

theorem chillerLost_chl (s : State) :
    (chillerLost s).chl.nodeLost = true ∧ (chillerLost s).chl.holders = [] ∧
      (chillerLost s).chl.queue = requeueRevoked (holding s) s.chl.queue ∧ ∀ r ∈ holding s, Wanting r (chillerLost s) := by
  rw [chillerLost_eq]
  have hw : LossWork (chillerGone s) (forAll (removalOrder (holding s)) revokeOne (chillerGone s)) := Work.forAll revokeOne_work _
  refine ⟨hw.lost, ?_, ?_, fun r hr => ?_⟩
  · have hn : holding (forAll (removalOrder (holding s)) revokeOne (chillerGone s)) = [] := by
      rw [revokeAll_holding, List.filter_eq_nil_iff]
      intro x hx
      have hx : x ∈ holding s := hx
      simpa using mem_removalOrder.2 hx
    exact List.map_eq_nil_iff.1 hn
  · exact congrArg (requeueRevoked (holding s)) (revokeAll_queue _ (chillerGone s))
  · have hr' : Wanting r (forAll (removalOrder (holding s)) revokeOne (chillerGone s)) := revokeAll_wanting _ (.inl (mem_removalOrder.2 hr))
    cases r <;> exact hr'

/-- R113, R116. The valve of a requester that held a slot, or was OFF, is OFF. -/
theorem chillerLost_shut {r : Requester} {s : State} (ho : OwnsValve r s) (h : ShutOrHeld r s) :
    OwnsValve r (chillerLost s) ∧ (chillerLost s).out (valveOf r) = 0 := by
  obtain ⟨-, hh, -, -⟩ := chillerLost_chl s
  have hw : LossWork (chillerGone s) (forAll (removalOrder (holding s)) revokeOne (chillerGone s)) := Work.forAll revokeOne_work _
  have hog : OwnsValve r (chillerGone s) := by cases r <;> exact ho
  obtain ⟨ho', hs'⟩ := hw.held r hog
  have hs := hs' h
  rw [chillerLost_eq] at hh ⊢
  refine ⟨by cases r <;> exact ho', hs.elim id fun hm => ?_⟩
  have hm' : r ∈ (forAll (removalOrder (holding s)) revokeOne (chillerGone s)).chl.holders.map (·.who) := hm
  have hh' : (forAll (removalOrder (holding s)) revokeOne (chillerGone s)).chl.holders = [] := hh
  rw [hh'] at hm'
  cases hm'

theorem part_of_same {s t : State} (h : Same .port s t) : t.mgp.part = s.mgp.part := by
  have h : { t.mgp with up := s.mgp.up, seq := s.mgp.seq } = s.mgp := h
  rw [← h]

theorem roleLost_chiller (s : State) : roleLost chillerNode s = chillerLost s := rfl

/-- R29. A node that no channel reads has no LIVE channel. -/
theorem no_live_of_unread {n : Node} {s : State} {l : List Chan} (hl : ∀ c, c ∈ l ↔ (s.chan c).record.node = n ∧ (s.chan c).state = .live) (h : Unread n s) : l = [] :=
  List.eq_nil_iff_forall_not_mem.2 fun c hc => h c ((hl c).1 hc).1

theorem LossBegun.chl {n : Node} {s u : State} (h : LossBegun n s u) : u.chl = s.chl := by
  obtain ⟨⟨_, _, _, _, _, _, rfl⟩, -, -, -, -, -⟩ := h
  rfl

theorem pump_owner {s : State} : owner .pump s = some .chl ↔ s.mgp.part = .running := by
  unfold owner
  split <;> simp_all [State.running]

/-- R14, R113, R116. What the loss of node 7 leaves. -/
theorem chillerNode_lost {s : State} (h : 2 ≤ (s.node chillerNode).failures) (hs : (s.node chillerNode).state ≠ .lost) :
    let t := finish (exchangeFailed chillerNode s)
    t.chl.nodeLost = true ∧ t.chl.holders = [] ∧ (owner .pump s = some .chl → t.out .pump = 0) ∧
      (∀ r ∈ holding s, OwnsValve r s → t.out (valveOf r) = 0) ∧
      (Unread chillerNode s → t.chl.queue = requeueRevoked (holding s) s.chl.queue ∧ ∀ r ∈ holding s, Wanting r t) := by
  obtain ⟨u, before, after, hu, hlive, he⟩ := exchangeFailed_lossBegun h hs
  rw [roleLost_chiller] at he
  rw [he]
  have hbefore := (Ruin.forAll (l := before) leftLive_ruin u).work
  have hafter := (Ruin.forAll (l := after) leftLive_ruin (chillerLost (forAll before leftLive u))).work
  obtain ⟨hn, hh, -, -⟩ := chillerLost_chl (forAll before leftLive u)
  have hn' := hafter.lost.trans hn
  have hh' := hafter.freed hn hh
  have hchl : ∀ v : State, (finish (endExchange v)).chl = v.chl := fun v => endOfExchange_touches v .chl (by decide)
  refine ⟨by rw [hchl]; exact hn', by rw [hchl]; exact hh', fun hp => ?_, fun r hr ho => ?_, fun hun => ?_⟩
  · have hpart : u.mgp.part = .running := hu.work.part.trans (pump_owner.1 hp)
    have hpart' := (part_of_same (lossWork_touches chillerNode before after u .port (by decide))).trans hpart
    rw [roleLost_chiller] at hpart'
    refine finish_pump ?_ ?_
    · rw [endExchange_eq]
      exact hpart'
    · rw [endExchange_eq]
      exact hh'
  · obtain ⟨ho₀, hs₀⟩ := (hu.work.trans hbefore).held r ho
    obtain ⟨ho₁, hs₁⟩ := chillerLost_shut ho₀ (hs₀ (.inr hr))
    have hshut := ((hafter.held r ho₁).2 (.inl hs₁)).resolve_right fun hm => by
      have hm : r ∈ (forAll after leftLive (chillerLost (forAll before leftLive u))).chl.holders.map (·.who) := hm
      rw [hh'] at hm
      cases hm
    rw [endOfExchange_out (by cases r <;> rfl)]
    exact hshut
  · have hnil := no_live_of_unread hlive hun
    obtain ⟨rfl, rfl⟩ := List.append_eq_nil_iff.1 hnil
    obtain ⟨-, -, hq, hwant⟩ := chillerLost_chl u
    have hu' : holding u = holding s := by rw [holding, hu.chl, holding]
    rw [hu', hu.chl] at hq
    refine ⟨by rw [hchl]; exact hq, fun r hr => (wanting_congr (hchl _)).2 (hwant r (by rwa [hu']))⟩

end Sys2Proof.Proofs
end

section
/-! PROOFS. The end of a pour: its record, its valve, and what the manifold keeps of it (R133, R155, R156, R157). -/

namespace Sys2Proof.Proofs

open Sys2Proof.Machine Sys2Proof.Safety Sys2Proof.Claims

/-! ## Who holds a tap valve (R3, R134) -/

theorem purgeActive_iff (y : Tap) (s : State) : purgeActive y s = true ↔ purgeOn y s.man := by
  unfold purgeActive purgeOn
  cases hop : s.man.op with
  | none => simp
  | some op =>
    simp only [Bool.and_eq_true, decide_eq_true_eq, Option.some.injEq, ↓existsAndEq, true_and]
    cases hn : op.need <;> simp [eq_comm]

theorem tapValve_owner_iff (y : Tap) (s : State) :
    owner (.tapValve y) s = some .tap ↔ s.mgp.part = .running ∧ ¬ purgeOn y s.man ∧ (s.tapRec y).set.binding.isSome = true := by
  rw [← purgeActive_iff]
  simp only [owner, State.running]
  split_ifs <;> simp_all

/-- No purge newly ACTIVE takes a tap valve from the tap in work. -/
theorem Work.tapValve_owner {T : Tap → Prop} {loss : Loss} {s t : State} (h : Work T loss s t) {y : Tap} (ho : owner (.tapValve y) s = some .tap) :
    owner (.tapValve y) t = some .tap := by
  obtain ⟨hp, ha, hb⟩ := (tapValve_owner_iff y s).1 ho
  exact (tapValve_owner_iff y t).2 ⟨h.part.trans hp, fun hz => ha (h.man.active y hz), by rw [(h.taps y).set]; exact hb⟩

/-! ## The record (R157) -/

theorem recorded_kept {y : Tap} {p : Pour} {refused : Bool} {reason : PourReason} {s t : State} (h : Recorded y p refused reason s)
    (hup : s.mgp.up <+: t.mgp.up) : Recorded y p refused reason t := by
  obtain ⟨tag, hm⟩ := h
  exact ⟨tag, hup.subset hm⟩

theorem inHand_pos {y : Tap} {s : State} (h : (s.tapRec y).pour.isSome = true) : 0 < inHand s := List.countP_pos_iff.2 ⟨y, List.mem_finRange y, h⟩

theorem pourGoneFrom_recorded {y : Tap} {p : Pour} (reason : PourReason) {s : State} (h : s.mgp.up.length < 14) :
    Recorded y p (!p.pouring && reason.refuses) reason (pourGoneFrom y p (pourReport y p reason) s) := by
  refine ⟨s.mgp.seq, ?_⟩
  have hup : (pourGoneFrom y p (pourReport y p reason) s).mgp.up = s.mgp.up ++ [.pourRecord (pourReport y p reason s.mgp.seq)] := by
    show (handPourRecord _ (s.modKeg p.bay fun k => { k with pours := k.pours - 1 })).mgp.up = _
    rw [handPourRecord_room (by exact h)]
    rfl
  rw [hup]
  exact List.mem_append_right _ List.mem_cons_self

/-- R155, R157. What the end of a pour comes to once the manifold has been told. -/
def afterNotice (reason : PourReason) (y : Tap) (p : Pour) (u : State) : State :=
  if !p.pouring && reason.refuses then startBlink y (pourGoneFrom y p (pourReport y p reason) u) else pourGoneFrom y p (pourReport y p reason) u

/-- R155. The manifold has been told of the end of the pour, its valve OFF. -/
def noticed (y : Tap) (p : Pour) (s : State) : State := pourEnded y (if p.pouring then write .tap (.tapValve y) 0 s else s)

theorem pourEndCore_eq (reason : PourReason) (y : Tap) (p : Pour) (s : State) : pourEndCore reason y p s = afterNotice reason y p (noticed y p s) := rfl

theorem startBlink_up (y : Tap) (s : State) : (startBlink y s).mgp.up = s.mgp.up := by
  unfold startBlink
  split <;> rfl

theorem afterNotice_up (reason : PourReason) (y : Tap) (p : Pour) (u : State) :
    (afterNotice reason y p u).mgp.up = (pourGoneFrom y p (pourReport y p reason) u).mgp.up := by
  unfold afterNotice
  split
  · exact startBlink_up _ _
  · rfl

theorem noticed_work {T : Tap → Prop} {loss : Loss} {y : Tap} {p : Pour} {s : State} (hy : T y) : Work T loss s (noticed y p s) :=
  (Work.branch (fun _ => Work.writeTapValve 0 s hy) fun _ => Work.refl s).trans (pourEnded_work y _)

/-- R157. While the queue has room, the pour that ends has its record in it. -/
theorem endPour_recorded (reason : PourReason) {y : Tap} {p : Pour} {s : State} (h : (s.tapRec y).pour = some p)
    (hroom : weight s.mgp.up + inHand s ≤ 14) : Recorded y p (!p.pouring && reason.refuses) reason (endPour reason y s) := by
  have hw : HaltWork s (noticed y p s) := noticed_work trivial
  have hp : ((noticed y p s).tapRec y).pour = some p := (pour_of_still (pourEnded_pour y p s)).trans h
  have hin := inHand_pos (s := noticed y p s) (y := y) (by rw [hp]; rfl)
  have hlen := length_le_weight (noticed y p s).mgp.up
  have hc : Recorded y p (!p.pouring && reason.refuses) reason (pourEndCore reason y p s) := by
    have := hw.weight
    refine recorded_kept (pourGoneFrom_recorded reason (show (noticed y p s).mgp.up.length < 14 by omega)) ?_
    rw [pourEndCore_eq, afterNotice_up]
  rw [endPour_eq h]
  split
  · exact recorded_kept hc (tapIdle_work (T := fun _ => True) (loss := ⟨True, False⟩) y _).sentOn
  · exact hc

/-! ## The valve (R155) -/

/-- R155. The valve of a pour that was POURING is OFF, if the tap holds it. -/
theorem endPour_valve (reason : PourReason) {y : Tap} {p : Pour} {s : State} (h : (s.tapRec y).pour = some p) (hp : p.pouring = true)
    (ho : owner (.tapValve y) s = some .tap) : (endPour reason y s).out (.tapValve y) = 0 := by
  have hv : (write .tap (.tapValve y) 0 s).out (.tapValve y) = 0 := by rw [write_owned ho, commandOut_out, if_pos rfl]
  have hn : (noticed y p s).out (.tapValve y) = 0 := by
    unfold noticed
    rw [if_pos hp]
    exact ((pourEnded_work (T := fun _ => False) (loss := ⟨False, False⟩) y _).valve y id).trans hv
  have hg : ∀ mk, (pourGoneFrom y p mk (noticed y p s)).out (.tapValve y) = (noticed y p s).out (.tapValve y) := fun mk => by
    unfold pourGoneFrom
    obtain ⟨_, _, _, _, hs⟩ := handPourRecord_sends mk ((noticed y p s).modKeg p.bay fun k => { k with pours := k.pours - 1 })
    rw [hs]
    rfl
  have hc : (pourEndCore reason y p s).out (.tapValve y) = 0 := by
    rw [pourEndCore_eq]
    unfold afterNotice
    rw [hp]
    exact (hg _).trans hn
  rw [endPour_eq h]
  split
  · exact ((tapIdle_work (T := fun _ => False) (loss := ⟨False, False⟩) y _).valve y id).trans hc
  · exact hc

/-! ## Several pours that end (R156) -/

/-- The end of another tap's pour leaves the tap's own. -/
theorem endPour_other (reason : PourReason) {y z : Tap} (h : y ≠ z) (s : State) : Work (fun x => x = z) ⟨False, False⟩ s (endPour reason z s) ∧
    ((endPour reason z s).tapRec y).pour = (s.tapRec y).pour := by
  have hw : Work (fun x => x = z) ⟨False, False⟩ s (endPour reason z s) := endPour_work reason s rfl
  exact ⟨hw, pour_of_still ((hw.taps y).still h)⟩

theorem forAll_endPour_recorded (reason : PourReason) {l : List Tap} {y : Tap} (hy : y ∈ l) {p : Pour} {s : State} (h : (s.tapRec y).pour = some p)
    (hroom : weight s.mgp.up + inHand s ≤ 14) : Recorded y p (!p.pouring && reason.refuses) reason (forAll l (endPour reason) s) := by
  induction l generalizing s with
  | nil => cases hy
  | cons z l ih =>
    by_cases e : y = z
    · subst e
      exact recorded_kept (endPour_recorded reason h hroom) (forAll_endPour_work reason l _).sentOn
    · obtain ⟨hw, hp⟩ := endPour_other reason e s
      exact ih (List.mem_of_ne_of_mem e hy) (hp.trans h) (hw.weight.trans hroom)

theorem forAll_endPour_valve (reason : PourReason) {l : List Tap} {y : Tap} (hy : y ∈ l) {p : Pour} {s : State} (h : (s.tapRec y).pour = some p)
    (hp : p.pouring = true) (ho : owner (.tapValve y) s = some .tap) : (forAll l (endPour reason) s).out (.tapValve y) = 0 := by
  induction l generalizing s with
  | nil => cases hy
  | cons z l ih =>
    by_cases e : y = z
    · subst e
      have hkeep : ∀ (l : List Tap) (u : State), (u.tapRec y).pour = none → (forAll l (endPour reason) u).out (.tapValve y) = u.out (.tapValve y) := fun l => by
        induction l with
        | nil => exact fun u _ => rfl
        | cons x l ih =>
          intro u hu
          by_cases e : y = x
          · subst e
            show (forAll l (endPour reason) (endPour reason y u)).out _ = _
            rw [endPour_none hu]
            exact ih u hu
          · obtain ⟨hw, hx⟩ := endPour_other reason e u
            exact (ih _ (hx.trans hu)).trans (hw.valve y e)
      exact (hkeep l _ (endPour_gone reason y s)).trans (endPour_valve reason h hp ho)
    · obtain ⟨hw, hx⟩ := endPour_other reason e s
      exact ih (List.mem_of_ne_of_mem e hy) (hx.trans h) (hw.tapValve_owner ho)

end Sys2Proof.Proofs
end

section
/-! PROOFS. The loss of the panel node: every pour ends (R14, R156). -/

namespace Sys2Proof.Proofs

open Sys2Proof.Machine Sys2Proof.Safety Sys2Proof.Claims

/-- R31. A channel that feeds lines alone leaves LIVE: nothing comes of it but what its line does. -/
theorem leftLive_lines_work {T : Tap → Prop} {loss : Loss} {c : Chan} {s : State} (h : ∀ d, s.rte.routes[c].dest = some d → d ∈ [Dest.line 0, Dest.line 1]) :
    Work T loss s (leftLive c s) := by
  unfold leftLive
  split
  · rename_i d hd
    have hl : ∃ y, d = .line y := by
      rcases List.mem_cons.1 (h d hd) with rfl | h
      · exact ⟨0, rfl⟩
      · exact ⟨1, List.mem_singleton.1 h⟩
    obtain ⟨y, rfl⟩ := hl
    exact Work.branch (fun _ => Work.trans Work.modRte (lineEmptied_work y _)) fun _ => Work.refl s
  · exact Work.refl s

theorem leftLives_lines_work {T : Tap → Prop} {loss : Loss} {l : List Chan} {s : State}
    (h : ∀ c ∈ l, ∀ d, s.rte.routes[c].dest = some d → d ∈ [Dest.line 0, Dest.line 1]) : Work T loss s (forAll l leftLive s) := by
  induction l generalizing s with
  | nil => exact Work.refl s
  | cons c l ih =>
    have hc : Work T loss s (leftLive c s) := leftLive_lines_work (h c List.mem_cons_self)
    refine hc.trans (ih fun c' hc' d hd => h c' (List.mem_cons_of_mem _ hc') d ?_)
    rwa [hc.routes] at hd

theorem roleLost_panel (s : State) : roleLost panelNode s = endAllPours .sensor s := rfl

/-- R156. All that `endAllPours` can do with the pour of one tap. -/
theorem endAllPours_ends (reason : PourReason) {y : Tap} {p : Pour} {s : State} (h : (s.tapRec y).pour = some p) :
    (weight s.mgp.up + inHand s ≤ 14 → Recorded y p (!p.pouring && reason.refuses) reason (endAllPours reason s)) ∧
      (p.pouring = true → owner (.tapValve y) s = some .tap → (endAllPours reason s).out (.tapValve y) = 0) := by
  obtain ⟨l, x, hl, he⟩ := forAny_spec (allTaps.filter fun t => (s.tapRec t).pour.isSome) (endPour reason) s
  have hy : y ∈ l := hl.mem_iff.2 (mem_ended.2 (by rw [h]; rfl))
  unfold endAllPours
  rw [he]
  exact ⟨fun hroom => forAll_endPour_recorded reason hy (s := s.setFree x) h hroom, fun hp ho => forAll_endPour_valve reason hy (s := s.setFree x) h hp ho⟩

theorem LossBegun.out {n : Node} {s u : State} (h : LossBegun n s u) (o : Output) : u.out o = s.out o := by
  obtain ⟨⟨_, _, _, _, _, _, rfl⟩, -, -, -, -, -⟩ := h
  rfl

theorem LossBegun.tap {n : Node} {s u : State} (h : LossBegun n s u) : u.tap = s.tap := by
  obtain ⟨⟨_, _, _, _, _, _, rfl⟩, -, -, -, -, -⟩ := h
  rfl

theorem LossBegun.rte {n : Node} {s u : State} (h : LossBegun n s u) : u.rte = s.rte := by
  obtain ⟨⟨_, _, _, _, _, _, rfl⟩, -, -, -, -, -⟩ := h
  rfl

/-- The room that the queue has for the records of a loss. -/
theorem LossBegun.room {n : Node} {s u : State} (h : LossBegun n s u) (hup : s.mgp.up.length < 10) : Proofs.weight u.mgp.up + inHand u ≤ 14 := by
  have hw := h.work.weight
  have hl := weight_le s.mgp.up
  have hi := inHand_le s
  omega

/-- R14, R156. What the loss of node 9 leaves. -/
theorem panelNode_lost {s : State} (h : 2 ≤ (s.node panelNode).failures) (hs : (s.node panelNode).state ≠ .lost) {y : Tap} {q : Pour}
    (hq : (s.tapRec y).pour = some q) :
    let t := finish (exchangeFailed panelNode s)
    (t.tapRec y).pour = none ∧
      (FeedsOnly panelNode [.line 0, .line 1] s →
        (s.mgp.up.length < 10 → Recorded y q false .sensor t) ∧
        (q.pouring = true → owner (.tapValve y) s = some .tap → t.out (.tapValve y) = 0)) := by
  obtain ⟨u, before, after, hu, hlive, he⟩ := exchangeFailed_lossBegun h hs
  rw [roleLost_panel] at he
  rw [he]
  have hafter := (Ruin.forAll (l := after) leftLive_ruin (endAllPours .sensor (forAll before leftLive u))).work
  have hend : HaltWork _ _ := (endExchange_work (forAll after leftLive (endAllPours .sensor (forAll before leftLive u)))).trans (finish_work _)
  refine ⟨hend.pour_none (hafter.pour_none (endAllPours_gone .sensor _ y)), fun hf => ?_⟩
  have hroutes : ∀ c ∈ before ++ after, ∀ d, u.rte.routes[c].dest = some d → d ∈ [Dest.line 0, Dest.line 1] := fun c hc d hd => by
    rw [hu.rte] at hd
    exact hf c ((hlive c).1 hc).1 d hd
  have hb : Work (fun _ => False) ⟨False, False⟩ u (forAll before leftLive u) :=
    leftLives_lines_work fun c hc => hroutes c (List.mem_append_left _ hc)
  have hb' : HaltWork u (endAllPours .sensor (forAll before leftLive u)) :=
    (leftLives_lines_work fun c hc => hroutes c (List.mem_append_left _ hc)).trans (endAllPours_work .sensor _)
  have ha : Work (fun _ => False) ⟨False, False⟩ (endAllPours .sensor (forAll before leftLive u)) _ :=
    leftLives_lines_work (l := after) fun c hc d hd => hroutes c (List.mem_append_right _ hc) d (by rwa [hb'.routes] at hd)
  have hq' : ((forAll before leftLive u).tapRec y).pour = some q := by
    rw [pour_of_still ((hb.taps y).still id), State.tapRec, hu.tap]
    exact hq
  obtain ⟨hrec, hvalve⟩ := endAllPours_ends .sensor hq'
  refine ⟨fun hup => ?_, fun hp ho => ?_⟩
  · have hr := hrec (hb.weight.trans (hu.room hup))
    rw [Bool.and_comm] at hr
    exact recorded_kept hr (ha.sentOn.trans hend.sentOn)
  · have ho' := hb.tapValve_owner (hu.work.tapValve_owner ho)
    rw [endOfExchange_out rfl, ha.valve y id]
    exact hvalve hp ho'

end Sys2Proof.Proofs
end

section
/-! PROOFS. Work while the manifold is DOWN with nothing in progress: what it leaves of outputs, charges, purges and blink windows (R124, R139). -/

namespace Sys2Proof.Proofs

open Sys2Proof.Machine Sys2Proof.Safety Sys2Proof.Claims

/-- The manifold is DOWN with no operation in progress. -/
def Down (s : State) : Prop := s.man.state = .down ∧ s.man.op = none

/-- An output that neither a tap's pour nor the manifold's regulator moves. -/
def Output.apart : Output → Bool
  | .tapValve _ | .regulator => false
  | _ => true

/-- What work leaves while the manifold is DOWN: it takes nothing new into service, and whatever has been given up stays so. -/
structure DownWork (s t : State) : Prop where
  down : Down s → Down t
  outs : ∀ o, Output.apart o = true → t.out o = s.out o
  valve : ∀ z, (s.tapRec z).pour = none → t.out (.tapValve z) = s.out (.tapValve z)
  settle : ∀ b, (t.keg b).settle = (s.keg b).settle
  charge : ∀ b, (s.keg b).chargePending = false → (t.keg b).chargePending = false
  pour : ∀ z, (s.tapRec z).pour = none → (t.tapRec z).pour = none
  request : ∀ z, (s.tapRec z).purgeRequest = .none → (t.tapRec z).purgeRequest = .none
  status : ∀ z, (t.tapRec z).purgeStatus = (s.tapRec z).purgeStatus ∧ (t.tapRec z).purgeMinutes = (s.tapRec z).purgeMinutes
  blink : ∀ z, (s.tapRec z).blink ≠ none → (t.tapRec z).blink ≠ none

theorem DownWork.refl (s : State) : DownWork s s :=
  ⟨id, fun _ _ => rfl, fun _ _ => rfl, fun _ => rfl, fun _ => id, fun _ => id, fun _ => id, fun _ => ⟨rfl, rfl⟩, fun _ => id⟩

theorem DownWork.trans {s t u : State} (h : DownWork s t) (g : DownWork t u) : DownWork s u where
  down hs := g.down (h.down hs)
  outs o ho := (g.outs o ho).trans (h.outs o ho)
  valve z hz := (g.valve z (h.pour z hz)).trans (h.valve z hz)
  settle b := (g.settle b).trans (h.settle b)
  charge b hb := g.charge b (h.charge b hb)
  pour z hz := g.pour z (h.pour z hz)
  request z hz := g.request z (h.request z hz)
  status z := ⟨(g.status z).1.trans (h.status z).1, (g.status z).2.trans (h.status z).2⟩
  blink z hz := g.blink z (h.blink z hz)

theorem DownWork.forAll {α : Type} {l : List α} {f : α → State → State} (hf : ∀ x u, Down u → DownWork u (f x u)) {s : State} (hs : Down s) :
    DownWork s (forAll l f s) := by
  induction l generalizing s with
  | nil => exact DownWork.refl s
  | cons x l ih => exact (hf x s hs).trans (ih ((hf x s hs).down hs))

theorem DownWork.forAny {α : Type} {l : List α} {f : α → State → State} (hf : ∀ x u, Down u → DownWork u (f x u)) {s : State} (hs : Down s) :
    DownWork s (forAny l f s) := by
  obtain ⟨l', x, -, he⟩ := forAny_spec l f s
  rw [he]
  exact DownWork.trans (t := s.setFree x) { DownWork.refl s with } (DownWork.forAll hf hs)

/-! ## Rules -/

theorem DownWork.sends {s t : State} (h : SendsFrom s t) : DownWork s t := by
  obtain ⟨_, _, _, _, rfl⟩ := h
  exact { DownWork.refl s with }

/-- Work that shows on a tap's valve alone, which has a pour. -/
theorem DownWork.writeTapValve {y : Tap} (w : Owner) (v : Nat) {s : State} (h : (s.tapRec y).pour ≠ none) : DownWork s (write w (.tapValve y) v s) := by
  obtain ⟨outs, urgent, hs⟩ := write_shows w (.tapValve y) v s
  have ho : ∀ o, o ≠ .tapValve y → (write w (.tapValve y) v s).out o = s.out o := fun o => write_out_other
  rw [hs] at ho ⊢
  refine { DownWork.refl s with outs := fun o hp => ho o ?_, valve := fun z hz => ho _ ?_ }
  · rintro rfl
    cases hp
  · rintro ⟨⟩
    exact h hz

theorem DownWork.writeRegulator (v : Nat) (s : State) : DownWork s (write .man .regulator v s) := by
  obtain ⟨outs, urgent, hs⟩ := write_shows .man .regulator v s
  have ho : ∀ o, o ≠ .regulator → (write .man .regulator v s).out o = s.out o := fun o => write_out_other
  rw [hs] at ho ⊢
  refine { DownWork.refl s with outs := fun o hp => ho o ?_, valve := fun z _ => ho _ (by simp) }
  rintro rfl
  cases hp

theorem DownWork.queue (q : List GasEntry) (s : State) : DownWork s (s.modMan fun m => { m with queue := q }) := { DownWork.refl s with }

theorem DownWork.modKeg {b : Bay} {f : Keg → Keg} {s : State} (h : ∀ k, (f k).settle = k.settle ∧ (k.chargePending = false → (f k).chargePending = false)) :
    DownWork s (s.modKeg b f) := by
  refine { DownWork.refl s with settle := fun d => ?_, charge := fun d hd => ?_ }
  · rw [keg_modKeg]
    split
    · rename_i e
      subst e
      exact (h _).1
    · rfl
  · rw [keg_modKeg]
    split
    · rename_i e
      subst e
      exact (h _).2 hd
    · exact hd

/-- Work on a tap record that gives up, and begins no pour. -/
theorem DownWork.modTap {y : Tap} {f : TapRecord → TapRecord} {s : State}
    (hp : (s.tapRec y).pour = none → (f (s.tapRec y)).pour = none)
    (hr : (s.tapRec y).purgeRequest = .none → (f (s.tapRec y)).purgeRequest = .none)
    (hs : (f (s.tapRec y)).purgeStatus = (s.tapRec y).purgeStatus ∧ (f (s.tapRec y)).purgeMinutes = (s.tapRec y).purgeMinutes)
    (hb : (s.tapRec y).blink ≠ none → (f (s.tapRec y)).blink ≠ none) : DownWork s (s.modTap y f) := by
  have hz : ∀ {c : TapRecord → TapRecord → Prop}, c (s.tapRec y) (f (s.tapRec y)) → (∀ r, c r r) → ∀ z, c (s.tapRec z) ((s.modTap y f).tapRec z) :=
    fun h h' z => by
      rw [tapRec_modTap]
      split
      · rename_i e
        subst e
        exact h
      · exact h' _
  exact { DownWork.refl s with
    pour := hz (c := fun r r' => r.pour = none → r'.pour = none) hp fun _ => id
    request := hz (c := fun r r' => r.purgeRequest = .none → r'.purgeRequest = .none) hr fun _ => id
    status := hz (c := fun r r' => r'.purgeStatus = r.purgeStatus ∧ r'.purgeMinutes = r.purgeMinutes) hs fun _ => ⟨rfl, rfl⟩
    blink := hz (c := fun r r' => r.blink ≠ none → r'.blink ≠ none) hb fun _ => id
    valve := fun _ _ => rfl }

/-! ## The model's operations in DOWN -/

theorem evalPurge_down (serving : Bool) (y : Tap) {s : State} (h : Down s) : evalPurge serving y s = s := by
  unfold evalPurge purgeNeeded
  rw [if_neg]
  simp [h.1]

theorem tapIdle_down (y : Tap) {s : State} (h : Down s) : tapIdle y s = s := by
  have hs : serveQueue s = s := by
    unfold serveQueue
    rw [if_neg]
    simp [h.1]
  unfold tapIdle
  rw [hs, ite_self]
  exact evalPurge_down true y h

/-- R133. In DOWN the manifold only forgets a queued POUR. -/
theorem pourEnded_down (y : Tap) {s : State} (h : Down s) :
    pourEnded y s = s.modMan fun m => { m with queue := s.man.queue.filter fun e => match e.need with | .pour t' _ => decide (t' ≠ y) | _ => true } := by
  unfold pourEnded
  have ho : s.man.op = none := h.2
  simp only [modMan_man, ho]
  rfl

theorem chargeEnded_down (b : Bay) (s : State) : DownWork s (chargeEnded b false s) := by
  unfold chargeEnded
  split
  · exact DownWork.modKeg fun k => ⟨rfl, fun _ => rfl⟩
  · exact DownWork.refl s

theorem startBlink_down (y : Tap) (s : State) : DownWork s (startBlink y s) := by
  unfold startBlink
  split
  · exact DownWork.modTap id id ⟨rfl, rfl⟩ fun _ => by simp
  · exact DownWork.refl s

theorem pourGoneFrom_down (y : Tap) (p : Pour) (mk : Byte → PourReport) (s : State) : DownWork s (pourGoneFrom y p mk s) := by
  have hgone : ∀ r : TapRecord, r.pourGone.purgeRequest = r.purgeRequest ∧ r.pourGone.purgeStatus = r.purgeStatus ∧ r.pourGone.purgeMinutes = r.purgeMinutes ∧
      r.pourGone.blink = r.blink ∧ r.pourGone.pour = none := fun r => ⟨rfl, rfl, rfl, rfl, rfl⟩
  have hkeg : DownWork s (s.modKeg p.bay fun k => { k with pours := k.pours - 1 }) := DownWork.modKeg fun k => ⟨rfl, fun h => h⟩
  refine hkeg.trans ((DownWork.sends (handPourRecord_sends mk _)).trans (DownWork.modTap ?_ ?_ ?_ ?_))
  all_goals simp only [hgone, implies_true, imp_self, and_self]

theorem noticed_down (y : Tap) {p : Pour} {s : State} (h : Down s) (hp : (s.tapRec y).pour = some p) : DownWork s (noticed y p s) := by
  have hv : DownWork s (if p.pouring then write .tap (.tapValve y) 0 s else s) := by
    split
    · exact DownWork.writeTapValve .tap 0 (by rw [hp]; simp)
    · exact DownWork.refl s
  unfold noticed
  rw [pourEnded_down y (hv.down h)]
  exact hv.trans (DownWork.queue _ _)

theorem afterNotice_down (reason : PourReason) (y : Tap) (p : Pour) (u : State) : DownWork u (afterNotice reason y p u) := by
  unfold afterNotice
  split
  · exact (pourGoneFrom_down y p _ u).trans (startBlink_down y _)
  · exact pourGoneFrom_down y p _ u

/-- R133, R155. In DOWN the end of a pour asks for nothing. -/
theorem endPour_down_eq (reason : PourReason) {y : Tap} {p : Pour} {s : State} (h : Down s) (hp : (s.tapRec y).pour = some p) :
    endPour reason y s = afterNotice reason y p (noticed y p s) := by
  have hd : Down (pourEndCore reason y p s) := by
    rw [pourEndCore_eq]
    exact ((noticed_down y h hp).trans (afterNotice_down reason y p _)).down h
  rw [endPour_eq hp, tapIdle_down y hd, ite_self, pourEndCore_eq]

theorem endPour_down (reason : PourReason) (y : Tap) {s : State} (h : Down s) : DownWork s (endPour reason y s) := by
  cases hp : (s.tapRec y).pour with
  | none =>
    rw [endPour_none hp]
    exact DownWork.refl s
  | some p =>
    rw [endPour_down_eq reason h hp]
    exact (noticed_down y h hp).trans (afterNotice_down reason y p _)

theorem tryStart_down (y : Tap) (s : State) : DownWork s (tryStart y s) := by
  unfold tryStart
  split
  · rename_i p hp
    split
    · refine DownWork.trans (DownWork.modTap (fun hn => ?_) id ⟨rfl, rfl⟩ id) (DownWork.writeTapValve .tap 1 ?_)
      · rw [hp] at hn
        cases hn
      · rw [tapRec_modTap, if_pos rfl]
        simp
    · exact DownWork.refl s
  · exact DownWork.refl s

/-- R159. In DOWN the end of a purge evaluates no need. -/
theorem purgeEnded_down (y : Tap) {s : State} (h : Down s) : DownWork s (purgeEnded y s) := by
  have hm : DownWork s (s.modTap y fun r => { r with purgeRequest := .none, state := if r.pour.isSome then .pending else .idle }) :=
    DownWork.modTap id (fun _ => rfl) ⟨rfl, rfl⟩ id
  unfold purgeEnded
  dsimp only
  split
  · rw [evalPurge_down true y (hm.down h)]
    exact hm
  · exact hm.trans (tryStart_down y _)

theorem dropEntry_down (e : GasEntry) (s : State) : DownWork s (dropEntry e s) := by
  unfold dropEntry
  split
  · exact chargeEnded_down _ s
  · exact DownWork.modTap id (fun _ => rfl) ⟨rfl, rfl⟩ id
  all_goals exact DownWork.refl s

theorem emptyQueue_down (reason : PourReason) {s : State} (h : Down s) : DownWork s (emptyQueue reason s) := by
  have hd : DownWork s (forAll s.man.queue dropEntry (s.modMan fun m => { m with queue := [] })) :=
    (DownWork.queue [] s).trans (DownWork.forAll (fun e u _ => dropEntry_down e u) ((DownWork.queue [] s).down h))
  exact hd.trans (DownWork.forAny (fun p u hu => endPour_down reason p.tap hu) (hd.down h))

/-- R124, R139. Once the operation's own have been told, the rest of the entry to DOWN gives up alone. -/
theorem afterTold_down {s : State} (h : Down s) : DownWork s (emptyQueue .manifoldDown (write .man .regulator 0 s)) :=
  (DownWork.writeRegulator 0 s).trans (emptyQueue_down _ ((DownWork.writeRegulator 0 s).down h))

end Sys2Proof.Proofs
end

section
/-! PROOFS. The loss of the manifold node: the manifold is DOWN, its operation ended by its kind and its queue emptied by kind (R14, R124, R139). -/

namespace Sys2Proof.Proofs

open Sys2Proof.Machine Sys2Proof.Safety Sys2Proof.Claims

theorem roleLost_manifold (s : State) : roleLost manifoldNode s = enterDown (s.modMan fun m => { m with nodeOnline := false }) := rfl

theorem LossBegun.man {n : Node} {s u : State} (h : LossBegun n s u) : u.man = s.man := by
  obtain ⟨⟨_, _, _, _, _, _, rfl⟩, -, -, -, -, -⟩ := h
  rfl

/-! ## Whatever the channels of the node feed -/

/-- R124. The manifold's own notice, from any state, leaves it as DOWN leaves it. -/
theorem manifoldLost_man (v : State) :
    LossWork (v.modMan fun m => { m with nodeOnline := false }) (roleLost manifoldNode v) ∧
      (roleLost manifoldNode v).man.nodeOnline = false ∧ (roleLost manifoldNode v).man.leak = v.man.leak := by
  have hw : LossWork (v.modMan fun m => { m with nodeOnline := false }) (roleLost manifoldNode v) := enterDown_work _
  exact ⟨hw, hw.man.online, hw.man.latches.1⟩

theorem manifoldLost_drained {u v : State} (hu : u.man.state ≠ .down) (h : Ruin u v) :
    (roleLost manifoldNode v).man.state = .down ∧ Drained (roleLost manifoldNode v) := by
  rw [roleLost_manifold]
  by_cases hv : v.man.state = .down
  · rw [enterDown_down (by exact hv)]
    exact ⟨hv, h.drained hu hv⟩
  · exact enterDown_drained hv

/-- R14, R124, R139. What the loss of node 8 leaves of the manifold. -/
theorem manifoldNode_lost {s : State} (h : 2 ≤ (s.node manifoldNode).failures) (hs : (s.node manifoldNode).state ≠ .lost) :
    let t := finish (exchangeFailed manifoldNode s)
    t.man.nodeOnline = false ∧ t.man.leak = s.man.leak ∧ (s.man.state = .down → s.man.op = none → t.man.state = .down) ∧
      (s.man.state ≠ .down → t.man.state = .down ∧ t.man.op = none ∧ t.man.queue = [] ∧ (s.mgp.part = .running → t.out .regulator = 0)) := by
  obtain ⟨u, before, after, hu, -, he⟩ := exchangeFailed_lossBegun h hs
  rw [he]
  have hbefore := Ruin.forAll (l := before) leftLive_ruin u
  obtain ⟨hwork, hon, hleak⟩ := manifoldLost_man (forAll before leftLive u)
  have hafter : LossWork _ _ := ((Ruin.forAll (l := after) leftLive_ruin (roleLost manifoldNode (forAll before leftLive u))).work.trans
    (endExchange_work _)).trans (finish_work _)
  refine ⟨hafter.man.online.trans hon, ?_, fun hd ho => ?_, fun hd => ?_⟩
  · rw [hafter.man.latches.1, hleak, hbefore.work.man.latches.1, hu.man]
  · rw [← hu.man] at hd ho
    obtain ⟨hd, ho, -⟩ := hbefore.work.man.down hd ho
    obtain ⟨hd, ho, -⟩ := hwork.man.down hd ho
    exact (hafter.man.down hd ho).1
  · rw [← hu.man] at hd
    obtain ⟨hdown, hdrained⟩ := manifoldLost_drained hd hbefore
    obtain ⟨ho, hq, hr⟩ := hdrained.kept hdown hafter
    exact ⟨(hafter.man.down hdown hdrained.1).1, ho, hq, fun hp => hr (hafter.part.trans (hwork.part.trans ((hu.work.trans hbefore.work).part.trans hp)))⟩

/-! ## A node whose channels feed the manifold alone -/

/-- The states differ by the slots, and by the manifold's own word on its node. -/
def SlotsFrom (s t : State) : Prop := ∃ slots online, t = { s with rte := { s.rte with slots := slots }, man := { s.man with nodeOnline := online } }

theorem SlotsFrom.refl (s : State) : SlotsFrom s s := ⟨s.rte.slots, s.man.nodeOnline, rfl⟩

theorem SlotsFrom.trans {s t u : State} (h : SlotsFrom s t) (g : SlotsFrom t u) : SlotsFrom s u := by
  obtain ⟨_, _, rfl⟩ := h
  obtain ⟨x, y, rfl⟩ := g
  exact ⟨x, y, rfl⟩

theorem SlotsFrom.state {s t : State} (h : SlotsFrom s t) : t.man.state = s.man.state := by
  obtain ⟨_, _, rfl⟩ := h
  rfl

/-- The manifold has entered DOWN once on the way, all but the slots being as it stood. -/
def EnteredOnce (s t : State) : Prop := ∃ w, SlotsFrom s w ∧ SlotsFrom (enterDown w) t

theorem EnteredOnce.down {s t : State} (hs : s.man.state ≠ .down) (h : EnteredOnce s t) : t.man.state = .down := by
  obtain ⟨w, hw, ht⟩ := h
  rw [ht.state]
  exact (enterDown_drained (by rwa [hw.state])).1

/-- One more entry to DOWN, from a state that the slots alone tell from `t`. -/
theorem EnteredOnce.next {s t w : State} (hs : s.man.state ≠ .down) (h : SlotsFrom s t ∨ EnteredOnce s t) (hw : SlotsFrom t w) : EnteredOnce s (enterDown w) := by
  rcases h with h | h
  · exact ⟨w, h.trans hw, SlotsFrom.refl _⟩
  · have hd : w.man.state = .down := hw.state.trans (h.down hs)
    obtain ⟨v, hv, ht⟩ := h
    rw [enterDown_down hd]
    exact ⟨v, hv, ht.trans hw⟩

theorem leftLive_gas {c : Chan} {s : State} (h : ∀ d, s.rte.routes[c].dest = some d → d ∈ [Dest.manifold, Dest.cylinder]) :
    leftLive c s = s ∨ ∃ w, SlotsFrom s w ∧ leftLive c s = enterDown w := by
  unfold leftLive
  split
  · rename_i d hd
    unfold emptySlot
    split
    · right
      refine ⟨setSlot d none s, ⟨_, s.man.nodeOnline, rfl⟩, ?_⟩
      rcases List.mem_cons.1 (h d hd) with rfl | h
      · rfl
      · rw [List.mem_singleton.1 h]
        rfl
    · exact .inl rfl
  · exact .inl rfl

theorem leftLives_gas {l : List Chan} {s t : State} (hs : s.man.state ≠ .down) (ht : SlotsFrom s t ∨ EnteredOnce s t)
    (h : ∀ c ∈ l, ∀ d, t.rte.routes[c].dest = some d → d ∈ [Dest.manifold, Dest.cylinder]) :
    SlotsFrom s (forAll l leftLive t) ∨ EnteredOnce s (forAll l leftLive t) := by
  induction l generalizing t with
  | nil => exact ht
  | cons c l ih =>
    have hroutes : (leftLive c t).rte.routes = t.rte.routes := (leftLive_ruin c t).work.routes
    have hc : SlotsFrom s (leftLive c t) ∨ EnteredOnce s (leftLive c t) := by
      rcases leftLive_gas (h c List.mem_cons_self) with he | ⟨w, hw, he⟩
      · rwa [he]
      · rw [he]
        exact .inr (EnteredOnce.next hs ht hw)
    exact ih hc fun c' hc' d hd => h c' (List.mem_cons_of_mem _ hc') d (by rwa [hroutes] at hd)

/-- R29, R139. With the channels of node 8 feeding the manifold alone, its loss is one entry to DOWN. -/
theorem manifoldNode_lost_once {s : State} (h : 2 ≤ (s.node manifoldNode).failures) (hs : (s.node manifoldNode).state ≠ .lost)
    (hd : s.man.state ≠ .down) (hf : FeedsOnly manifoldNode [.manifold, .cylinder] s) :
    ∃ u v, LossBegun manifoldNode s u ∧ EnteredOnce u v ∧ exchangeFailed manifoldNode s = endExchange v := by
  obtain ⟨u, before, after, hu, hlive, he⟩ := exchangeFailed_lossBegun h hs
  rw [← hu.man] at hd
  have hroutes : ∀ c ∈ before ++ after, ∀ d, u.rte.routes[c].dest = some d → d ∈ [Dest.manifold, Dest.cylinder] := fun c hc d hd => by
    rw [hu.rte] at hd
    exact hf c ((hlive c).1 hc).1 d hd
  have hb := leftLives_gas hd (.inl (SlotsFrom.refl u)) fun c hc => hroutes c (List.mem_append_left _ hc)
  have hm : EnteredOnce u (roleLost manifoldNode (forAll before leftLive u)) := EnteredOnce.next hd hb ⟨_, false, rfl⟩
  have hmroutes : (roleLost manifoldNode (forAll before leftLive u)).rte.routes = u.rte.routes :=
    (manifoldLost_man (forAll before leftLive u)).1.routes.trans (Ruin.forAll leftLive_ruin u).work.routes
  have ha := leftLives_gas hd (.inr hm) fun c hc d hd => hroutes c (List.mem_append_right _ hc) d (by rwa [hmroutes] at hd)
  refine ⟨u, _, hu, ha.resolve_left fun hslots => hd ?_, he⟩
  rw [← hslots.state]
  exact ((Ruin.forAll (l := after) leftLive_ruin _).work.man.down (hm.down hd) (manifoldLost_drained hd (Ruin.forAll leftLive_ruin u)).2.1).1

end Sys2Proof.Proofs
end

section
/-! PROOFS. What entry to DOWN ends, by kind: the operation in progress, and the entries of the queue (R127, R134, R137, R139). -/

namespace Sys2Proof.Proofs

open Sys2Proof.Machine Sys2Proof.Safety Sys2Proof.Claims

/-! ## The valves that close (R129 to R139) -/

theorem ShowsFrom.modMan {s t : State} (h : ShowsFrom s t) (f : Man → Man) : ShowsFrom (s.modMan f) (t.modMan f) := by
  obtain ⟨outs, urgent, rfl⟩ := h
  exact ⟨outs, urgent, rfl⟩

theorem writes_shows {α : Type} (l : List α) (w : Owner) (o : α → Output) (v : Nat) (s : State) : ShowsFrom s (forAll l (fun x => write w (o x) v) s) := by
  induction l generalizing s with
  | nil => exact ShowsFrom.refl s
  | cons x l ih => exact (write_shows w (o x) v s).trans (ih _)

theorem closeOp_shows (s : State) : ShowsFrom s (closeOp s) := by
  unfold closeOp
  split
  · split
    · split
      · exact write_shows _ _ _ _
      · exact writes_shows _ _ _ _ _
      · exact (write_shows _ _ _ _).trans (write_shows _ _ _ _)
      · exact write_shows _ _ _ _
    · exact ShowsFrom.refl s
  · exact ShowsFrom.refl s

theorem returnOp_shows (s : State) : ShowsFrom (clearOp s) (returnOp s) := passing_shows _ _ _

/-- R139. The operation's own work on the outputs apart, it is absent and the manifold DOWN. -/
theorem closedDown_shows (s : State) : ShowsFrom (s.modMan fun m => { m with op := none, state := .down }) (closedDown s) :=
  ((closeOp_shows s).modMan fun m => { m with op := none, state := .down }).trans ((returnOp_shows (closeOp s)).modMan fun m => { m with state := .down })

/-- R134. The tap valves that the manifold held for a PURGE return OFF. -/
theorem closedDown_out (o : Output) (s : State) :
    (closedDown s).out o = (closeOp s).out o ∨ (o = .tapValve 0 ∨ o = .tapValve 1) ∧ (closedDown s).out o = 0 := by
  have h := passing_out (l := [.tapValve 0, .tapValve 1]) (by decide) (closeOp s) (clearOp (closeOp s)) o
  have hc : (closedDown s).out o = _ := h
  rw [hc]
  split
  · rename_i hm
    exact .inr ⟨by simpa using hm.1, rfl⟩
  · exact .inl rfl

theorem closedDown_out_zero {o : Output} {s : State} (h : (closeOp s).out o = 0) : (closedDown s).out o = 0 := by
  rcases closedDown_out o s with hc | ⟨-, hc⟩
  · exact hc.trans h
  · exact hc

/-- What the manifold writes in RUNNING shows. -/
theorem write_man_out {o : Output} {v : Nat} {s : State} (h : owner o s = some .man) : (write .man o v s).out o = v := by
  rw [write_owned h, commandOut_out, if_pos rfl]

theorem write_out_zero {o p : Output} {s : State} {w : Owner} (h : s.out p = 0) : (write w o 0 s).out p = 0 := by
  by_cases e : p = o
  · subst e
    unfold write
    split
    · rw [commandOut_out, if_pos rfl]
    · exact h
  · rw [write_out_other e, h]

/-- R130, R131. The gas-in valve of each pour of the set is OFF. -/
theorem writes_gasIn {l : List SetPour} {p : SetPour} (hp : p ∈ l) {s : State} (hr : s.mgp.part = .running) :
    (forAll l (fun p => write .man (.gasIn p.bay) 0) s).out (.gasIn p.bay) = 0 := by
  have hkeep : ∀ (l : List SetPour) (u : State), u.out (.gasIn p.bay) = 0 → (forAll l (fun p => write .man (.gasIn p.bay) 0) u).out (.gasIn p.bay) = 0 := fun l => by
    induction l with
    | nil => exact fun u hu => hu
    | cons x l ih => exact fun u hu => ih _ (write_out_zero hu)
  induction l generalizing s with
  | nil => cases hp
  | cons x l ih =>
    have hx : ShowsFrom s (write .man (.gasIn x.bay) 0 s) := write_shows _ _ _ _
    rcases List.mem_cons.1 hp with rfl | hp
    · exact hkeep l _ (write_man_out (if_pos hr))
    · exact ih hp (s := write .man (.gasIn x.bay) 0 s) (by rw [hx.mgp]; exact hr)

section
variable {s : State} {op : Operation} (hop : s.man.op = some op) (ha : op.sub = .active) (hr : s.mgp.part = .running)
include hop ha hr

theorem closeOp_charge {b : Bay} (hn : op.need = .charge b) : (closeOp s).out (.gasIn b) = 0 := by
  unfold closeOp
  simp only [hop, ha, hn, if_true]
  exact write_man_out (if_pos hr)

theorem closeOp_pours (hn : op.need.isPour = true) {p : SetPour} (hp : p ∈ op.pours) : (closeOp s).out (.gasIn p.bay) = 0 := by
  unfold closeOp
  cases hk : op.need with
  | pour y b =>
    simp only [hop, ha, hk, if_true]
    exact writes_gasIn hp hr
  | charge b | purge x d | check => rw [hk] at hn; cases hn

theorem closeOp_purge {x : Tap} {d : Nat} (hn : op.need = .purge x d) : (closeOp s).out (.purge x) = 0 ∧ (closeOp s).out (.tapValve x) = 0 := by
  have hs : ShowsFrom s (write .man (.purge x) 0 s) := write_shows _ _ _ _
  have ho : owner (.tapValve x) (write .man (.purge x) 0 s) = some .man := by
    rw [hs.owner, owner]
    simp only [State.running, hr, if_true, (purgeActive_iff x s).2 ⟨op, d, hop, hn, ha⟩]
  unfold closeOp
  simp only [hop, ha, hn, if_true]
  exact ⟨by rw [write_out_other (by simp)]; exact write_man_out (if_pos hr), write_man_out ho⟩

theorem closeOp_check (hn : op.need = .check) : (closeOp s).out .supply = 1 := by
  unfold closeOp
  simp only [hop, ha, hn, if_true]
  exact write_man_out (if_pos hr)

end

/-! ## The state before anyone is told -/

theorem closedDown_down (s : State) : Down (closedDown s) := by
  rw [Down, closedDown_man]
  exact ⟨rfl, rfl⟩

/-- R139. The closing of the valves changes no keg, no tap and no queue. -/
theorem closedDown_fields (s : State) :
    (closedDown s).kegs = s.kegs ∧ (closedDown s).tap = s.tap ∧ (closedDown s).mgp = s.mgp ∧ (∀ b, inCarb b (closedDown s) = inCarb b s) ∧
      (closedDown s).man.queue = s.man.queue := by
  obtain ⟨outs, urgent, h⟩ := closedDown_shows s
  rw [h]
  exact ⟨rfl, rfl, rfl, fun _ => rfl, rfl⟩

theorem closedDown_keg (b : Bay) (s : State) : (closedDown s).keg b = s.keg b := by
  obtain ⟨h, -⟩ := closedDown_fields s
  rw [State.keg, h]

theorem closedDown_tapRec (y : Tap) (s : State) : (closedDown s).tapRec y = s.tapRec y := by
  obtain ⟨-, h, -⟩ := closedDown_fields s
  rw [State.tapRec, h]

/-- The room of the upward queue for the records of pours that end. -/
def Room (s : State) : Prop := weight s.mgp.up + inHand s ≤ 14

theorem closedDown_room {s : State} (h : Room s) : Room (closedDown s) := by
  obtain ⟨-, -, hm, -⟩ := closedDown_fields s
  rw [Room, hm, inHand_congr fun y => congrArg _ (congrArg _ (closedDown_tapRec y s))]
  exact h

theorem Work.room {T : Tap → Prop} {loss : Loss} {s t : State} (h : Work T loss s t) (hs : Room s) : Room t := h.weight.trans hs

theorem toldDown_down (s : State) : Down (toldDown s) := by
  obtain ⟨hs, ho, -⟩ := (toldDown_work s).man.down (closedDown_down s).1 (closedDown_down s).2
  exact ⟨hs, ho⟩

theorem toldDown_some {s : State} {op : Operation} (h : s.man.op = some op) : toldDown s = tellEnded .sensor op (closedDown s) := by
  unfold toldDown
  rw [h]

/-- R124, R139. What follows once the operation's own have been told. -/
theorem enterDown_afterTold {s : State} (h : s.man.state ≠ .down) : DownWork (toldDown s) (enterDown s) := by
  rw [enterDown_eq h]
  exact afterTold_down (toldDown_down s)

/-- R134. The tap's purge has ended, and in DOWN none is asked for. -/
theorem purgeEnded_request (y : Tap) {s : State} (h : Down s) : ((purgeEnded y s).tapRec y).purgeRequest = .none := by
  have hr : ((s.modTap y fun r => { r with purgeRequest := .none, state := if r.pour.isSome then .pending else .idle }).tapRec y).purgeRequest = .none := by
    rw [tapRec_modTap, if_pos rfl]
  unfold purgeEnded
  dsimp only
  split
  · rw [evalPurge_down true y (by exact h)]
    exact hr
  · exact (tryStart_down y _).request y hr

/-! ## The operation in progress -/

section
variable {s : State} {op : Operation} (hd : s.man.state ≠ .down) (hop : s.man.op = some op)
include hd hop

/-- R127, R139. A CHARGE. -/
theorem enterDown_charge {b : Bay} (hn : op.need = .charge b) :
    (inCarb b s = true → ((enterDown s).keg b).chargePending = false ∧
      ((enterDown s).keg b).settle = if op.sub = .active then some 0 else (s.keg b).settle) ∧
    (s.mgp.part = .running → op.sub = .active → (enterDown s).out (.gasIn b) = 0) := by
  have ht : toldDown s = chargeEnded b (decide (op.sub = .active)) (closedDown s) := by
    rw [toldDown_some hop, tellEnded, hn]
  have hw := enterDown_afterTold hd
  obtain ⟨-, -, -, hcarb, -⟩ := closedDown_fields s
  constructor
  · intro hc
    have hk : (toldDown s).keg b =
        { s.keg b with chargePending := false, settle := if op.sub = .active then some 0 else (s.keg b).settle } := by
      rw [ht, chargeEnded, hcarb, if_pos hc, keg_modKeg, if_pos rfl, closedDown_keg]
      simp only [decide_eq_true_eq]
    exact ⟨hw.charge b (by rw [hk]), (hw.settle b).trans (by rw [hk])⟩
  · intro hr ha
    have ho : (toldDown s).out (.gasIn b) = (closedDown s).out (.gasIn b) := by
      rw [ht, chargeEnded]
      split <;> rfl
    rw [hw.outs _ rfl, ho]
    exact closedDown_out_zero (closeOp_charge hop ha hr hn)

omit hd in
theorem tellEnded_pours (hn : op.need.isPour = true) :
    ∃ l x, l.Perm (op.pours.map (·.tap)) ∧ toldDown s = forAll l (endPour .sensor) ((closedDown s).setFree x) := by
  obtain ⟨l, x, hl, he⟩ := forAny_spec op.pours (fun p => endPour .sensor p.tap) (closedDown s)
  refine ⟨l.map (·.tap), x, hl.map _, ?_⟩
  have hm : ∀ u : State, forAll l (fun p => endPour .sensor p.tap) u = forAll (l.map (·.tap)) (endPour .sensor) u := fun u => by
    unfold forAll
    rw [List.foldl_map]
  rw [toldDown_some hop, tellEnded, ← hm, ← he]
  cases hk : op.need with
  | pour y b => rfl
  | charge b | purge x d | check => rw [hk] at hn; cases hn

/-- R129, R130, R139. A POUR. -/
theorem enterDown_pours (hn : op.need.isPour = true) {p : SetPour} (hp : p ∈ op.pours) :
    (s.mgp.part = .running → op.sub = .active → (enterDown s).out (.gasIn p.bay) = 0) ∧
    ∀ q, (s.tapRec p.tap).pour = some q → ((enterDown s).tapRec p.tap).pour = none ∧ (Room s → Recorded p.tap q false .sensor (enterDown s)) := by
  obtain ⟨l, x, hl, ht⟩ := tellEnded_pours hop hn
  have hw := enterDown_afterTold hd
  have hfree : Down ((closedDown s).setFree x) := closedDown_down s
  constructor
  · intro hr ha
    have hto : DownWork ((closedDown s).setFree x) (toldDown s) := by
      rw [ht]
      exact DownWork.forAll (fun y u hu => endPour_down .sensor y hu) hfree
    rw [hw.outs _ rfl, hto.outs _ rfl]
    exact closedDown_out_zero (closeOp_pours hop ha hr hn hp)
  · intro q hq
    have hmem : p.tap ∈ l := hl.mem_iff.2 (List.mem_map_of_mem hp)
    have hq' : (((closedDown s).setFree x).tapRec p.tap).pour = some q := by
      rw [← hq]
      exact congrArg _ (closedDown_tapRec p.tap s)
    have hgone : ((toldDown s).tapRec p.tap).pour = none := by
      rw [ht]
      exact forAll_endPour_gone hmem _
    refine ⟨hw.pour _ hgone, fun hroom => ?_⟩
    have hrec := forAll_endPour_recorded .sensor hmem hq' (closedDown_room hroom)
    rw [← ht, Bool.and_comm] at hrec
    refine recorded_kept hrec ?_
    rw [enterDown_eq hd]
    exact ((Work.writeRegulator (T := fun _ => True) (loss := ⟨True, True⟩) 0 _ (.inl rfl)).trans (emptyQueue_work _ _)).sentOn

/-- R134, R139. A PURGE. -/
theorem enterDown_purge {x : Tap} {d : Nat} (hn : op.need = .purge x d) :
    ((enterDown s).tapRec x).purgeRequest = .none ∧ ((enterDown s).tapRec x).purgeStatus = (s.tapRec x).purgeStatus ∧
      ((enterDown s).tapRec x).purgeMinutes = (s.tapRec x).purgeMinutes ∧
      (s.mgp.part = .running → op.sub = .active → (enterDown s).out (.purge x) = 0 ∧ ((s.tapRec x).pour = none → (enterDown s).out (.tapValve x) = 0)) := by
  have ht : toldDown s = purgeEnded x (closedDown s) := by
    rw [toldDown_some hop, tellEnded, hn]
  have hw := enterDown_afterTold hd
  have hto : DownWork (closedDown s) (toldDown s) := by
    rw [ht]
    exact purgeEnded_down x (closedDown_down s)
  have hall := hto.trans hw
  obtain ⟨hstatus, hminutes⟩ := hall.status x
  rw [closedDown_tapRec] at hstatus hminutes
  have hreq : ((toldDown s).tapRec x).purgeRequest = .none := by
    rw [ht]
    exact purgeEnded_request x (closedDown_down s)
  refine ⟨hw.request x hreq, hstatus, hminutes, fun hr ha => ?_⟩
  obtain ⟨hpurge, hvalve⟩ := closeOp_purge hop ha hr hn
  refine ⟨(hall.outs _ rfl).trans (closedDown_out_zero hpurge), fun hp => ?_⟩
  exact (hall.valve x (by rw [closedDown_tapRec]; exact hp)).trans (closedDown_out_zero hvalve)

/-- R139. A CHECK: the supply opens again. -/
theorem enterDown_check (hn : op.need = .check) (hr : s.mgp.part = .running) (ha : op.sub = .active) : (enterDown s).out .supply = 1 := by
  have ht : toldDown s = closedDown s := by
    rw [toldDown_some hop, tellEnded, hn]
  have hw := enterDown_afterTold hd
  rw [ht] at hw
  rw [hw.outs _ rfl]
  rcases closedDown_out .supply s with h | ⟨h, -⟩
  · exact h.trans (closeOp_check hop ha hr hn)
  · rcases h with h | h <;> cases h

end

/-! ## What stays queued until the queue is emptied -/

/-- A gas entry that is no POUR of a tap. -/
def NotPourOf (y : Tap) (e : GasEntry) : Prop := ∀ b, e.need ≠ .pour y b

/-- R133. In DOWN the end of a pour takes nothing from the queue but the tap's own POUR. -/
theorem endPour_down_queue (reason : PourReason) {y : Tap} {s : State} (h : Down s) {e : GasEntry} (he : e ∈ s.man.queue) (hy : NotPourOf y e) :
    e ∈ (endPour reason y s).man.queue := by
  cases hp : (s.tapRec y).pour with
  | none => rwa [endPour_none hp]
  | some p =>
    have hv : ∀ u : State, Down u → e ∈ u.man.queue → e ∈ (pourEnded y u).man.queue := fun u hu hm => by
      rw [pourEnded_down y hu]
      refine List.mem_filter.2 ⟨hm, ?_⟩
      split
      · rename_i z b hn
        exact decide_eq_true fun hz => hy b (by rw [hn, hz])
      · rfl
    have hg : ∀ mk u, (pourGoneFrom y p mk u).man = u.man := fun mk u => by
      unfold pourGoneFrom
      obtain ⟨_, _, _, _, hs⟩ := handPourRecord_sends mk (u.modKeg p.bay fun k => { k with pours := k.pours - 1 })
      rw [hs]
      rfl
    have hb : ∀ u, (startBlink y u).man = u.man := fun u => by
      unfold startBlink
      split <;> rfl
    have ha : (afterNotice reason y p (noticed y p s)).man = (noticed y p s).man := by
      unfold afterNotice
      split
      · rw [hb, hg]
      · exact hg _ _
    rw [endPour_down_eq reason h hp, ha]
    unfold noticed
    have hm : (if p.pouring then write .tap (.tapValve y) 0 s else s).man = s.man := by
      split
      · exact write_man _ _ _ _
      · rfl
    exact hv _ (by rw [Down, hm]; exact h) (by rwa [hm])

theorem forAll_endPour_down_queue (reason : PourReason) {l : List Tap} {s : State} (h : Down s) {e : GasEntry} (he : e ∈ s.man.queue)
    (hl : ∀ y ∈ l, NotPourOf y e) : e ∈ (forAll l (endPour reason) s).man.queue := by
  induction l generalizing s with
  | nil => exact he
  | cons y l ih =>
    exact ih ((endPour_down reason y h).down h) (endPour_down_queue reason h he (hl y List.mem_cons_self)) fun z hz => hl z (List.mem_cons_of_mem _ hz)

theorem tryStart_man (y : Tap) (s : State) : (tryStart y s).man = s.man := by
  unfold tryStart
  split
  · split
    · exact write_man _ _ _ _
    · rfl
  · rfl

theorem purgeEnded_down_man (y : Tap) {s : State} (h : Down s) : (purgeEnded y s).man = s.man := by
  unfold purgeEnded
  dsimp only
  split
  · rw [evalPurge_down true y (by exact h)]
    rfl
  · exact tryStart_man _ _

/-- R139. The entries that no pour of the operation stands for are there when the queue is emptied. -/
theorem toldDown_queue {s : State} {e : GasEntry} (he : e ∈ s.man.queue)
    (hp : ∀ op, s.man.op = some op → ∀ p ∈ op.pours, NotPourOf p.tap e) : e ∈ (toldDown s).man.queue := by
  obtain ⟨-, -, -, -, hq⟩ := closedDown_fields s
  rw [← hq] at he
  cases hop : s.man.op with
  | none =>
    unfold toldDown
    rwa [hop]
  | some op =>
    by_cases hn : op.need.isPour = true
    · obtain ⟨l, x, hl, ht⟩ := tellEnded_pours hop hn
      rw [ht]
      refine forAll_endPour_down_queue .sensor (s := (closedDown s).setFree x) (closedDown_down s) he fun y hy => ?_
      obtain ⟨p, hpm, rfl⟩ := List.mem_map.1 (hl.mem_iff.1 hy)
      exact hp op hop p hpm
    · rw [toldDown_some hop, tellEnded]
      cases hk : op.need with
      | charge b => rwa [chargeEnded_man]
      | purge x d => rwa [purgeEnded_down_man x (closedDown_down s)]
      | check => exact he
      | pour y b => rw [hk] at hn; cases hn rfl

/-! ## The entries of the queue -/

/-- R139. The queue has been emptied of all but what its POUR entries stand for. -/
def dropped (u : State) : State := forAll u.man.queue dropEntry (u.modMan fun m => { m with queue := [] })

theorem emptyQueue_eq (reason : PourReason) (u : State) :
    emptyQueue reason u = forAny (u.man.queue.filterMap entryPour) (fun p => endPour reason p.tap) (dropped u) := rfl

theorem dropped_down {u : State} (h : Down u) : DownWork u (dropped u) :=
  (DownWork.queue [] u).trans (DownWork.forAll (fun e v _ => dropEntry_down e v) ((DownWork.queue [] u).down h))

/-- What each entry's leaving brings about, and the others' leave, stands once all have left. -/
theorem dropEntries_reach {good : State → Prop} {e : GasEntry} {l : List GasEntry} (he : e ∈ l) {s u : State} (hu : Touches [.kegs, .taps] s u)
    (h : ∀ v, Touches [.kegs, .taps] s v → good (dropEntry e v)) (hk : ∀ v w, good v → DownWork v w → good w) (hd : Down u) : good (forAll l dropEntry u) := by
  have ht : ∀ x v, Touches [.kegs, .taps] v (dropEntry x v) := fun x v =>
    dropEntry_touches (Touches.refl _ v) (by decide) (by decide)
  induction l generalizing u with
  | nil => cases he
  | cons x l ih =>
    have hdx := (dropEntry_down x u).down hd
    rcases List.mem_cons.1 he with rfl | he
    · exact hk _ _ (h u hu) (DownWork.forAll (fun x v _ => dropEntry_down x v) hdx)
    · exact ih he (hu.trans (ht x u)) hdx

theorem inCarb_of_same {b : Bay} {s t : State} (hc : Same .chains s t) (hs : Same .sch s t) : inCarb b t = inCarb b s := by
  have hc := chain_of_same hc b
  have hs : t.sch = s.sch := hs
  unfold inCarb currentStep
  rw [hc, hs]

theorem toldDown_inCarb (b : Bay) (s : State) : inCarb b (toldDown s) = inCarb b s := by
  obtain ⟨-, -, -, hcarb, -⟩ := closedDown_fields s
  rw [← hcarb]
  unfold toldDown
  split
  · have ht : Touches [.image, .man, .kegs, .taps, .up, .atn, .free] (closedDown s) (tellEnded .sensor ‹_› (closedDown s)) :=
      tellEnded_touches (Touches.refl _ _) (by decide) (by decide) (by decide) (by decide) (by decide) (by decide) (by decide)
    exact inCarb_of_same (ht .chains (by decide)) (ht .sch (by decide))
  · rfl

/-- R139. The state whose queue is emptied, the regulator at 0. -/
def settledDown (s : State) : State := write .man .regulator 0 (toldDown s)

theorem settledDown_shows (s : State) : ShowsFrom (toldDown s) (settledDown s) := write_shows _ _ _ _

theorem settledDown_down (s : State) : Down (settledDown s) := (DownWork.writeRegulator 0 _).down (toldDown_down s)

theorem enterDown_dropped {s : State} (h : s.man.state ≠ .down) : DownWork (dropped (settledDown s)) (enterDown s) := by
  rw [enterDown_eq h, emptyQueue_eq]
  exact DownWork.forAny (fun p u hu => endPour_down .manifoldDown p.tap hu) ((dropped_down (settledDown_down s)).down (settledDown_down s))

theorem settledDown_queue {s : State} {e : GasEntry} (he : e ∈ s.man.queue) (hp : ∀ op, s.man.op = some op → ∀ p ∈ op.pours, NotPourOf p.tap e) :
    e ∈ (settledDown s).man.queue := by
  rw [settledDown, write_man]
  exact toldDown_queue he hp

section
variable {s : State} {e : GasEntry} (hd : s.man.state ≠ .down) (he : e ∈ s.man.queue)
include hd he

/-- R127, R139. A queued CHARGE. -/
theorem enterDown_dropsCharge {b : Bay} (hn : e.need = .charge b) (hc : inCarb b s = true) : ((enterDown s).keg b).chargePending = false := by
  have hq : e ∈ (settledDown s).man.queue := settledDown_queue he fun _ _ _ _ c h => by rw [hn] at h; cases h
  have hcarb : inCarb b (settledDown s) = true := by
    obtain ⟨_, _, h⟩ := settledDown_shows s
    rw [h, ← hc]
    exact toldDown_inCarb b s
  refine (enterDown_dropped hd).charge b (dropEntries_reach (good := fun v => (v.keg b).chargePending = false) hq (Touches.refl _ _) (fun v hv => ?_)
    (fun v w hv hw => hw.charge b hv) ((DownWork.queue [] _).down (settledDown_down s)))
  have hcv : inCarb b v = true := (inCarb_of_same (hv .chains (by decide)) (hv .sch (by decide))).trans hcarb
  rw [dropEntry, hn]
  simp only [chargeEnded, hcv, if_true, keg_modKeg]

/-- R137, R139. A queued PURGE. -/
theorem enterDown_dropsPurge {x : Tap} {d : Nat} (hn : e.need = .purge x d) : ((enterDown s).tapRec x).purgeRequest = .none := by
  have hq : e ∈ (settledDown s).man.queue := settledDown_queue he fun _ _ _ _ c h => by rw [hn] at h; cases h
  refine (enterDown_dropped hd).request x (dropEntries_reach (good := fun v => (v.tapRec x).purgeRequest = .none) hq (Touches.refl _ _) (fun v _ => ?_)
    (fun v w hv hw => hw.request x hv) ((DownWork.queue [] _).down (settledDown_down s)))
  rw [dropEntry, hn]
  simp only [purgeRemoved, tapRec_modTap, if_true]

end

/-! ## A queued POUR (R139) -/

theorem forAll_endPour_other (reason : PourReason) {y : Tap} {l : List Tap} (h : ∀ z ∈ l, z ≠ y) (s : State) :
    ((forAll l (endPour reason) s).tapRec y).pour = (s.tapRec y).pour := by
  induction l generalizing s with
  | nil => rfl
  | cons z l ih =>
    have hz : y ≠ z := fun e => h z List.mem_cons_self e.symm
    exact (ih (fun x hx => h x (List.mem_cons_of_mem _ hx)) _).trans (endPour_other reason hz s).2

/-- R152. A pour that is not granted does not start. -/
theorem tryStart_pour {y z : Tap} {q : Pour} {s : State} (h : (s.tapRec z).pour = some q) (hg : q.granted = false) : ((tryStart y s).tapRec z).pour = some q := by
  unfold tryStart
  split
  · rename_i p hp
    split
    · rename_i hs
      have hne : z ≠ y := by
        rintro rfl
        rw [hp] at h
        cases h
        simp [hg] at hs
      obtain ⟨_, _, hw⟩ := write_shows .tap (.tapValve y) 1 (s.modTap y fun r => { r with state := .pouring, pour := some (p.started r.lastFlow) })
      rw [hw]
      show ((s.modTap y _).tapRec z).pour = _
      rw [tapRec_modTap, if_neg hne]
      exact h
    · exact h
  · exact h

theorem purgeEnded_down_pour {y z : Tap} {q : Pour} {s : State} (hd : Down s) (h : (s.tapRec z).pour = some q) (hg : q.granted = false) :
    ((purgeEnded y s).tapRec z).pour = some q := by
  have hm : ((s.modTap y fun r => { r with purgeRequest := .none, state := if r.pour.isSome then .pending else .idle }).tapRec z).pour = some q := by
    rw [tapRec_modTap]
    split
    · rename_i e
      subst e
      exact h
    · exact h
  unfold purgeEnded
  dsimp only
  split
  · rw [evalPurge_down true y (by exact hd)]
    exact hm
  · exact tryStart_pour hm hg

/-- R139. The pour of a tap that the operation does not serve, and that is not granted, waits until the queue is emptied. -/
theorem toldDown_pour {s : State} {x : Tap} {q : Pour} (h : (s.tapRec x).pour = some q) (hg : q.granted = false)
    (hp : ∀ op, s.man.op = some op → ∀ p ∈ op.pours, p.tap ≠ x) : ((toldDown s).tapRec x).pour = some q := by
  rw [← closedDown_tapRec] at h
  cases hop : s.man.op with
  | none =>
    unfold toldDown
    rwa [hop]
  | some op =>
    by_cases hn : op.need.isPour = true
    · obtain ⟨l, y, hl, ht⟩ := tellEnded_pours hop hn
      rw [ht, forAll_endPour_other .sensor fun z hz => ?_]
      · exact h
      · obtain ⟨p, hpm, rfl⟩ := List.mem_map.1 (hl.mem_iff.1 hz)
        exact hp op hop p hpm
    · rw [toldDown_some hop, tellEnded]
      cases hk : op.need with
      | charge b =>
        have hc : ((chargeEnded b (decide (op.sub = .active)) (closedDown s)).tapRec x) = (closedDown s).tapRec x := by
          unfold chargeEnded
          split <;> rfl
        exact (congrArg _ hc).trans h
      | purge z d => exact purgeEnded_down_pour (closedDown_down s) h hg
      | check => exact h
      | pour y b => rw [hk] at hn; cases hn rfl

theorem startBlink_blink {y : Tap} {s : State} (h : s.mgp.part = .running) : ((startBlink y s).tapRec y).blink = some 0 := by
  unfold startBlink
  rw [if_pos h, tapRec_modTap, if_pos rfl]

/-- R155, R160. In RUNNING a pour that ends REFUSED starts the tap's blink window. -/
theorem endPour_down_blink {reason : PourReason} {y : Tap} {p : Pour} {s : State} (hd : Down s) (h : (s.tapRec y).pour = some p)
    (hr : (!p.pouring && reason.refuses) = true) (hp : s.mgp.part = .running) : ((endPour reason y s).tapRec y).blink ≠ none := by
  have hw : HaltWork s (noticed y p s) := noticed_work trivial
  have hpour : ((noticed y p s).tapRec y).pour = some p := (pour_of_still (pourEnded_pour y p s)).trans h
  have hg : HaltWork (noticed y p s) (pourGoneFrom y p (pourReport y p reason) (noticed y p s)) := Work.pourGone _ trivial hpour
  rw [endPour_down_eq reason hd h]
  unfold afterNotice
  rw [if_pos hr, startBlink_blink (hg.part.trans (hw.part.trans hp))]
  simp

theorem forAll_endPour_down_blink {reason : PourReason} {l : List Tap} {y : Tap} (hy : y ∈ l) {p : Pour} {s : State} (hd : Down s)
    (h : (s.tapRec y).pour = some p) (hr : (!p.pouring && reason.refuses) = true) (hp : s.mgp.part = .running) :
    ((forAll l (endPour reason) s).tapRec y).blink ≠ none := by
  induction l generalizing s with
  | nil => cases hy
  | cons z l ih =>
    have hdz := (endPour_down reason z hd).down hd
    by_cases e : y = z
    · subst e
      exact (DownWork.forAll (fun x u hu => endPour_down reason x hu) hdz).blink y (endPour_down_blink hd h hr hp)
    · obtain ⟨hw, hx⟩ := endPour_other reason e s
      exact ih (List.mem_of_ne_of_mem e hy) hdz (hx.trans h) (hw.part.trans hp)

theorem dropped_work {T : Tap → Prop} {loss : Loss} (u : State) : Work T loss u (dropped u) :=
  Work.trans (Work.filterQueue (g := fun _ => []) fun _ h => (by cases h)) (Work.forAll dropEntry_work _)

/-- R139. A queued POUR that the operation does not serve. -/
theorem enterDown_dropsPour {s : State} (hd : s.man.state ≠ .down) {e : GasEntry} (he : e ∈ s.man.queue) {x : Tap} {b : Bay} (hn : e.need = .pour x b)
    (hp : ∀ op, s.man.op = some op → ∀ p ∈ op.pours, p.tap ≠ x) {q : Pour} (hq : (s.tapRec x).pour = some q) (hpq : q.pouring = false)
    (hgq : q.granted = false) :
    ((enterDown s).tapRec x).pour = none ∧ (Room s → Recorded x q true .manifoldDown (enterDown s)) ∧
      (s.mgp.part = .running → ((enterDown s).tapRec x).blink ≠ none) := by
  have hmem : e ∈ (settledDown s).man.queue := settledDown_queue he fun op hop p hpm c h => by
    rw [hn] at h
    cases h
    exact hp op hop p hpm rfl
  obtain ⟨l, free, hl, hany⟩ := forAny_spec ((settledDown s).man.queue.filterMap entryPour) (fun p => endPour .manifoldDown p.tap) (dropped (settledDown s))
  have hm : ∀ u : State, forAll l (fun p => endPour .manifoldDown p.tap) u = forAll (l.map (·.tap)) (endPour .manifoldDown) u := fun u => by
    unfold forAll
    rw [List.foldl_map]
  have hx : x ∈ l.map (·.tap) := by
    refine List.mem_map.2 ⟨{ tap := x, bay := b }, hl.mem_iff.2 (List.mem_filterMap.2 ⟨e, hmem, ?_⟩), rfl⟩
    unfold entryPour
    rw [hn]
  have hend : enterDown s = forAll (l.map (·.tap)) (endPour .manifoldDown) ((dropped (settledDown s)).setFree free) := by
    rw [enterDown_eq hd, ← hm, ← hany]
    rfl
  have hshow : Work (fun _ => False) ⟨False, False⟩ (toldDown s) (settledDown s) := Work.writeRegulator 0 _ (.inl rfl)
  have hwork : Work (fun _ => False) ⟨False, False⟩ (toldDown s) ((dropped (settledDown s)).setFree free) :=
    (hshow.trans (dropped_work _)).trans (Work.setFree _ _)
  have hpour : (((dropped (settledDown s)).setFree free).tapRec x).pour = some q :=
    (pour_of_still ((hwork.taps x).still id)).trans (toldDown_pour hq hgq hp)
  have hdown : Down ((dropped (settledDown s)).setFree free) := (dropped_down (settledDown_down s)).down (settledDown_down s)
  have hrefused : (!q.pouring && PourReason.manifoldDown.refuses) = true := by rw [hpq]; rfl
  rw [hend]
  refine ⟨forAll_endPour_gone hx _, fun hroom => ?_, fun hr => ?_⟩
  · have hrec := forAll_endPour_recorded .manifoldDown hx hpour (hwork.room ((toldDown_work s).room (closedDown_room hroom)))
    rwa [hrefused] at hrec
  · obtain ⟨-, -, hmgp, -⟩ := closedDown_fields s
    exact forAll_endPour_down_blink hx hdown hpour hrefused (hwork.part.trans ((toldDown_work s).part.trans (by rw [hmgp]; exact hr)))

end Sys2Proof.Proofs
end

section
/-! PROOFS. The loss of node 8 when its channels feed the manifold alone: what became of each need (R14, R124, R139). -/

namespace Sys2Proof.Proofs

open Sys2Proof.Machine Sys2Proof.Safety Sys2Proof.Claims

/-- What entry to DOWN looks at is in `w` as it was in `s`. -/
structure AtEntry (s w : State) : Prop where
  kegs : w.kegs = s.kegs
  tap : w.tap = s.tap
  sch : w.sch = s.sch
  state : w.man.state = s.man.state
  op : w.man.op = s.man.op
  queue : w.man.queue = s.man.queue
  result : w.man.result = s.man.result
  part : w.mgp.part = s.mgp.part
  room : s.mgp.up.length < 10 → Room w

theorem atEntry_of_loss {n : Node} {s u w : State} (h : LossBegun n s u) (hw : SlotsFrom u w) : AtEntry s w := by
  have hroom := fun hl => h.room hl
  obtain ⟨⟨_, _, _, _, _, _, rfl⟩, -, -, -, -, -⟩ := h
  obtain ⟨_, _, rfl⟩ := hw
  exact ⟨rfl, rfl, rfl, rfl, rfl, rfl, rfl, rfl, hroom⟩

theorem AtEntry.keg {s w : State} (h : AtEntry s w) (b : Bay) : w.keg b = s.keg b := by rw [State.keg, h.kegs]

theorem AtEntry.tapRec {s w : State} (h : AtEntry s w) (y : Tap) : w.tapRec y = s.tapRec y := by rw [State.tapRec, h.tap]

theorem AtEntry.inCarb {s w : State} (h : AtEntry s w) (b : Bay) : inCarb b w = inCarb b s := by
  unfold Machine.inCarb currentStep
  rw [h.sch, h.keg]

/-- What entry to DOWN has left in `v` stands in `t`, at the end of the event. -/
structure AtEnd (v t : State) : Prop where
  keg : ∀ b, t.keg b = v.keg b
  tapRec : ∀ y, untimed (t.tapRec y) = untimed (v.tapRec y)
  result : t.man.result = v.man.result
  out : ∀ o, Output.unshown o = true → t.out o = v.out o
  sentOn : v.mgp.up <+: t.mgp.up

theorem tapRec_of_same {s t : State} (h : Same .taps s t) (y : Tap) : untimed (t.tapRec y) = untimed (s.tapRec y) := by
  simpa using congrArg (·[y]) (show t.tap.taps.map untimed = s.tap.taps.map untimed from h.1)

theorem atEnd_of_slots {v v' : State} (h : SlotsFrom v v') : AtEnd v (finish (endExchange v')) := by
  have ht := endOfExchange_touches v'
  have hup : (finish (endExchange v')).mgp.up = v'.mgp.up := (ht .up (by decide)).1
  have hman : (finish (endExchange v')).man = v'.man := ht .man (by decide)
  have hkegs : (finish (endExchange v')).kegs = v'.kegs := ht .kegs (by decide)
  have htaps := tapRec_of_same (ht .taps (by decide))
  have hout : ∀ o, Output.unshown o = true → (finish (endExchange v')).out o = v'.out o := fun o ho => endOfExchange_out ho v'
  obtain ⟨_, _, rfl⟩ := h
  exact ⟨fun b => by rw [State.keg, hkegs], htaps, by rw [hman], hout, by rw [hup]⟩

theorem untimed_fields {r r' : TapRecord} (h : untimed r = untimed r') :
    r.pour = r'.pour ∧ r.purgeRequest = r'.purgeRequest ∧ r.purgeStatus = r'.purgeStatus ∧ r.purgeMinutes = r'.purgeMinutes ∧ r.blink = r'.blink := by
  have h1 : (untimed r).pour = (untimed r').pour := congrArg _ h
  have h2 : (untimed r).purgeRequest = (untimed r').purgeRequest := congrArg _ h
  have h3 : (untimed r).purgeStatus = (untimed r').purgeStatus := congrArg _ h
  have h4 : (untimed r).purgeMinutes = (untimed r').purgeMinutes := congrArg _ h
  have h5 : (untimed r).blink = (untimed r').blink := congrArg _ h
  exact ⟨h1, h2, h3, h4, h5⟩

section
variable {s w t : State} (hs : s.man.state ≠ .down) (hw : AtEntry s w) (ht : AtEnd (enterDown w) t)
include hs hw ht

/-- R127, R134, R139. What became of the operation in progress. -/
theorem workEndsDown {op : Operation} (hop : s.man.op = some op) : WorkEndsDown op s t := by
  have hd : w.man.state ≠ .down := by rwa [hw.state]
  have hop' : w.man.op = some op := hw.op.trans hop
  refine ⟨fun b hn => ?_, fun hn p hp => ?_, fun x d hn => ?_, fun hn => ?_⟩
  · obtain ⟨hc, ho⟩ := enterDown_charge hd hop' hn
    rw [hw.inCarb, hw.keg] at hc
    rw [hw.part] at ho
    exact ⟨fun h => by rw [ht.keg]; exact hc h, fun ⟨hr, ha⟩ => (ht.out _ rfl).trans (ho hr ha)⟩
  · obtain ⟨ho, hq⟩ := enterDown_pours hd hop' hn hp
    rw [hw.part] at ho
    rw [hw.tapRec] at hq
    obtain ⟨hpour, -⟩ := untimed_fields (ht.tapRec p.tap)
    refine ⟨fun ⟨hr, ha⟩ => (ht.out _ rfl).trans (ho hr ha), fun q h => ?_⟩
    obtain ⟨hnone, hrec⟩ := hq q h
    exact ⟨hpour.trans hnone, fun hl => recorded_kept (hrec (hw.room hl)) ht.sentOn⟩
  · obtain ⟨hreq, hstatus, hminutes, ho⟩ := enterDown_purge hd hop' hn
    obtain ⟨-, hreq', hstatus', hminutes', -⟩ := untimed_fields (ht.tapRec x)
    rw [hw.tapRec] at hstatus hminutes ho
    rw [hw.part] at ho
    refine ⟨hreq'.trans hreq, hstatus'.trans hstatus, hminutes'.trans hminutes, fun ⟨hr, ha⟩ => ?_⟩
    obtain ⟨hp, hv⟩ := ho hr ha
    exact ⟨(ht.out _ rfl).trans hp, fun h => (ht.out _ rfl).trans (hv h)⟩
  · refine ⟨?_, fun ⟨hr, ha⟩ => ?_⟩
    · rw [ht.result, (enterDown_work w).man.latches.2, hw.result]
    · exact (ht.out _ rfl).trans (enterDown_check hd hop' hn (hw.part.trans hr) ha)

/-- R127, R137, R139. What became of an entry of the queue. -/
theorem entryEndsDown {e : GasEntry} (he : e ∈ s.man.queue) : EntryEndsDown e s t := by
  have hd : w.man.state ≠ .down := by rwa [hw.state]
  have he' : e ∈ w.man.queue := by rwa [hw.queue]
  refine ⟨fun b hn hc => ?_, fun x d hn => ?_, fun x b hn hp q hq hpq hgq => ?_⟩
  · rw [ht.keg]
    exact enterDown_dropsCharge hd he' hn ((hw.inCarb b).trans hc)
  · obtain ⟨-, hreq, -⟩ := untimed_fields (ht.tapRec x)
    exact hreq.trans (enterDown_dropsPurge hd he' hn)
  · obtain ⟨hpour, -, -, -, hblink⟩ := untimed_fields (ht.tapRec x)
    obtain ⟨hnone, hrec, hb⟩ := enterDown_dropsPour hd he' hn (by rwa [hw.op]) (by rwa [hw.tapRec]) hpq hgq
    rw [hw.part] at hb
    refine ⟨hpour.trans hnone, fun hl => recorded_kept (hrec (hw.room hl)) ht.sentOn, fun hr => ?_⟩
    rw [hblink]
    exact hb hr

end

/-- R14, R124, R139. What the loss of node 8 ends, when its channels feed the manifold alone. -/
theorem manifoldNode_lost_ends {s : State} (h : 2 ≤ (s.node manifoldNode).failures) (hs : (s.node manifoldNode).state ≠ .lost)
    (hd : s.man.state ≠ .down) (hf : FeedsOnly manifoldNode [.manifold, .cylinder] s) :
    let t := finish (exchangeFailed manifoldNode s)
    (∀ op, s.man.op = some op → WorkEndsDown op s t) ∧ ∀ e ∈ s.man.queue, EntryEndsDown e s t := by
  obtain ⟨u, v, hu, ⟨w, hw, hv⟩, he⟩ := manifoldNode_lost_once h hs hd hf
  rw [he]
  have hentry := atEntry_of_loss hu hw
  have hend := atEnd_of_slots hv
  exact ⟨fun op hop => workEndsDown hd hentry hend hop, fun e hm => entryEndsDown hd hentry hend hm⟩

end Sys2Proof.Proofs
end

section
/-! PROOFS. A node that returns: what the readings leave of the notes on nodes 7 and 8, the grants, and the sensing test (R14, R101, R116, R124). -/

namespace Sys2Proof.Proofs

open Sys2Proof.Machine Sys2Proof.Safety Sys2Proof.Claims

/-! ## The notes on nodes 7 and 8 -/

/-- The chiller arbiter's note on node 7 and the manifold's on node 8 stand. -/
def Noted (s t : State) : Prop := t.chl.nodeLost = s.chl.nodeLost ∧ t.man.nodeOnline = s.man.nodeOnline

theorem Noted.refl (s : State) : Noted s s := ⟨rfl, rfl⟩

theorem Noted.trans {s t u : State} (h : Noted s t) (g : Noted t u) : Noted s u := ⟨g.1.trans h.1, g.2.trans h.2⟩

theorem Noted.forAll {α : Type} {l : List α} {f : α → State → State} (hf : ∀ x u, Noted u (f x u)) (s : State) : Noted s (forAll l f s) := by
  induction l generalizing s with
  | nil => exact Noted.refl s
  | cons x l ih => exact (hf x s).trans (ih _)

theorem Work.noted {T : Tap → Prop} {loss : Loss} {s t : State} (h : Work T loss s t) : Noted s t := ⟨h.lost, h.man.online⟩

theorem noted_of_same {s t : State} (hc : Same .chl s t) (hm : Same .man s t) : Noted s t := by
  have hc : t.chl = s.chl := hc
  have hm : t.man = s.man := hm
  exact ⟨by rw [hc], by rw [hm]⟩

theorem write_noted (w : Owner) (o : Output) (v : Nat) (s : State) : Noted s (write w o v s) := by
  obtain ⟨_, _, h⟩ := write_shows w o v s
  rw [h]
  exact Noted.refl s

theorem revoke_work {T : Tap → Prop} {loss : Loss} (rs : List Requester) (s : State) : Work T loss s (revoke rs s) := by
  unfold revoke
  exact (Work.forAll revokeOne_work s).trans (Work.modChl_beside (f := fun c => { c with queue := requeueRevoked _ c.queue }))

theorem guardEval_work {T : Tap → Prop} {loss : Loss} (v : Int) (s : State) : Work T loss s (guardEval v s) := by
  have hhot : Work T loss s (guardHot s) :=
    Work.trans (Work.modChl_beside (f := fun c => { c with guardState := .hot, limit := 1 })) ((Work.raise _ _ _).trans (revoke_work _ _))
  have hnormal : Work T loss s (guardNormal s) :=
    Work.trans (Work.modChl_beside (f := fun c => { c with guardState := .normal, limit := c.configured })) (grants_work _)
  unfold guardEval
  split
  · exact Work.branch (fun _ => hhot) fun _ => Work.refl s
  · exact Work.branch (fun _ => hnormal) fun _ => Work.refl s

theorem raiseCharge_work {T : Tap → Prop} {loss : Loss} (b : Bay) (p : Int) (s : State) : Work T loss s (raiseCharge b p s) := by
  have hr : Work T loss s (raiseNeed true { need := .charge b, pressure := p } s).2 := raiseNeed_work rfl
  unfold raiseCharge
  split
  · rename_i u hu
    rw [hu] at hr
    exact hr.trans (chargeMarked_work b _)
  · rename_i u hu
    rw [hu] at hr
    exact hr

theorem pressureValue_noted (b : Bay) (p : Int) (s : State) : Noted s (pressureValue b p s) := by
  have hv : Touches [.image, .kegs, .up, .atn] s (ventStep b (reliefEval b (s.modKeg b fun k => { k with sensedPressure := some p }))) :=
    ventStep_touches (reliefEval_touches (modKeg_touches (Touches.refl _ s) (by decide) (.inr fun _ => rfl) (.inr fun _ => rfl) (.inr fun _ => ⟨rfl, rfl⟩)
      (.inr fun _ => ⟨rfl, .inl⟩) (.inr fun _ h => h)) (by decide) (by decide) (by decide) (by decide)) (by decide) (by decide)
  refine (noted_of_same (hv .chl (by decide)) (hv .man (by decide))).trans ?_
  unfold pressureValue chargeTest
  split
  · split
    · exact (raiseCharge_work (T := fun _ => True) (loss := ⟨True, True⟩) b _ _).noted
    · exact Noted.refl _
  · exact Noted.refl _

theorem grantPour_noted (y : Tap) (s : State) : Noted s (grantPour y s) :=
  Noted.trans (t := s.modTap y _) (Noted.refl s) (tryStart_work (loss := ⟨True, True⟩) y _).noted

theorem setActive_noted (s : State) : Noted s (setActive s) := ⟨rfl, rfl⟩

theorem activate_noted (op : Operation) (s : State) : Noted s (activate op s) := by
  have ha := setActive_noted s
  unfold activate
  split
  · exact ha.trans (write_noted _ _ _ _)
  · exact (ha.trans (Noted.forAll (fun p u => write_noted _ _ _ u) _)).trans (Noted.forAll (fun (p : SetPour) u => grantPour_noted p.tap u) _)
  · rename_i y d _
    have hp : Noted s (passing [.tapValve y] setActive s) := by
      obtain ⟨_, _, h⟩ := passing_shows [.tapValve y] s (setActive s)
      rw [passing, h]
      exact ha
    exact (hp.trans (write_noted _ _ _ _)).trans (write_noted _ _ _ _)
  · exact (ha.trans (write_noted .man .supply 0 _)).trans ⟨rfl, rfl⟩

theorem sensingTest_noted (s : State) : Noted s (sensingTest s) := by
  unfold sensingTest
  split
  · split
    · exact ⟨rfl, rfl⟩
    · exact Noted.trans (t := s.modMan fun m => { m with state := .idle }) ⟨rfl, rfl⟩ (serveQueue_work (T := fun _ => True) (loss := ⟨True, True⟩) _).noted
  · exact Noted.refl s

theorem manifoldValue_noted (v : Int) (s : State) : Noted s (manifoldValue v s) := by
  refine Noted.trans ?_ (sensingTest_noted _)
  unfold settleTest
  split
  · split
    · exact activate_noted _ s
    · exact Noted.refl s
  · exact Noted.refl s

theorem slotStored_noted (d : Dest) (v : Int) (s : State) : Noted s (slotStored d v s) := by
  cases d with
  | kegCore b | kegWall b => exact (deliverControl_ruin b _ s).work.noted
  | kegPress b => exact pressureValue_noted b v s
  | manifold => exact manifoldValue_noted v s
  | cylinder => exact sensingTest_noted s
  | line y => exact (lineEval_work (T := fun _ => True) (loss := ⟨True, True⟩) y v s).noted.trans (tryStart_work (loss := ⟨True, True⟩) y _).noted
  | glycol => exact (guardEval_work (T := fun _ => True) (loss := ⟨True, True⟩) v s).noted
  | ambient => exact Noted.refl s

theorem publish_noted (c : Chan) (s : State) : Noted s (publish c s) := by
  have hr : ∀ (v : Int) (m : Marks) (u : State), Noted u (reportCount c v m u) := fun v m u => by
    have ht : Touches [.counts, .up, .atn] u (reportCount c v m u) := reportCount_touches (Touches.refl _ u) (by decide) (by decide) (by decide)
    exact noted_of_same (ht .chl (by decide)) (ht .man (by decide))
  unfold publish storePublication
  refine Noted.trans ?_ (hr _ _ _)
  split
  · exact Noted.trans (t := setSlot _ _ (s.modChan c _)) ⟨rfl, rfl⟩ (slotStored_noted _ _ _)
  · exact ⟨rfl, rfl⟩

theorem takeReadings_noted (n : Node) (r : Reply) (s : State) : Noted s (takeReadings n r s) := by
  obtain ⟨l, x, -, he⟩ := forAny_spec (publishers n r s) publish (conditionReadings n r s)
  have hc : Touches [.chans] s (conditionReadings n r s) := conditionReadings_touches (Touches.refl _ s) (by decide)
  unfold takeReadings
  rw [he]
  exact (noted_of_same (hc .chl (by decide)) (hc .man (by decide))).trans (Noted.trans (t := (conditionReadings n r s).setFree x) ⟨rfl, rfl⟩ (Noted.forAll publish_noted _))

/-! ## Grants (R101) -/

theorem canGrant_iff (s : State) :
    canGrant s = true ↔ s.mgp.part = .running ∧ s.chl.nodeLost = false ∧ s.chl.queue ≠ [] ∧ s.chl.holders.length < s.chl.limit := by
  simp [canGrant, State.running, and_assoc]

theorem grantHead_chl {s : State} {r : Requester} {rest : List Requester} (h : s.chl.queue = r :: rest) :
    (grantHead s).mgp = s.mgp ∧ (grantHead s).chl.nodeLost = s.chl.nodeLost ∧ (grantHead s).chl.limit = s.chl.limit ∧ (grantHead s).chl.queue = rest ∧
      (grantHead s).chl.holders.map (·.who) = s.chl.holders.map (·.who) ++ [r] := by
  have hw := writeValve_shows r 1 (setCooling r (s.modChl fun c => { c with queue := rest, holders := c.holders ++ [newHolder c.policy r] }))
  unfold grantHead
  rw [h]
  dsimp only
  rw [hw.chl, hw.mgp]
  cases r <;> simp [setCooling, newHolder, State.modThermo, State.modLine]

/-- R101. The grant procedure grants the head of the queue while it may. -/
theorem grantUpTo_chl {fuel : Nat} {s : State} (hf : s.chl.queue.length ≤ fuel) :
    (grantUpTo fuel s).chl.queue = s.chl.queue.drop (granted s s.chl.queue s.chl.holders.length) ∧
      (grantUpTo fuel s).chl.holders.map (·.who) = s.chl.holders.map (·.who) ++ s.chl.queue.take (granted s s.chl.queue s.chl.holders.length) := by
  induction fuel generalizing s with
  | zero =>
    have hq : s.chl.queue = [] := List.length_eq_zero_iff.1 (Nat.le_zero.1 hf)
    rw [grantUpTo, hq]
    simp
  | succ fuel ih =>
    unfold grantUpTo
    by_cases hc : canGrant s = true
    · rw [if_pos hc]
      obtain ⟨hr, hn, hq, hl⟩ := (canGrant_iff s).1 hc
      obtain ⟨r, rest, hq⟩ := List.exists_cons_of_ne_nil hq
      obtain ⟨hm, hn', hlim, hq', hh⟩ := grantHead_chl hq
      have hlen : (grantHead s).chl.holders.length = s.chl.holders.length + 1 := by
        simpa using congrArg List.length hh
      have hk : granted s s.chl.queue s.chl.holders.length = granted (grantHead s) (grantHead s).chl.queue (grantHead s).chl.holders.length + 1 := by
        unfold granted
        rw [if_pos ⟨hr, hn⟩, if_pos ⟨by rw [hm]; exact hr, hn'.trans hn⟩, hlim, hlen, hq', hq, List.length_cons]
        omega
      obtain ⟨h1, h2⟩ := ih (s := grantHead s) (by rw [hq']; rw [hq, List.length_cons] at hf; omega)
      rw [h1, h2, hk, hq', hh, hq]
      simp
    · have hk : granted s s.chl.queue s.chl.holders.length = 0 := by
        unfold granted
        split
        · rename_i h
          by_contra hne
          exact hc ((canGrant_iff s).2 ⟨h.1, h.2, fun hq => by rw [hq] at hne; simp at hne, by omega⟩)
        · rfl
      rw [if_neg hc, hk]
      simp

theorem grants_chl (s : State) :
    (grants s).chl.queue = s.chl.queue.drop (granted s s.chl.queue s.chl.holders.length) ∧
      (grants s).chl.holders.map (·.who) = s.chl.holders.map (·.who) ++ s.chl.queue.take (granted s s.chl.queue s.chl.holders.length) :=
  grantUpTo_chl (Nat.le_refl _)

/-! ## Sensing (R124) -/

/-- R124. What the sensing test makes of the manifold when its queue is empty, or while it stays DOWN. -/
theorem manifoldOnline_man (s : State) :
    let complete := s.rte.slots[destIdx .manifold] ≠ none ∧ s.rte.slots[destIdx .cylinder] ≠ none
    (s.man.state = .down → complete → s.man.leak = true → (manifoldOnline s).man = { s.man with nodeOnline := true, state := .lockout }) ∧
      (s.man.state = .down → complete → s.man.leak = false → s.man.queue = [] → (manifoldOnline s).man = { s.man with nodeOnline := true, state := .idle }) ∧
      (s.man.state ≠ .down ∨ ¬ complete → (manifoldOnline s).man = { s.man with nodeOnline := true }) := by
  intro complete
  have hs : sensingComplete (s.modMan fun m => { m with nodeOnline := true }) = true ↔ complete := by
    simp [sensingComplete, slotValue, complete, Option.isSome_iff_ne_none]
  unfold manifoldOnline sensingTest
  refine ⟨fun hd hc hl => ?_, fun hd hc hl hq => ?_, fun h => ?_⟩
  · rw [if_pos ⟨hd, hs.2 hc⟩, if_pos (by exact hl)]
    rfl
  · rw [if_pos ⟨hd, hs.2 hc⟩, if_neg (by rw [modMan_man, hl]; simp)]
    have hnone : chooseEntry ((s.modMan fun m => { m with nodeOnline := true }).modMan fun m => { m with state := .idle }) = none := by
      simp only [chooseEntry, modMan_man, hq]
      rfl
    unfold becomeIdle serveQueue
    rw [hnone, ite_self]
    rfl
  · rw [if_neg fun hc => h.elim (fun h => h hc.1) fun h => h (hs.1 hc.2)]
    rfl

/-! ## The notice of a return (R14, R30) -/

theorem moveChannels_unread {n : Node} {s : State} (f : Channel → Channel) (h : Unread n s) : moveChannels n f s = s := by
  have hccu : (moveChannels n f s).ccu = s.ccu := by
    refine Vector.ext fun i hi => ?_
    exact (moveChannels_chan (n := n) f s ⟨i, hi⟩).trans (if_neg (h _))
  rw [moveChannels_eq, hccu]

theorem deliverOnline_unread {n : Node} {lost : Bool} {s : State} (h : Unread n s) :
    ∃ free, deliverOnline n lost s = roleOnline n lost { s with free := free } := by
  cases lost with
  | false => exact ⟨s.free, rfl⟩
  | true =>
    obtain ⟨before, after, x, hp, he⟩ := forAnyWith_spec (roleOnline n true) (liveChannels n s) leftLive (moveChannels n Channel.nodeReturned s)
    have hnil : liveChannels n s = [] := List.filter_eq_nil_iff.2 fun c _ hc => h c (of_decide_eq_true hc).1
    rw [hnil] at hp
    obtain ⟨rfl, rfl⟩ := List.append_eq_nil_iff.1 (List.perm_nil.1 hp)
    refine ⟨x, ?_⟩
    show changeChannels n Channel.nodeReturned (roleOnline n true) s = _
    rw [changeChannels, he, moveChannels_unread _ h]
    rfl

/-- R14. What the notice of a return leaves of the notes, once the role's own part is known. -/
theorem deliverOnline_noted {n : Node} {lost : Bool} {s : State} :
    ∃ u, Noted s u ∧ Noted (roleOnline n lost u) (deliverOnline n lost s) := by
  cases lost with
  | false => exact ⟨s, Noted.refl s, Noted.refl _⟩
  | true =>
    obtain ⟨before, after, x, hp, he⟩ := forAnyWith_spec (roleOnline n true) (liveChannels n s) leftLive (moveChannels n Channel.nodeReturned s)
    have hm := moveChannels_eq n Channel.nodeReturned s
    refine ⟨forAll before leftLive ((moveChannels n Channel.nodeReturned s).setFree x), ?_, ?_⟩
    · refine Noted.trans (t := (moveChannels n Channel.nodeReturned s).setFree x) ?_ (Ruin.forAll leftLive_ruin _).work.noted
      rw [hm]
      exact ⟨rfl, rfl⟩
    · show Noted _ (changeChannels n Channel.nodeReturned (roleOnline n true) s)
      rw [changeChannels, he]
      exact (Ruin.forAll leftLive_ruin _).work.noted

/-! ## A node that is heard again -/

/-- R11, R14. From a node that was not ONLINE, and is not the panel, the return is told, and the readings are handed over. -/
theorem exchangeSucceeded_returns {n : Node} {r : Reply} {s : State} (ho : (s.node n).state ≠ .online) (hr : r.panel = none) :
    exchangeSucceeded n r s = endExchange (takeReadings n r (deliverOnline n (decide ((s.node n).state = .lost)) (s.modNode n (heardRecord r)))) := by
  unfold exchangeSucceeded
  simp only [ho, if_false]
  rw [handOver_readings hr]
  rfl

/-- R14. What the return leaves of the notes. -/
theorem returned_noted {n : Node} {r : Reply} {s : State} (ho : (s.node n).state ≠ .online) (hr : r.panel = none) :
    ∃ u, Noted s u ∧ Noted (roleOnline n (decide ((s.node n).state = .lost)) u) (finish (exchangeSucceeded n r s)) := by
  obtain ⟨u, hu, hw⟩ := deliverOnline_noted (n := n) (lost := decide ((s.node n).state = .lost)) (s := s.modNode n (heardRecord r))
  have hend := endOfExchange_touches (takeReadings n r (deliverOnline n (decide ((s.node n).state = .lost)) (s.modNode n (heardRecord r))))
  refine ⟨u, Noted.trans (t := s.modNode n (heardRecord r)) ⟨rfl, rfl⟩ hu, ?_⟩
  rw [exchangeSucceeded_returns ho hr]
  exact (hw.trans (takeReadings_noted n r _)).trans (noted_of_same (hend .chl (by decide)) (hend .man (by decide)))

/-- R14. With no channel that reads the node, the return is its role's notice alone. -/
theorem returned_unread {n : Node} {r : Reply} {s : State} (ho : (s.node n).state ≠ .online) (hr : r.panel = none) (hun : Unread n s) :
    ∃ u : State, u.chl = s.chl ∧ u.man = s.man ∧ u.rte = s.rte ∧ u.mgp = s.mgp ∧
      (finish (exchangeSucceeded n r s)).chl = (roleOnline n (decide ((s.node n).state = .lost)) u).chl ∧
      (finish (exchangeSucceeded n r s)).man = (roleOnline n (decide ((s.node n).state = .lost)) u).man := by
  obtain ⟨free, he⟩ := deliverOnline_unread (lost := decide ((s.node n).state = .lost)) (s := s.modNode n (heardRecord r)) hun
  refine ⟨{ s.modNode n (heardRecord r) with free := free }, rfl, rfl, rfl, rfl, ?_⟩
  have hrole : Touches [.image, .chl, .man, .kegs, .taps] { s.modNode n (heardRecord r) with free := free }
      (roleOnline n (decide ((s.node n).state = .lost)) { s.modNode n (heardRecord r) with free := free }) :=
    roleOnline_touches (Touches.refl _ _) (by decide) (by decide) (by decide) (by decide) (by decide)
  have hun' : ∀ c : Chan, ((roleOnline n (decide ((s.node n).state = .lost)) { s.modNode n (heardRecord r) with free := free }).chan c).record.node ≠ n := fun c => by
    have hccu : (roleOnline n (decide ((s.node n).state = .lost)) { s.modNode n (heardRecord r) with free := free }).ccu = s.ccu := hrole .chans (by decide)
    rw [State.chan, hccu]
    exact hun c
  rw [exchangeSucceeded_returns ho hr, he, takeReadings_unread hun']
  have hend := endOfExchange_touches (roleOnline n (decide ((s.node n).state = .lost)) { s.modNode n (heardRecord r) with free := free })
  exact ⟨hend .chl (by decide), hend .man (by decide)⟩

/-- R14, R116. Node 7 returns from LOST. -/
theorem chillerNode_returned {r : Reply} {s : State} (hl : (s.node chillerNode).state = .lost) (hr : r.panel = none) :
    let t := finish (exchangeSucceeded chillerNode r s)
    t.chl.nodeLost = false ∧
      (Unread chillerNode s →
        let k := granted { s with chl := { s.chl with nodeLost := false } } s.chl.queue s.chl.holders.length
        t.chl.queue = s.chl.queue.drop k ∧ t.chl.holders.map (·.who) = s.chl.holders.map (·.who) ++ s.chl.queue.take k) := by
  have ho : (s.node chillerNode).state ≠ .online := by rw [hl]; simp
  have hrole : ∀ u, roleOnline chillerNode (decide ((s.node chillerNode).state = .lost)) u = chillerReturned u := fun u => by
    rw [decide_eq_true hl]
    rfl
  constructor
  · obtain ⟨u, -, hn, -⟩ := returned_noted ho hr
    rw [hrole] at hn
    exact hn.trans (grants_work (T := fun _ => True) (loss := ⟨True, True⟩) _).lost
  · intro hun
    obtain ⟨u, hc, -, -, hm, ht, -⟩ := returned_unread ho hr hun
    rw [hrole] at ht
    rw [ht]
    have hg := grants_chl (u.modChl fun c => { c with nodeLost := false })
    have hk : granted (u.modChl fun c => { c with nodeLost := false }) = granted { s with chl := { s.chl with nodeLost := false } } := by
      funext q n
      unfold granted
      rw [modChl_mgp, modChl_chl, hm, hc]
    rw [hk, modChl_chl, hc] at hg
    exact hg

/-- R14. Node 7 is heard for the first time: the chiller arbiter takes no notice. -/
theorem chillerNode_seen {r : Reply} {s : State} (hs : (s.node chillerNode).state = .unseen) (hr : r.panel = none) (hun : Unread chillerNode s) :
    (finish (exchangeSucceeded chillerNode r s)).chl = s.chl := by
  have ho : (s.node chillerNode).state ≠ .online := by rw [hs]; simp
  obtain ⟨u, hc, -, -, -, ht, -⟩ := returned_unread ho hr hun
  have hd : decide ((s.node chillerNode).state = .lost) = false := by rw [hs]; rfl
  rw [ht, hd, ← hc]
  rfl

/-- R14, R124. Node 8 becomes ONLINE. -/
theorem manifoldNode_returned {r : Reply} {s : State} (ho : (s.node manifoldNode).state ≠ .online) (hr : r.panel = none) :
    let t := finish (exchangeSucceeded manifoldNode r s)
    t.man.nodeOnline = true ∧
      (Unread manifoldNode s →
        let complete := s.rte.slots[destIdx .manifold] ≠ none ∧ s.rte.slots[destIdx .cylinder] ≠ none
        (s.man.state = .down → complete → s.man.leak = true → t.man = { s.man with nodeOnline := true, state := .lockout }) ∧
        (s.man.state = .down → complete → s.man.leak = false → s.man.queue = [] → t.man = { s.man with nodeOnline := true, state := .idle }) ∧
        (s.man.state ≠ .down ∨ ¬ complete → t.man = { s.man with nodeOnline := true })) := by
  have hrole : ∀ b u, roleOnline manifoldNode b u = manifoldOnline u := fun _ _ => rfl
  constructor
  · obtain ⟨u, -, -, hn⟩ := returned_noted ho hr
    rw [hrole] at hn
    exact hn.trans (sensingTest_noted _).2
  · intro hun
    obtain ⟨u, -, hm, hrte, -, -, ht⟩ := returned_unread ho hr hun
    rw [hrole] at ht
    have hman := manifoldOnline_man u
    rw [hm, hrte, ← ht] at hman
    exact hman

/-- Settles O39. -/
theorem failedExchangesAndLostNodes : Obligations.FailedExchangesAndLostNodes := by
  refine ⟨fun s x i ha he hp hi => ?_, fun s x b ha he hp hn hs hf => ?_, fun s x i ha he hp hs hf hi => ⟨fun hn => ?_, fun hn => ?_, fun hn => ?_⟩,
    fun s x chars r ha he hp hj => ⟨fun hn => ⟨fun hl => ?_, fun hu hun => ?_⟩, fun hn ho => ?_⟩⟩
  · obtain ⟨hf, hl, hs⟩ := failed_node_fields x.node s
    refine ⟨_, exec_fails ha he hp hi, fun m hm => ?_, hf, hl, hs, exchangeFailed_all_touches x.node s,
      fun h hs => exchangeFailed_raises h hs, fun h => kept_failure_leaves h⟩
    rw [failed_node, if_neg hm]
  · refine ⟨_, exec_fails ha he hp (.inl rfl), ?_⟩
    rw [hn] at hs hf ⊢
    obtain ⟨hhalt, hkeg, hchan⟩ := bayNode_lost hf hs
    refine ⟨fun ph hph => ?_, fun hsch hserv => ?_, fun c hc htakes => ?_⟩
    · obtain ⟨⟨h1, h2, h3⟩, ⟨h4, h5, h6⟩, h7⟩ := hhalt ph hph
      exact ⟨h1, h2, h3, h4, h7, h5, h6⟩
    · refine hkeg.resolve_right fun ⟨_, ph, hph, _⟩ => ?_
      cases ph
      · exact hsch hph
      · exact hserv hph
    · rw [hchan c hc]
      exact nodeLost_stale htakes
  · refine ⟨_, exec_fails ha he hp hi, ?_⟩
    rw [hn] at hs hf ⊢
    exact chillerNode_lost hf hs |>.imp_right fun ⟨h1, h2, h3, h4⟩ => ⟨h1, h2, h3, fun hun _ => h4 hun⟩
  · refine ⟨_, exec_fails ha he hp hi, ?_⟩
    rw [hn] at hs hf ⊢
    obtain ⟨h1, h2, h3, h4⟩ := manifoldNode_lost hf hs
    exact ⟨h1, h2, h3, h4, fun hd hfeeds => manifoldNode_lost_ends hf hs hd hfeeds⟩
  · refine ⟨_, exec_fails ha he hp hi, fun y q hq => ?_⟩
    rw [hn] at hs hf ⊢
    exact panelNode_lost hf hs hq
  · refine ⟨_, exec_readyReply ha he hp hj, ?_⟩
    rw [hn] at hl hj ⊢
    exact chillerNode_returned hl (judgeReply_panel hj (by decide))
  · refine ⟨_, exec_readyReply ha he hp hj, ?_⟩
    rw [hn] at hu hj ⊢
    exact chillerNode_seen hu (judgeReply_panel hj (by decide)) hun
  · refine ⟨_, exec_readyReply ha he hp hj, ?_⟩
    rw [hn] at ho hj ⊢
    exact manifoldNode_returned ho (judgeReply_panel hj (by decide))

end Sys2Proof.Proofs
end

section
/-! PROOFS. Pours that end in a hand-over: what their end leaves, the phases of the kegs apart (R66, R133, R155). -/

namespace Sys2Proof.Proofs

open Sys2Proof.Machine Sys2Proof.Safety Sys2Proof.Claims

/-! ## Work on pours -/

/-- What metering and the end of pours leave, whatever becomes of the kegs' phases and volumes; `T` holds the taps whose records and valves it is about. -/
structure PourWork (T : Tap → Prop) (s t : State) : Prop where
  part : t.mgp.part = s.mgp.part
  sentOn : s.mgp.up <+: t.mgp.up
  weight : weight t.mgp.up + inHand t ≤ weight s.mgp.up + inHand s
  pours : ∀ b, inFlight b t ≤ inFlight b s ∧ (t.keg b).pours = (s.keg b).pours - (inFlight b s - inFlight b t)
  sets : ∀ z, (t.tapRec z).set = (s.tapRec z).set
  bays : ∀ z q, (t.tapRec z).pour = some q → ∃ q₀, (s.tapRec z).pour = some q₀ ∧ q₀.bay = q.bay
  other : ∀ z, ¬ T z → still (t.tapRec z) = still (s.tapRec z)
  man : ManWork False s.man t.man
  valve : ∀ z, ¬ T z → t.out (.tapValve z) = s.out (.tapValve z)

/-- The counts that the panel sent stand. -/
def Counts (s t : State) : Prop := ∀ z, (t.tapRec z).lastFlow = (s.tapRec z).lastFlow ∧ (t.tapRec z).lastPresses = (s.tapRec z).lastPresses

theorem Counts.refl (s : State) : Counts s s := fun _ => ⟨rfl, rfl⟩

theorem Counts.trans {s t u : State} (h : Counts s t) (g : Counts t u) : Counts s u := fun z =>
  ⟨(g z).1.trans (h z).1, (g z).2.trans (h z).2⟩

theorem Work.counts {T : Tap → Prop} {loss : Loss} {s t : State} (h : Work T loss s t) : Counts s t := fun z => ⟨(h.taps z).flow, (h.taps z).presses⟩

section
variable {T : Tap → Prop}

theorem Work.pourWork {s t : State} (h : Work T ⟨False, False⟩ s t) : PourWork T s t where
  part := h.part
  sentOn := h.sentOn
  weight := h.weight
  pours := h.pours
  sets z := (h.taps z).set
  bays z q hq := (h.taps z).pour q hq
  other z hz := (h.taps z).still hz
  man := h.man
  valve := h.valve

theorem PourWork.refl (s : State) : PourWork T s s := (Work.refl s).pourWork

theorem PourWork.trans {s t u : State} (h : PourWork T s t) (g : PourWork T t u) : PourWork T s u where
  part := g.part.trans h.part
  sentOn := h.sentOn.trans g.sentOn
  weight := g.weight.trans h.weight
  pours b := by
    obtain ⟨h1, h2⟩ := h.pours b
    obtain ⟨g1, g2⟩ := g.pours b
    exact ⟨g1.trans h1, by omega⟩
  sets z := (g.sets z).trans (h.sets z)
  bays z q hq := by
    obtain ⟨q', hq', hb'⟩ := g.bays z q hq
    obtain ⟨q₀, hq₀, hb₀⟩ := h.bays z q' hq'
    exact ⟨q₀, hq₀, hb₀.trans hb'⟩
  other z hz := (g.other z hz).trans (h.other z hz)
  man := h.man.trans g.man
  valve z hz := (g.valve z hz).trans (h.valve z hz)

theorem PourWork.mono {T' : Tap → Prop} {s t : State} (h : PourWork T s t) (hT : ∀ z, T z → T' z) : PourWork T' s t :=
  { h with other := fun z hz => h.other z fun hT' => hz (hT z hT'), valve := fun z hz => h.valve z fun hT' => hz (hT z hT') }

theorem PourWork.modKeg {b : Bay} {f : Keg → Keg} {s : State} (h : ∀ k, (f k).pours = k.pours) : PourWork T s (s.modKeg b f) := by
  refine { PourWork.refl (T := T) s with pours := fun d => ⟨Nat.le_refl _, ?_⟩ }
  show ((s.modKeg b f).keg d).pours = (s.keg d).pours - (inFlight d s - inFlight d s)
  rw [keg_modKeg, Nat.sub_self, Nat.sub_zero]
  split
  · rename_i e
    subst e
    exact h _
  · rfl

/-- Work on a tap's own record that keeps its settings and the bay of its pour. -/
theorem PourWork.modTap {y : Tap} {f : TapRecord → TapRecord} {s : State} (hy : T y) (hs : (f (s.tapRec y)).set = (s.tapRec y).set)
    (hp : (f (s.tapRec y)).pour.map (·.bay) = (s.tapRec y).pour.map (·.bay)) : PourWork T s (s.modTap y f) := by
  have hb : ∀ z, ((s.modTap y f).tapRec z).pour.map (·.bay) = (s.tapRec z).pour.map (·.bay) := fun z => by
    rw [tapRec_modTap]
    split
    · rename_i e
      subst e
      exact hp
    · rfl
  refine { PourWork.refl (T := T) s with
    weight := by rw [inHand_congr hb]; exact Nat.le_refl _
    pours := fun d => by rw [inFlight_congr hb]; exact ⟨Nat.le_refl _, (Nat.sub_zero _).symm.trans (by rw [Nat.sub_self]; rfl)⟩
    sets := fun z => ?_, bays := fun z q hq => ?_, other := fun z hz => ?_ }
  · rw [tapRec_modTap]
    split
    · rename_i e
      subst e
      exact hs
    · rfl
  · have hz := hb z
    rw [hq, Option.map_some] at hz
    exact Option.map_eq_some_iff.1 hz.symm
  · rw [tapRec_modTap, if_neg]
    rintro rfl
    exact hz hy

theorem PourWork.pour_none {s t : State} (h : PourWork T s t) {y : Tap} (hy : (s.tapRec y).pour = none) : (t.tapRec y).pour = none := by
  cases ht : (t.tapRec y).pour with
  | none => rfl
  | some q =>
    obtain ⟨q₀, hq₀, -⟩ := h.bays y q ht
    rw [hy] at hq₀
    cases hq₀

theorem PourWork.room {s t : State} (h : PourWork T s t) (hs : Room s) : Room t := h.weight.trans hs

theorem PourWork.tapValve_owner {s t : State} (h : PourWork T s t) {y : Tap} (ho : owner (.tapValve y) s = some .tap) : owner (.tapValve y) t = some .tap := by
  obtain ⟨hp, ha, hb⟩ := (tapValve_owner_iff y s).1 ho
  exact (tapValve_owner_iff y t).2 ⟨h.part.trans hp, fun hz => ha (h.man.active y hz), by rw [h.sets]; exact hb⟩

end

/-! ## The manifold has forgotten a pour (R133) -/

/-- R133. No POUR of the tap is queued, and none is in the pour set. -/
def Clear (y : Tap) (m : Man) : Prop := (∀ e ∈ m.queue, NotPourOf y e) ∧ ∀ op, m.op = some op → ∀ x ∈ op.pours, x.tap ≠ y

theorem Clear.kept {y : Tap} {l : Prop} {m m' : Man} (h : Clear y m) (hw : ManWork l m m') : Clear y m' := by
  obtain ⟨hq, hp⟩ := h
  refine ⟨fun e he b hn => ?_, fun op hop x hx hxy => ?_⟩
  · exact hq e (hw.queue e he (by rw [hn]; rfl)) b hn
  · rcases hw.pours op hop x hx with ⟨op', hop', hx'⟩ | ⟨e, he, hn⟩
    · exact hp op' hop' x hx' hxy
    · exact hq e he x.bay (by rw [hn, hxy])

/-- R133. The tap's POUR has left the queue. -/
def unqueued (y : Tap) (s : State) : State :=
  s.modMan fun m => { m with queue := m.queue.filter fun e => match e.need with | .pour t' _ => decide (t' ≠ y) | _ => true }

theorem unqueued_queue (y : Tap) (s : State) : ∀ e ∈ (unqueued y s).man.queue, NotPourOf y e := by
  intro e he b hn
  have hf := (List.mem_filter.1 he).2
  rw [hn] at hf
  exact of_decide_eq_true hf rfl

theorem pourEnded_clear (y : Tap) (s : State) : Clear y (pourEnded y s).man := by
  have hq := unqueued_queue y s
  show Clear y (match (unqueued y s).man.op with | some op => _ | none => unqueued y s).man
  split
  · rename_i op hop
    split
    · rename_i p hp
      refine Clear.kept (m := ((unqueued y s).modMan fun m => { m with op := some { op with pours := op.pours.filter fun p => decide (p.tap ≠ y) } }).man) ⟨hq, ?_⟩
        (unlessWrite_work (T := fun _ => True) (loss := ⟨True, True⟩) _ (by simp)).man
      rintro op' hop' x hx
      cases hop'
      exact of_decide_eq_true (List.mem_filter.1 hx).2
    · rename_i hp
      refine ⟨hq, fun op' hop' x hx hxy => ?_⟩
      cases (show some op' = some op from hop'.symm.trans hop)
      exact List.find?_eq_none.1 hp x hx (decide_eq_true hxy)
  · rename_i hop
    exact ⟨hq, fun op' hop' => by cases (show some op' = none from hop'.symm.trans hop)⟩

/-! ## A pour that has ended (R155) -/

/-- R133, R155. Pour `p` of tap `y` has ended for `reason`. -/
structure Ended (y : Tap) (p : Pour) (refused : Bool) (reason : PourReason) (s t : State) : Prop where
  gone : (t.tapRec y).pour = none
  count : inFlight p.bay t ≤ inFlight p.bay s ∧ (t.keg p.bay).pours = (s.keg p.bay).pours - (inFlight p.bay s - inFlight p.bay t)
  recorded : Room s → Recorded y p refused reason t
  valve : p.pouring = true → owner (.tapValve y) s = some .tap → t.out (.tapValve y) = 0
  clear : Clear y t.man

theorem endPour_clear (reason : PourReason) {y : Tap} {p : Pour} {s : State} (h : (s.tapRec y).pour = some p) : Clear y (endPour reason y s).man := by
  have hn : Clear y (noticed y p s).man := pourEnded_clear y _
  have hg : HaltWork (noticed y p s) (pourEndCore reason y p s) := by
    have hp : ((noticed y p s).tapRec y).pour = some p := (pour_of_still (pourEnded_pour y p s)).trans h
    have hg : HaltWork (noticed y p s) (pourGoneFrom y p (pourReport y p reason) (noticed y p s)) := Work.pourGone _ trivial hp
    rw [pourEndCore_eq]
    exact Work.branch (fun _ => hg.trans (startBlink_work _ trivial)) fun _ => hg
  rw [endPour_eq h]
  split
  · exact hn.kept (hg.trans (tapIdle_work y _)).man
  · exact hn.kept hg.man

theorem endPour_ended (reason : PourReason) {y : Tap} {p : Pour} {s : State} (h : (s.tapRec y).pour = some p) :
    Ended y p (!p.pouring && reason.refuses) reason s (endPour reason y s) where
  gone := endPour_gone reason y s
  count := (endPour_work (T := fun _ => True) (loss := ⟨False, False⟩) reason s trivial).pours p.bay
  recorded := endPour_recorded reason h
  valve := endPour_valve reason h
  clear := endPour_clear reason h

section
variable {T : Tap → Prop} {y : Tap} {p : Pour} {refused : Bool} {reason : PourReason} {s t u : State}

/-- What other taps' work leaves of a pour that has ended. -/
theorem Ended.kept (h : Ended y p refused reason s t) (hw : PourWork T t u) (hy : ¬ T y) : Ended y p refused reason s u where
  gone := hw.pour_none h.gone
  count := by
    obtain ⟨h1, h2⟩ := h.count
    obtain ⟨g1, g2⟩ := hw.pours p.bay
    exact ⟨g1.trans h1, by omega⟩
  recorded hr := recorded_kept (h.recorded hr) hw.sentOn
  valve hp ho := (hw.valve y hy).trans (h.valve hp ho)
  clear := h.clear.kept hw.man

/-- What went before the pour's end. -/
theorem Ended.after (hw : PourWork T s t) (h : Ended y p refused reason t u) : Ended y p refused reason s u where
  gone := h.gone
  count := by
    obtain ⟨h1, h2⟩ := h.count
    obtain ⟨g1, g2⟩ := hw.pours p.bay
    exact ⟨h1.trans g1, by omega⟩
  recorded hr := h.recorded (hw.room hr)
  valve hp ho := h.valve hp (hw.tapValve_owner ho)
  clear := h.clear

theorem room_of_length (h : s.mgp.up.length < 12) : Room s := by
  have hw := weight_le s.mgp.up
  have hi := inHand_le s
  unfold Room
  omega

theorem Ended.pourEnded (h : Ended y p refused reason s t) : PourEnded y p refused reason s t :=
  ⟨h.gone, h.count.2, fun hl => h.recorded (room_of_length hl), fun hp ho _ => h.valve hp ho, h.clear.1, h.clear.2⟩

end

end Sys2Proof.Proofs
end

section
/-! PROOFS. Metering: what one tap's count of a hand-over comes to (R66, R67, R149, R153, R155). -/

namespace Sys2Proof.Proofs

open Sys2Proof.Machine Sys2Proof.Safety Sys2Proof.Claims

/-! ## Plain updates -/

theorem modTap_congr {y : Tap} {f g : TapRecord → TapRecord} {s : State} (h : f (s.tapRec y) = g (s.tapRec y)) : s.modTap y f = s.modTap y g := by
  have hu : upd s.tap.taps y f = upd s.tap.taps y g := by
    exact congrArg (fun a => s.tap.taps.set y.val a y.isLt) h
  show ({ s with tap := { s.tap with taps := upd s.tap.taps y f } } : State) = { s with tap := { s.tap with taps := upd s.tap.taps y g } }
  rw [hu]

theorem modKeg_eq_self {b : Bay} {f : Keg → Keg} {s : State} (h : f (s.keg b) = s.keg b) : s.modKeg b f = s := by
  have hu : upd s.kegs b f = s.kegs := upd_eq_self h
  show ({ s with kegs := upd s.kegs b f } : State) = s
  rw [hu]

theorem flowDelta_eq (last flow : BitVec 16) : flowDelta last flow = (flow - last).toNat := by
  have h := BitVec.toNat_sub flow last
  have hl := last.isLt
  unfold flowDelta
  omega

/-! ## The count (R153) -/

/-- R149. The tap's flow count is taken, and its pour has its volume metered. -/
def countedTap (x : Vector PanelTap 2) (y : Tap) (s : State) : State :=
  s.modTap y fun r => { r with lastFlow := some x[y].flow, pour := r.pour.map fun p => (meteredAt x y s p).1 }

/-- R149, R153. The tap's flow count is taken: its pour has its volume metered, and its keg debited. -/
def counted (x : Vector PanelTap 2) (y : Tap) (s : State) : State :=
  match (s.tapRec y).pour with
  | some p => debit p.bay (meteredAt x y s p).2 (countedTap x y s)
  | none => countedTap x y s

/-- R153. Metering changes neither the pour's keg nor what was asked of it. -/
theorem meteredAt_fields (x : Vector PanelTap 2) (y : Tap) (s : State) (p : Pour) :
    (meteredAt x y s p).1.bay = p.bay ∧ (meteredAt x y s p).1.pouring = p.pouring ∧ (meteredAt x y s p).1.target = p.target := by
  unfold meteredAt metering
  split
  · split <;> exact ⟨rfl, rfl, rfl⟩
  · exact ⟨rfl, rfl, rfl⟩

/-- R149. What does not flow, or pours not, is not metered. -/
theorem meteredAt_idle {x : Vector PanelTap 2} {y : Tap} {s : State} {p : Pour} (h : p.pouring = false) : meteredAt x y s p = (p, 0) := by
  unfold meteredAt
  split
  · rw [h]
    rfl
  · rfl

theorem meteredAt_congr {x : Vector PanelTap 2} {y : Tap} {s t : State} (h : still (t.tapRec y) = still (s.tapRec y)) (p : Pour) : meteredAt x y t p = meteredAt x y s p := by
  have hf : (still (t.tapRec y)).lastFlow = (still (s.tapRec y)).lastFlow := congrArg _ h
  have hs : (still (t.tapRec y)).set = (still (s.tapRec y)).set := congrArg _ h
  have hf : (t.tapRec y).lastFlow = (s.tapRec y).lastFlow := hf
  have hs : (t.tapRec y).set = (s.tapRec y).set := hs
  unfold meteredAt
  rw [hf, hs]

theorem drawnFrom_congr {x : Vector PanelTap 2} {b : Bay} {y : Tap} {s t : State} (h : still (t.tapRec y) = still (s.tapRec y)) : drawnFrom x b y t = drawnFrom x b y s := by
  unfold drawnFrom
  rw [pour_of_still h]
  simp only [meteredAt_congr h]

theorem drawnFrom_some {x : Vector PanelTap 2} {y : Tap} {s : State} {p : Pour} (h : (s.tapRec y).pour = some p) (b : Bay) :
    drawnFrom x b y s = if p.bay = b then (meteredAt x y s p).2 else 0 := by
  unfold drawnFrom
  rw [h]

theorem drawnFrom_none {x : Vector PanelTap 2} {y : Tap} {s : State} (h : (s.tapRec y).pour = none) (b : Bay) : drawnFrom x b y s = 0 := by
  unfold drawnFrom
  rw [h]

theorem counted_some {x : Vector PanelTap 2} {y : Tap} {s : State} {p : Pour} (h : (s.tapRec y).pour = some p) :
    counted x y s = debit p.bay (meteredAt x y s p).2 (countedTap x y s) := by
  unfold counted
  rw [h]

theorem counted_tap (x : Vector PanelTap 2) (y : Tap) (s : State) : (counted x y s).tap = (countedTap x y s).tap := by
  unfold counted
  split <;> rfl

theorem counted_tapRec (x : Vector PanelTap 2) (y z : Tap) (s : State) :
    (counted x y s).tapRec z =
      if z = y then { s.tapRec y with lastFlow := some x[y].flow, pour := (s.tapRec y).pour.map fun p => (meteredAt x y s p).1 } else s.tapRec z := by
  rw [State.tapRec, counted_tap]
  exact tapRec_modTap _ _ _ _

theorem counted_pour {x : Vector PanelTap 2} {y : Tap} {s : State} {p : Pour} (h : (s.tapRec y).pour = some p) :
    ((counted x y s).tapRec y).pour = some (meteredAt x y s p).1 := by
  rw [counted_tapRec, if_pos rfl, h]
  rfl

/-- R66, R153. What has been debited. -/
theorem counted_remaining (x : Vector PanelTap 2) (y : Tap) (b : Bay) (s : State) : ((counted x y s).keg b).remaining = (s.keg b).remaining - drawnFrom x b y s := by
  cases h : (s.tapRec y).pour with
  | none =>
    unfold counted
    rw [h, drawnFrom_none h]
    rfl
  | some p =>
    rw [counted_some h, drawnFrom_some h, debit, keg_modKeg]
    by_cases e : b = p.bay
    · subst e
      rw [if_pos rfl, if_pos rfl]
      rfl
    · rw [if_neg e, if_neg fun i => e i.symm]
      rfl

theorem counted_work (x : Vector PanelTap 2) (y : Tap) (s : State) : PourWork (fun z => z = y) s (counted x y s) := by
  have ht : PourWork (fun z => z = y) s (countedTap x y s) := by
    refine PourWork.modTap rfl rfl ?_
    rw [Option.map_map]
    congr 1
    funext p
    exact (meteredAt_fields x y s p).1
  unfold counted
  split
  · exact ht.trans (PourWork.modKeg fun _ => rfl)
  · exact ht

theorem counted_touches (x : Vector PanelTap 2) (y : Tap) (s : State) : Touches [.kegs, .volumes, .taps] s (counted x y s) := by
  have ht : Touches [.kegs, .volumes, .taps] s (countedTap x y s) :=
    modTap_at (Touches.refl _ s) (.inl (by decide)) (.inr fun _ => rfl) (.inr fun _ => rfl) (.inr fun h => by rw [h]; rfl)
  unfold counted
  split
  · exact debit_touches ht (by decide) (by decide)
  · exact ht

/-! ## A spent keg (R67) -/

/-- R67. A SERVING keg becomes SPENT. -/
def spentKeg (b : Bay) (s : State) : State := raise .kegSpent (some (bayNum b)) (leaveControl b (s.modKeg b fun k => { k with phase := .spent }))

theorem becomeSpent_eq (b : Bay) (s : State) : becomeSpent b s = if (s.keg b).phase = .serving then (true, spentKeg b s) else (false, s) := rfl

theorem afterSpent_work {T : Tap → Prop} {loss : Loss} (b : Bay) (s : State) : Work T loss (s.modKeg b fun k => { k with phase := .spent }) (spentKeg b s) :=
  (leaveControl_work b _).trans (Work.raise _ _ _)

theorem spentKeg_work {T : Tap → Prop} (b : Bay) (s : State) : PourWork T s (spentKeg b s) := by
  have hm : PourWork T s (s.modKeg b fun k => { k with phase := .spent }) := PourWork.modKeg fun k => rfl
  exact hm.trans (afterSpent_work b s).pourWork

theorem spentKeg_counts (b : Bay) (s : State) : Counts s (spentKeg b s) :=
  fun z => (afterSpent_work (T := fun _ => False) (loss := ⟨False, False⟩) b s).counts z

theorem spentKeg_keg (b : Bay) (s : State) :
    ((spentKeg b s).keg b).phase = .spent ∧ ((spentKeg b s).keg b).underControl = false ∧ Raised .kegSpent (bayNum b) (spentKeg b s) ∧
      ∀ d, d ≠ b → ((spentKeg b s).keg d).phase = (s.keg d).phase := by
  have hw := afterSpent_work (T := fun _ => False) (loss := ⟨False, False⟩) b s
  have hr : Touches [.up, .atn] (leaveControl b (s.modKeg b fun k => { k with phase := .spent })) (spentKeg b s) :=
    raise_touches (Touches.refl _ _) (by decide) (by decide)
  have hphase := fun d => ((hw.kegs d).resolve_right fun ⟨hl, _⟩ => hl).1
  refine ⟨?_, hr .released (by decide) b (leaveControl_underControl b _), raise_raised _ _ _, fun d hd => ?_⟩
  · rw [hphase, keg_modKeg, if_pos rfl]
  · rw [hphase, keg_modKeg, if_neg hd]

theorem spentKeg_volumes (b : Bay) (s : State) : Same .volumes s (spentKeg b s) := by
  have hm : Same .volumes s (s.modKeg b fun k => { k with phase := .spent }) := by
    show ((s.modKeg b fun k => { k with phase := .spent }).kegs).map _ = s.kegs.map _
    exact upd_map _ _ _ _ fun _ => rfl
  have hr : Touches [.image, .chl, .man, .kegs, .taps, .free, .up, .atn] (s.modKeg b fun k => { k with phase := .spent }) (spentKeg b s) :=
    raise_touches (leaveControl_touches (Touches.refl _ _) (by decide) (by decide) (by decide) (by decide) (by decide) (by decide)) (by decide) (by decide)
  exact hm.trans (hr .volumes (by decide))

/-! ## What one tap's count comes to (R149, R153) -/

/-- R153, R155, R67. What the count of tap `y` comes to: its pour runs on, or it is DONE, or EMPTY, the keg having been spent already or by this debit. -/
inductive Metered (x : Vector PanelTap 2) (y : Tap) (s : State) : Option Bay → State → Prop
  | runs (h : ∀ p, (s.tapRec y).pour = some p → (meteredAt x y s p).2 = 0 ∨
      ((counted x y s).keg p.bay).remaining ≠ 0 ∧ (meteredAt x y s p).1.metered < p.target) : Metered x y s none (counted x y s)
  | done {p : Pour} (hp : (s.tapRec y).pour = some p) (hv : 0 < (meteredAt x y s p).2) (hr : ((counted x y s).keg p.bay).remaining ≠ 0)
      (ht : p.target ≤ (meteredAt x y s p).1.metered) : Metered x y s none (endPour .done y (counted x y s))
  | empty {p : Pour} (hp : (s.tapRec y).pour = some p) (hv : 0 < (meteredAt x y s p).2) (hr : ((counted x y s).keg p.bay).remaining = 0)
      (hs : (s.keg p.bay).phase ≠ .serving) : Metered x y s none (endPour .empty y (counted x y s))
  | spent {p : Pour} (hp : (s.tapRec y).pour = some p) (hv : 0 < (meteredAt x y s p).2) (hr : ((counted x y s).keg p.bay).remaining = 0)
      (hs : (s.keg p.bay).phase = .serving) : Metered x y s (some p.bay) (spentKeg p.bay (endPour .empty y (counted x y s)))

theorem endPour_phase (reason : PourReason) (y : Tap) (b : Bay) (s : State) : ((endPour reason y s).keg b).phase = (s.keg b).phase := by
  have ht : Touches [.image, .man, .kegs, .taps, .up, .atn] s (endPour reason y s) :=
    endPour_touches (Touches.refl _ s) (by decide) (by decide) (by decide) (by decide) (by decide) (by decide)
  exact phase_of_same (ht .phases (by decide)) b

/-- R149. A count that meters nothing. -/
theorem counted_idle {x : Vector PanelTap 2} {y : Tap} {s : State} (h : ∀ p, (s.tapRec y).pour = some p → meteredAt x y s p = (p, 0)) :
    counted x y s = s.modTap y fun r => { r with lastFlow := some x[y].flow } := by
  have ht : countedTap x y s = s.modTap y fun r => { r with lastFlow := some x[y].flow } := by
    refine modTap_congr ?_
    cases hp : (s.tapRec y).pour with
    | none => simp
    | some p => simp [h p hp]
  cases hp : (s.tapRec y).pour with
  | none =>
    unfold counted
    rw [hp, ht]
  | some p =>
    rw [counted_some hp, h p hp, ht]
    exact modKeg_eq_self rfl

/-- R153. The pour's record once its delta is metered, as the model writes it. -/
theorem meteredAt_pouring {x : Vector PanelTap 2} {y : Tap} {s : State} {p : Pour} {last : BitVec 16} (hl : (s.tapRec y).lastFlow = some last)
    (hp : p.pouring = true) :
    meteredAt x y s p =
      (p.meter (x[y].flow - last).toNat (meteredVolume p.carry (x[y].flow - last).toNat (s.tapRec y).set.pulsesPerLitre).1
        (meteredVolume p.carry (x[y].flow - last).toNat (s.tapRec y).set.pulsesPerLitre).2,
       (meteredVolume p.carry (x[y].flow - last).toNat (s.tapRec y).set.pulsesPerLitre).1) := by
  unfold meteredAt
  rw [hl]
  simp only [hp, if_true, flowDelta_eq]
  rfl

theorem modTap_modTap (y : Tap) (f g : TapRecord → TapRecord) (s : State) : (s.modTap y f).modTap y g = s.modTap y fun r => g (f r) := by
  show ({ s with tap := { s.tap with taps := upd (upd s.tap.taps y f) y g } } : State) = _
  rw [upd_upd]
  rfl

/-- R153. What the metering of a POURING pour's delta comes to. -/
theorem meterPour_eq {x : Vector PanelTap 2} {y : Tap} {s : State} {p : Pour} {last : BitVec 16} (hr : (s.tapRec y).pour = some p)
    (hl : (s.tapRec y).lastFlow = some last) (hp : p.pouring = true) :
    meterPour y p (x[y].flow - last).toNat (s.modTap y fun r => { r with lastFlow := some x[y].flow }) =
      if (meteredAt x y s p).2 = 0 then (none, counted x y s)
      else if ((counted x y s).keg p.bay).remaining = 0 then
        match becomeSpent p.bay (endPour .empty y (counted x y s)) with
        | (true, s) => (some p.bay, s)
        | (false, s) => (none, s)
      else if p.target ≤ (meteredAt x y s p).1.metered then (none, endPour .done y (counted x y s))
      else (none, counted x y s) := by
  have hm := meteredAt_pouring (x := x) hl hp
  have hset : ((s.modTap y fun r => { r with lastFlow := some x[y].flow }).tapRec y).set = (s.tapRec y).set := by rw [tapRec_modTap, if_pos rfl]
  have hct : countedTap x y s = (s.modTap y fun r => { r with lastFlow := some x[y].flow }).modTap y fun r => { r with pour := some (meteredAt x y s p).1 } := by
    rw [modTap_modTap]
    exact modTap_congr (by rw [hr]; rfl)
  have hc := counted_some (x := x) hr
  rw [hct] at hc
  have hzero : (meteredAt x y s p).2 = 0 →
      counted x y s = (s.modTap y fun r => { r with lastFlow := some x[y].flow }).modTap y fun r => { r with pour := some (meteredAt x y s p).1 } := fun h => by
    rw [hc, h]
    exact modKeg_eq_self rfl
  unfold meterPour
  rw [hset]
  dsimp only
  by_cases hv : (meteredAt x y s p).2 = 0
  · rw [if_pos hv, if_pos (by rw [hm] at hv; exact hv), hzero hv, hm]
  · rw [if_neg hv, if_neg (by rw [hm] at hv; exact hv), hc, hm] <;> rfl

theorem meterTap_metered (x : Vector PanelTap 2) (y : Tap) (s : State) : Metered x y s (meterTap y x[y].flow s).1 (meterTap y x[y].flow s).2 := by
  have hidle : (∀ p, (s.tapRec y).pour = some p → meteredAt x y s p = (p, 0)) →
      Metered x y s none (s.modTap y fun r => { r with lastFlow := some x[y].flow }) := fun h => by
    have hm : Metered x y s none (counted x y s) := .runs fun p hp => .inl (by rw [h p hp])
    rwa [counted_idle h] at hm
  unfold meterTap
  dsimp only
  split
  · rename_i last p hl hp
    split
    · rename_i hpour
      rw [meterPour_eq hp hl hpour]
      split_ifs with hv hrem ht
      · exact .runs fun q hq => by
          cases hp.symm.trans hq
          exact .inl hv
      · have hphase : ((endPour .empty y (counted x y s)).keg p.bay).phase = (s.keg p.bay).phase :=
          (endPour_phase _ _ _ _).trans (phase_of_same (counted_touches x y s .phases (by decide)) _)
        rw [becomeSpent_eq, hphase]
        split_ifs with hs
        · exact .spent hp (Nat.pos_of_ne_zero hv) hrem hs
        · exact .empty hp (Nat.pos_of_ne_zero hv) hrem hs
      · exact .done hp (Nat.pos_of_ne_zero hv) hrem ht
      · exact .runs fun q hq => by
          cases hp.symm.trans hq
          exact .inr ⟨hrem, Nat.not_le.1 ht⟩
    · rename_i hpour
      exact hidle fun q hq => by
        rw [hp] at hq
        cases hq
        exact meteredAt_idle (Bool.eq_false_iff.2 hpour)
  · rename_i hn
    refine hidle fun p hp => ?_
    unfold meteredAt
    split
    · exact absurd hp (hn _ _ ‹_›)
    · rfl

end Sys2Proof.Proofs
end

section
/-! PROOFS. Both taps' counts of a hand-over, tap 1 before tap 2, with the spent notices (R67, R149, R153, R156). -/

namespace Sys2Proof.Proofs

open Sys2Proof.Machine Sys2Proof.Safety Sys2Proof.Claims

/-! ## One tap's count -/

/-- What metering reaches. -/
def meterParts : List Part := [.image, .chl, .man, .kegs, .phases, .volumes, .taps, .up, .atn, .free]

theorem endPour_meterParts (reason : PourReason) (y : Tap) (s : State) : Touches meterParts s (endPour reason y s) :=
  endPour_touches (Touches.refl _ s) (by decide) (by decide) (by decide) (by decide) (by decide) (by decide)

theorem spentKeg_touches (b : Bay) (s : State) : Touches meterParts s (spentKeg b s) := by
  have hm : Touches meterParts s (s.modKeg b fun k => { k with phase := .spent }) :=
    modKeg_touches (Touches.refl _ s) (by decide) (.inr fun _ => rfl) (.inl (by decide)) (.inl (by decide)) (.inr fun _ => ⟨rfl, fun h => by cases h⟩) (.inr fun _ h => h)
  exact raise_touches (leaveControl_touches hm (by decide) (by decide) (by decide) (by decide) (by decide) (by decide)) (by decide) (by decide)

theorem remaining_of_same {s t : State} (h : Same .volumes s t) (b : Bay) : (t.keg b).remaining = (s.keg b).remaining := by
  have hv := congrArg (·[b]) (show t.kegs.map (fun k => (k.loaded, k.remaining)) = s.kegs.map (fun k => (k.loaded, k.remaining)) from h)
  simp only [Fin.getElem_fin, Vector.getElem_map, Prod.mk.injEq] at hv
  exact hv.2

theorem endPour_remaining (reason : PourReason) (y : Tap) (b : Bay) (s : State) : ((endPour reason y s).keg b).remaining = (s.keg b).remaining := by
  have ht : Touches [.image, .man, .kegs, .taps, .up, .atn] s (endPour reason y s) :=
    endPour_touches (Touches.refl _ s) (by decide) (by decide) (by decide) (by decide) (by decide) (by decide)
  exact remaining_of_same (ht .volumes (by decide)) b

theorem endPour_pourWork (reason : PourReason) (y : Tap) (s : State) : PourWork (fun z => z = y) s (endPour reason y s) :=
  (endPour_work (T := fun z => z = y) reason s rfl).pourWork

theorem endPour_counts (reason : PourReason) (y : Tap) (s : State) : Counts s (endPour reason y s) :=
  (endPour_work (T := fun _ => True) (loss := ⟨True, True⟩) reason s trivial).counts

/-- The keg of bay `b` has been spent. -/
def Spent (b : Bay) (t : State) : Prop := (t.keg b).phase = .spent ∧ (t.keg b).underControl = false ∧ Raised .kegSpent (bayNum b) t

theorem Spent.kept {b : Bay} {s t : State} (h : Spent b s) (hp : (t.keg b).phase = (s.keg b).phase) (ht : Touches meterParts s t) : Spent b t := by
  obtain ⟨h1, h2, h3⟩ := h
  have hr : ∀ b : Bay, (s.keg b).underControl = false → (t.keg b).underControl = false := ht .released (by decide)
  exact ⟨hp.trans h1, hr b h2, raised_kept h3 (ht .flags (by decide))⟩

section
variable {x : Vector PanelTap 2} {y : Tap} {s t : State} {o : Option Bay} (h : Metered x y s o t)
include h

theorem Metered.work : PourWork (fun z => z = y) s t := by
  have hc := counted_work x y s
  cases h with
  | runs => exact hc
  | done => exact hc.trans (endPour_pourWork _ y _)
  | empty => exact hc.trans (endPour_pourWork _ y _)
  | spent => exact (hc.trans (endPour_pourWork _ y _)).trans (spentKeg_work _ _)

theorem Metered.touches : Touches meterParts s t := by
  have hc : Touches meterParts s (counted x y s) := (counted_touches x y s).mono (by decide)
  cases h with
  | runs => exact hc
  | done => exact hc.trans (endPour_meterParts _ y _)
  | empty => exact hc.trans (endPour_meterParts _ y _)
  | spent => exact (hc.trans (endPour_meterParts _ y _)).trans (spentKeg_touches _ _)

theorem Metered.fromCounted : Counts (counted x y s) t := by
  cases h with
  | runs => exact Counts.refl _
  | done => exact endPour_counts _ y _
  | empty => exact endPour_counts _ y _
  | spent => exact (endPour_counts _ y _).trans (spentKeg_counts _ _)

/-- R149. The tap's flow count has been taken, and no other. -/
theorem Metered.flow (z : Tap) : (t.tapRec z).lastFlow = (if z = y then some x[y].flow else (s.tapRec z).lastFlow) ∧ (t.tapRec z).lastPresses = (s.tapRec z).lastPresses := by
  obtain ⟨hf, hp⟩ := h.fromCounted z
  rw [hf, hp, counted_tapRec]
  split
  · rename_i e
    subst e
    exact ⟨rfl, rfl⟩
  · exact ⟨rfl, rfl⟩

/-- R66, R153. The debit is all that a count takes from a keg. -/
theorem Metered.remaining (b : Bay) : (t.keg b).remaining = (s.keg b).remaining - drawnFrom x b y s := by
  rw [← counted_remaining]
  cases h with
  | runs => rfl
  | done => exact endPour_remaining _ y b _
  | empty => exact endPour_remaining _ y b _
  | spent => exact (remaining_of_same (spentKeg_volumes _ _) b).trans (endPour_remaining _ y b _)

/-- R67. A count changes no phase but that of the keg it spends. -/
theorem Metered.phase {b : Bay} (hb : o ≠ some b) : (t.keg b).phase = (s.keg b).phase := by
  have hc : ((counted x y s).keg b).phase = (s.keg b).phase := phase_of_same (counted_touches x y s .phases (by decide)) b
  cases h with
  | runs => exact hc
  | done => exact (endPour_phase _ y b _).trans hc
  | empty => exact (endPour_phase _ y b _).trans hc
  | @spent p =>
    obtain ⟨-, -, -, hd⟩ := spentKeg_keg p.bay (endPour .empty y (counted x y s))
    exact (hd b fun e => hb (by rw [e])).trans ((endPour_phase _ y b _).trans hc)

/-- R67. The keg that a count spends. -/
theorem Metered.notice {b : Bay} (hb : o = some b) :
    (s.keg b).phase = .serving ∧ Spent b t ∧ 0 < drawnFrom x b y s ∧ (s.keg b).remaining - drawnFrom x b y s = 0 ∧ (t.tapRec y).pour = none := by
  cases h with
  | runs | done | empty => cases hb
  | @spent p hp hv hr hs =>
    cases hb
    obtain ⟨h1, h2, h3, -⟩ := spentKeg_keg p.bay (endPour .empty y (counted x y s))
    have hd := drawnFrom_some (x := x) hp p.bay
    rw [if_pos rfl] at hd
    rw [counted_remaining] at hr
    exact ⟨hs, ⟨h1, h2, h3⟩, by rw [hd]; exact hv, hr, (spentKeg_work (T := fun _ => True) _ _).pour_none (endPour_gone _ y _)⟩

/-- A pour of another tap is as it was. -/
theorem Metered.other {z : Tap} (hz : z ≠ y) : still (t.tapRec z) = still (s.tapRec z) := h.work.other z hz

theorem Metered.runs_of {p : Pour} (hp : (s.tapRec y).pour = some p)
    (hr : (meteredAt x y s p).2 = 0 ∨ (s.keg p.bay).remaining - (meteredAt x y s p).2 ≠ 0 ∧ (meteredAt x y s p).1.metered < p.target) :
    o = none ∧ (t.tapRec y).pour = some (meteredAt x y s p).1 := by
  have hd := drawnFrom_some (x := x) hp p.bay
  rw [if_pos rfl] at hd
  rw [← hd, ← counted_remaining] at hr
  cases h with
  | runs => exact ⟨rfl, counted_pour hp⟩
  | done hq hv hrem ht | empty hq hv hrem hs | spent hq hv hrem hs =>
    cases hp.symm.trans hq
    rw [hd] at hr
    omega

end

theorem pouring_of_volume {x : Vector PanelTap 2} {y : Tap} {s : State} {p : Pour} (hv : 0 < (meteredAt x y s p).2) : p.pouring = true := by
  by_contra hp
  rw [meteredAt_idle (Bool.eq_false_iff.2 hp)] at hv
  cases hv

/-- R155. The pour that a count ends. -/
theorem counted_ended {x : Vector PanelTap 2} {y : Tap} {s : State} {p : Pour} (hp : (s.tapRec y).pour = some p) (hv : 0 < (meteredAt x y s p).2)
    (reason : PourReason) : Ended y (meteredAt x y s p).1 false reason s (endPour reason y (counted x y s)) := by
  have he := Ended.after (counted_work x y s) (endPour_ended reason (counted_pour (x := x) hp))
  obtain ⟨-, hpour, -⟩ := meteredAt_fields x y s p
  rw [hpour, pouring_of_volume hv] at he
  exact he

section
variable {x : Vector PanelTap 2} {y : Tap} {s t : State} {o : Option Bay} (h : Metered x y s o t) {p : Pour} (hp : (s.tapRec y).pour = some p)
  (hv : 0 < (meteredAt x y s p).2)
include h hp hv

/-- R155. A metered volume at the target, with beer left, ends the pour DONE. -/
theorem Metered.done_of (hr : (s.keg p.bay).remaining - (meteredAt x y s p).2 ≠ 0) (ht : p.target ≤ (meteredAt x y s p).1.metered) :
    o = none ∧ Ended y (meteredAt x y s p).1 false .done s t := by
  have hd := drawnFrom_some (x := x) hp p.bay
  rw [if_pos rfl] at hd
  rw [← hd, ← counted_remaining] at hr
  cases h with
  | runs hq => exact absurd (hq p hp) (by omega)
  | done hq => exact ⟨rfl, counted_ended hp hv .done⟩
  | empty hq _ hrem | spent hq _ hrem =>
    cases hp.symm.trans hq
    exact absurd hrem hr

/-- R67, R155. A debit answered with 0 ends the pour EMPTY, and spends a SERVING keg. -/
theorem Metered.emptied_of (hr : (s.keg p.bay).remaining - (meteredAt x y s p).2 = 0) :
    (o = if (s.keg p.bay).phase = .serving then some p.bay else none) ∧ Ended y (meteredAt x y s p).1 false .empty s t := by
  have hd := drawnFrom_some (x := x) hp p.bay
  rw [if_pos rfl] at hd
  rw [← hd, ← counted_remaining] at hr
  cases h with
  | runs hq => exact absurd (hq p hp) (by omega)
  | done hq _ hrem =>
    cases hp.symm.trans hq
    exact absurd hr hrem
  | empty hq _ _ hs =>
    cases hp.symm.trans hq
    exact ⟨(if_neg hs).symm, counted_ended hp hv .empty⟩
  | spent hq _ _ hs =>
    cases hp.symm.trans hq
    refine ⟨(if_pos hs).symm, ?_⟩
    have he := counted_ended (x := x) hp hv .empty
    exact he.kept (T := fun _ => False) (spentKeg_work _ _) id

end

/-- R149. A tap that is not POURING has its count taken, and nothing more. -/
theorem Metered.idle {x : Vector PanelTap 2} {y : Tap} {s t : State} {o : Option Bay} (h : Metered x y s o t)
    (hp : ∀ p, (s.tapRec y).pour = some p → p.pouring = false) : o = none ∧ t = s.modTap y fun r => { r with lastFlow := some x[y].flow } := by
  have hzero : ∀ p, (s.tapRec y).pour = some p → meteredAt x y s p = (p, 0) := fun p hq => meteredAt_idle (hp p hq)
  cases h with
  | runs => exact ⟨rfl, counted_idle hzero⟩
  | done hq hv | empty hq hv | spent hq hv =>
    rw [hzero _ hq] at hv
    cases hv

/-! ## Both taps (R149, R156) -/

/-- R149, R156. What both counts come to: tap 2's pour is not from a keg that tap 1's count spent, or it ends SPENT before its own count, or after it. -/
inductive MeteredBoth (x : Vector PanelTap 2) (s : State) : State → Prop
  | apart {o₁ o₂ : Option Bay} {s₁ s₂ : State} (h₁ : Metered x 0 s o₁ s₁) (hb : ∀ b, o₁ = some b → ∀ q, (s₁.tapRec 1).pour = some q → q.bay ≠ b)
      (h₂ : Metered x 1 s₁ o₂ s₂) : MeteredBoth x s (noticeFor 1 o₂ s₂)
  | before {q : Pour} {s₁ s₂ : State} {free : Free} (h₁ : Metered x 0 s (some q.bay) s₁) (hq : (s₁.tapRec 1).pour = some q)
      (h₂ : Metered x 1 (endPour .spent 1 (s₁.setFree free)) none s₂) : MeteredBoth x s s₂
  | after {q : Pour} {s₁ s₂ : State} {free : Free} (h₁ : Metered x 0 s (some q.bay) s₁) (hq : (s₁.tapRec 1).pour = some q)
      (h₂ : Metered x 1 (s₁.setFree free) none s₂) : MeteredBoth x s (endPour .spent 1 s₂)

theorem poursFrom_iff (b : Bay) (y : Tap) (s : State) : poursFrom b y s = true ↔ ∃ q, (s.tapRec y).pour = some q ∧ q.bay = b := by
  unfold poursFrom
  cases h : (s.tapRec y).pour <;> simp

/-- R156. The spent notice ends the other tap's pour, if it is from that keg. -/
theorem spentNotice_eq {b : Bay} {y z : Tap} (hz : otherTap y = z) {s : State} (h : ∀ q, (s.tapRec z).pour = some q → q.bay = b) :
    spentNotice b y s = endPour .spent z s := by
  unfold spentNotice
  rw [hz]
  split
  · rfl
  · rename_i hn
    cases hp : (s.tapRec z).pour with
    | none => rw [endPour_none hp]
    | some q => exact absurd ((poursFrom_iff b z s).2 ⟨q, hp, h q hp⟩) hn

/-- R67. A keg that is spent already is not spent again by its other tap. -/
theorem Metered.not_spent_twice {x : Vector PanelTap 2} {y : Tap} {s t : State} {o : Option Bay} (h : Metered x y s o t)
    (hp : ∀ q, (s.tapRec y).pour = some q → (s.keg q.bay).phase ≠ .serving) : o = none := by
  cases h with
  | runs | done | empty => rfl
  | spent hq _ _ hs => exact absurd hs (hp _ hq)

theorem meterBoth_metered (x : Vector PanelTap 2) (s : State) : MeteredBoth x s (meterBoth x[0].flow x[1].flow s) := by
  have h₁ : Metered x 0 s (meterTap 0 x[0].flow s).1 (meterTap 0 x[0].flow s).2 := meterTap_metered x 0 s
  have h₂ : ∀ u, Metered x 1 u (meterTap 1 x[1].flow u).1 (meterTap 1 x[1].flow u).2 := fun u => meterTap_metered x 1 u
  unfold meterBoth
  have he : meterTap 0 x[0].flow s = ((meterTap 0 x[0].flow s).1, (meterTap 0 x[0].flow s).2) := rfl
  rw [he]
  generalize (meterTap 0 x[0].flow s).1 = o₁ at *
  generalize (meterTap 0 x[0].flow s).2 = s₁ at *
  cases o₁ with
  | none => exact .apart h₁ (fun b hb => by cases hb) (h₂ s₁)
  | some b =>
    dsimp only
    split
    · rename_i hpf
      obtain ⟨q, hq, rfl⟩ := (poursFrom_iff b 1 s₁).1 hpf
      obtain ⟨hserving, ⟨hspent, -⟩, -⟩ := h₁.notice rfl
      obtain ⟨k, free, -, hc⟩ := choose_spec (Nat.succ_pos 1) s₁
      rw [hc]
      dsimp only
      have hq' : ∀ q', ((s₁.setFree free).tapRec 1).pour = some q' → q'.bay = q.bay := fun q' hq' => by cases hq.symm.trans hq'; rfl
      split
      · rw [spentNotice_eq (y := 0) (z := 1) rfl hq']
        have hm := h₂ (endPour .spent 1 (s₁.setFree free))
        obtain ⟨ho, -⟩ := hm.idle fun p hp => by
          rw [endPour_gone] at hp
          cases hp
        rw [ho] at hm ⊢
        exact .before h₁ hq hm
      · have hm := h₂ (s₁.setFree free)
        have ho := hm.not_spent_twice fun q' hp => by
          rw [hq' q' hp]
          show (s₁.keg q.bay).phase ≠ .serving
          rw [hspent]
          simp
        rw [ho] at hm ⊢
        have hs : ∀ q', ((meterTap 1 x[1].flow (s₁.setFree free)).2.tapRec 1).pour = some q' → q'.bay = q.bay := fun q' h' => by
          obtain ⟨q₀, hq₀, hb⟩ := hm.work.bays 1 q' h'
          rw [← hb]
          exact hq' q₀ hq₀
        show MeteredBoth x s (spentNotice q.bay 0 _)
        rw [spentNotice_eq (y := 0) (z := 1) rfl hs]
        exact .after h₁ hq hm
    · rename_i hpf
      refine .apart h₁ (fun b' hb q hq e => ?_) (h₂ s₁)
      cases hb
      exact hpf ((poursFrom_iff b 1 s₁).2 ⟨q, hq, e⟩)

end Sys2Proof.Proofs
end

section
/-! PROOFS. What a hand-over's metering leaves of each tap's pour, of the kegs and of the counts (R66, R67, R149, R153, R155, R156). -/

namespace Sys2Proof.Proofs

open Sys2Proof.Machine Sys2Proof.Safety Sys2Proof.Claims

/-! ## What follows a tap's own count -/

/-- What the other tap's count and the notices leave: `y` is the tap they are about. -/
structure Tail (y : Tap) (s t : State) : Prop where
  work : PourWork (fun z => z = y) s t
  touches : Touches meterParts s t
  phases : ∀ b, (s.keg b).phase ≠ .serving → (t.keg b).phase = (s.keg b).phase

theorem Tail.refl (y : Tap) (s : State) : Tail y s s := ⟨PourWork.refl s, Touches.refl _ s, fun _ _ => rfl⟩

theorem Tail.trans {y : Tap} {s t u : State} (h : Tail y s t) (g : Tail y t u) : Tail y s u :=
  ⟨h.work.trans g.work, h.touches.trans g.touches, fun b hb => (g.phases b (by rwa [h.phases b hb])).trans (h.phases b hb)⟩

theorem Tail.setFree (y : Tap) (x : Free) (s : State) : Tail y s (s.setFree x) :=
  ⟨(Work.setFree x s).pourWork, setFree_touches (Touches.refl _ s) (by decide), fun _ _ => rfl⟩

theorem Tail.endPour (reason : PourReason) (y : Tap) (s : State) : Tail y s (endPour reason y s) :=
  ⟨endPour_pourWork reason y s, endPour_meterParts reason y s, fun b _ => endPour_phase reason y b s⟩

theorem Metered.tail {x : Vector PanelTap 2} {y : Tap} {s t : State} {o : Option Bay} (h : Metered x y s o t) : Tail y s t :=
  ⟨h.work, h.touches, fun _ hb => h.phase fun e => hb (h.notice e).1⟩

theorem Tail.spent {y : Tap} {b : Bay} {s t : State} (h : Tail y s t) (hs : Spent b s) : Spent b t :=
  hs.kept (h.phases b (by rw [hs.1]; simp)) h.touches

theorem Tail.ended {y z : Tap} {p : Pour} {refused : Bool} {reason : PourReason} {s t u : State} (h : Tail z t u) (hz : y ≠ z)
    (he : Ended y p refused reason s t) : Ended y p refused reason s u := he.kept h.work hz

theorem noticeFor_none (y : Tap) (s : State) : noticeFor y none s = s := rfl

/-- R156. The notice to tap 1 ends its pour if it is from that keg, and is nothing otherwise. -/
theorem noticeFor_some {b : Bay} {s : State} :
    (∀ q, (s.tapRec 0).pour = some q → q.bay ≠ b) ∧ noticeFor 1 (some b) s = s ∨
      (∃ q, (s.tapRec 0).pour = some q ∧ q.bay = b) ∧ noticeFor 1 (some b) s = endPour .spent 0 s := by
  have hn : noticeFor 1 (some b) s = if poursFrom b 0 s then endPour .spent 0 s else s := rfl
  rw [hn]
  by_cases h : poursFrom b 0 s = true
  · rw [if_pos h]
    exact .inr ⟨(poursFrom_iff b 0 s).1 h, rfl⟩
  · rw [if_neg h]
    exact .inl ⟨fun q hq e => h ((poursFrom_iff b 0 s).2 ⟨q, hq, e⟩), rfl⟩

theorem noticeFor_other {o : Option Bay} {s : State} (h : ∀ b, o = some b → ∀ q, (s.tapRec 0).pour = some q → q.bay ≠ b) : noticeFor 1 o s = s := by
  cases o with
  | none => rfl
  | some b =>
    rcases noticeFor_some (b := b) (s := s) with ⟨-, he⟩ | ⟨⟨q, hq, hb⟩, -⟩
    · exact he
    · exact absurd hb (h b rfl q hq)

theorem noticeFor_tail (o : Option Bay) (s : State) : Tail 0 s (noticeFor 1 o s) := by
  cases o with
  | none => exact Tail.refl 0 s
  | some b =>
    rcases noticeFor_some (b := b) (s := s) with ⟨-, he⟩ | ⟨-, he⟩
    · rw [he]
      exact Tail.refl 0 s
    · rw [he]
      exact Tail.endPour .spent 0 s

theorem first_ne_second : (0 : Tap) ≠ 1 := by decide

theorem tap_cases (y : Tap) : y = 0 ∨ y = 1 := by
  revert y
  decide

/-! ## The counts, and the debits (R66, R149) -/

section
variable {x : Vector PanelTap 2} {s m : State} (h : MeteredBoth x s m)
include h

theorem MeteredBoth.counts (y : Tap) : (m.tapRec y).lastFlow = some x[y].flow ∧ (m.tapRec y).lastPresses = (s.tapRec y).lastPresses := by
  have hboth : ∀ {o₁ o₂ : Option Bay} {s₁ s₁' s₂ t : State}, Metered x 0 s o₁ s₁ → Counts s₁ s₁' → Metered x 1 s₁' o₂ s₂ → Counts s₂ t →
      (t.tapRec y).lastFlow = some x[y].flow ∧ (t.tapRec y).lastPresses = (s.tapRec y).lastPresses := fun h₁ hc h₂ ht => by
    obtain ⟨hf, hp⟩ := ht y
    obtain ⟨hf₂, hp₂⟩ := h₂.flow y
    obtain ⟨hfc, hpc⟩ := hc y
    obtain ⟨hf₁, hp₁⟩ := h₁.flow y
    rw [hf, hp, hf₂, hp₂, hfc, hpc, hf₁, hp₁]
    rcases tap_cases y with rfl | rfl
    · exact ⟨by rw [if_neg first_ne_second, if_pos rfl], rfl⟩
    · exact ⟨by rw [if_pos rfl], rfl⟩
  have hspent : ∀ (z : Tap) (u : State), Counts u (endPour .spent z u) := fun z u => endPour_counts .spent z u
  cases h with
  | @apart o₁ o₂ s₁ s₂ h₁ hb h₂ =>
    refine hboth h₁ (Counts.refl _) h₂ ?_
    cases o₂ with
    | none => exact Counts.refl _
    | some b =>
      rcases noticeFor_some (b := b) (s := s₂) with ⟨-, he⟩ | ⟨-, he⟩ <;> rw [he]
      · exact Counts.refl _
      · exact hspent _ _
  | @before q s₁ _ free h₁ hq h₂ => exact hboth h₁ (s₁' := Machine.endPour .spent 1 (s₁.setFree free)) (fun z => hspent 1 (s₁.setFree free) z) h₂ (Counts.refl _)
  | @after q s₁ s₂ free h₁ hq h₂ => exact hboth h₁ (s₁' := s₁.setFree free) (fun _ => ⟨rfl, rfl⟩) h₂ (hspent 1 _)

theorem MeteredBoth.remaining (b : Bay) : (m.keg b).remaining = (s.keg b).remaining - drawnFrom x b 0 s - drawnFrom x b 1 s := by
  cases h with
  | @apart o₁ o₂ s₁ s₂ h₁ hb h₂ =>
    have hn : ((noticeFor 1 o₂ s₂).keg b).remaining = (s₂.keg b).remaining := by
      cases o₂ with
      | none => rfl
      | some d =>
        rcases noticeFor_some (b := d) (s := s₂) with ⟨-, he⟩ | ⟨-, he⟩ <;> rw [he]
        exact endPour_remaining .spent 0 b s₂
    rw [hn, h₂.remaining, h₁.remaining, drawnFrom_congr (h₁.other first_ne_second.symm)]
  | @before q s₁ s₂ free h₁ hq h₂ =>
    obtain ⟨-, -, -, hzero, -⟩ := h₁.notice rfl
    have hd : drawnFrom x b 1 (Machine.endPour .spent 1 (s₁.setFree free)) = 0 := drawnFrom_none (endPour_gone .spent 1 _) b
    have hq' : (s.tapRec 1).pour = some q := (pour_of_still (h₁.other first_ne_second.symm)).symm.trans hq
    rw [h₂.remaining, hd, endPour_remaining]
    show (s₁.keg b).remaining - 0 = _
    rw [h₁.remaining, drawnFrom_some hq']
    split
    · rename_i e
      subst e
      omega
    · rfl
  | @after q s₁ s₂ free h₁ hq h₂ =>
    have hd : drawnFrom x b 1 (s₁.setFree free) = drawnFrom x b 1 s := drawnFrom_congr (s := s) (h₁.other first_ne_second.symm)
    rw [endPour_remaining, h₂.remaining, hd]
    show (s₁.keg b).remaining - _ = _
    rw [h₁.remaining]

/-- R149. Without a POURING pour both counts are taken, and nothing more. -/
theorem MeteredBoth.idle (hp : ∀ y p, (s.tapRec y).pour = some p → p.pouring = false) :
    m = (s.modTap 0 fun r => { r with lastFlow := some x[(0 : Tap)].flow }).modTap 1 fun r => { r with lastFlow := some x[(1 : Tap)].flow } := by
  cases h with
  | apart h₁ hb h₂ =>
    obtain ⟨-, rfl⟩ := h₁.idle fun p => hp 0 p
    obtain ⟨rfl, rfl⟩ := h₂.idle fun p hq => hp 1 p (by rw [tapRec_modTap, if_neg first_ne_second.symm] at hq; exact hq)
    rfl
  | before h₁ => cases (h₁.idle fun p => hp 0 p).1
  | after h₁ => cases (h₁.idle fun p => hp 0 p).1

end

/-! ## Tap 1's pour -/

section
variable {x : Vector PanelTap 2} {s m : State} (h : MeteredBoth x s m) {p : Pour} (hp : (s.tapRec 0).pour = some p)
include h hp

/-- R149. Where tap 1's count spends no keg, tap 2's follows, and its notice, if any, is not tap 1's. -/
theorem MeteredBoth.first_quiet
    (hq : ∀ o₁ s₁, Metered x 0 s o₁ s₁ → o₁ = none)
    (hn : (meteredAt x 0 s p).2 + drawnFrom x p.bay 1 s = 0 ∨ (meteredAt x 0 s p).2 + drawnFrom x p.bay 1 s < (s.keg p.bay).remaining) :
    ∃ s₁ o₂, Metered x 0 s none s₁ ∧ Metered x 1 s₁ o₂ m ∧ o₂ ≠ some p.bay := by
  have hd := drawnFrom_some (x := x) hp p.bay
  rw [if_pos rfl] at hd
  cases h with
  | @apart o₁ o₂ s₁ s₂ h₁ hb h₂ =>
    have ho := hq o₁ s₁ h₁
    subst ho
    have hne : o₂ ≠ some p.bay := fun e => by
      obtain ⟨-, -, hpos, hzero, -⟩ := h₂.notice e
      rw [drawnFrom_congr (h₁.other first_ne_second.symm)] at hpos hzero
      rw [h₁.remaining, hd] at hzero
      omega
    have hbay : ∀ b, o₂ = some b → ∀ q, (s₂.tapRec 0).pour = some q → q.bay ≠ b := fun b hb q hq e => by
      obtain ⟨q₁, hq₁, hb₁⟩ := h₂.work.bays 0 q hq
      obtain ⟨q₀, hq₀, hb₀⟩ := h₁.work.bays 0 q₁ hq₁
      cases hp.symm.trans hq₀
      exact hne (by rw [hb, ← e, ← hb₁, ← hb₀])
    rw [noticeFor_other hbay]
    exact ⟨s₁, o₂, h₁, h₂, hne⟩
  | before h₁ => cases hq _ _ h₁
  | after h₁ => cases hq _ _ h₁

theorem MeteredBoth.first_runs
    (hn : (meteredAt x 0 s p).2 + drawnFrom x p.bay 1 s = 0 ∨ (meteredAt x 0 s p).2 + drawnFrom x p.bay 1 s < (s.keg p.bay).remaining)
    (hr : (meteredAt x 0 s p).2 = 0 ∨ (meteredAt x 0 s p).1.metered < p.target) : (m.tapRec 0).pour = some (meteredAt x 0 s p).1 := by
  have hruns : (meteredAt x 0 s p).2 = 0 ∨ (s.keg p.bay).remaining - (meteredAt x 0 s p).2 ≠ 0 ∧ (meteredAt x 0 s p).1.metered < p.target := by omega
  obtain ⟨s₁, o₂, h₁, h₂, -⟩ := h.first_quiet hp (fun o₁ s₁ h₁ => (h₁.runs_of hp hruns).1) hn
  exact (pour_of_still (h₂.other first_ne_second)).trans (h₁.runs_of hp hruns).2

theorem MeteredBoth.first_done (hn : (meteredAt x 0 s p).2 + drawnFrom x p.bay 1 s < (s.keg p.bay).remaining) (hv : 0 < (meteredAt x 0 s p).2)
    (ht : p.target ≤ (meteredAt x 0 s p).1.metered) :
    Ended 0 (meteredAt x 0 s p).1 false .done s m ∧ (m.keg p.bay).phase = (s.keg p.bay).phase := by
  have hrem : (s.keg p.bay).remaining - (meteredAt x 0 s p).2 ≠ 0 := by omega
  obtain ⟨s₁, o₂, h₁, h₂, hne⟩ := h.first_quiet hp (fun o₁ s₁ h₁ => (h₁.done_of hp hv hrem ht).1) (.inr hn)
  exact ⟨h₂.tail.ended first_ne_second (h₁.done_of hp hv hrem ht).2, (h₂.phase hne).trans (h₁.phase (by simp))⟩

/-- R67, R155, R156. Tap 1's count empties its keg. -/
theorem MeteredBoth.first_empties (hv : 0 < (meteredAt x 0 s p).2) (hr : (s.keg p.bay).remaining ≤ (meteredAt x 0 s p).2) :
    Ended 0 (meteredAt x 0 s p).1 false .empty s m ∧
    ((s.keg p.bay).phase ≠ .serving → (m.keg p.bay).phase = (s.keg p.bay).phase) ∧
    ((s.keg p.bay).phase = .serving → Spent p.bay m ∧ ∀ q, (s.tapRec 1).pour = some q → q.bay = p.bay →
      (m.tapRec 1).pour = none ∧ (Room s →
        (drawnFrom x p.bay 1 s = 0 → Recorded 1 q false .spent m ∨ Recorded 1 (meteredAt x 1 s q).1 false .spent m) ∧
        (0 < drawnFrom x p.bay 1 s → Recorded 1 q false .spent m ∨ Recorded 1 (meteredAt x 1 s q).1 false .empty m))) := by
  have hrem : (s.keg p.bay).remaining - (meteredAt x 0 s p).2 = 0 := by omega
  have hspent : ∀ {q : Pour}, (!q.pouring && PourReason.spent.refuses) = false := Bool.and_false _
  cases h with
  | @apart o₁ o₂ s₁ s₂ h₁ hb h₂ =>
    obtain ⟨ho, he⟩ := h₁.emptied_of hp hv hrem
    have hnone : (s₂.tapRec 0).pour = none := h₂.work.pour_none he.gone
    rw [noticeFor_other fun b _ q hq => by rw [hnone] at hq; cases hq]
    refine ⟨h₂.tail.ended first_ne_second he, fun hs => ?_, fun hs => ?_⟩
    · rw [if_neg hs] at ho
      have hph := h₁.phase (b := p.bay) (by rw [ho]; simp)
      exact (h₂.tail.phases _ (by rwa [hph])).trans hph
    · rw [if_pos hs] at ho
      refine ⟨h₂.tail.spent (h₁.notice ho).2.1, fun q hq hqb => ?_⟩
      exact absurd hqb (hb _ ho q ((pour_of_still (h₁.other first_ne_second.symm)).trans hq))
  | @before q s₁ _ free h₁ hq h₂ =>
    obtain ⟨ho, he⟩ := h₁.emptied_of hp hv hrem
    have hs : (s.keg p.bay).phase = .serving := by
      by_contra hs
      rw [if_neg hs] at ho
      cases ho
    rw [if_pos hs] at ho
    obtain ⟨-, hsp, -⟩ := h₁.notice ho
    have htail : Tail 1 s₁ m := ((Tail.setFree 1 free s₁).trans (Tail.endPour .spent 1 _)).trans h₂.tail
    refine ⟨htail.ended first_ne_second he, fun hs' => absurd hs hs', fun _ => ⟨htail.spent hsp, fun q' hq' hqb => ?_⟩⟩
    cases ((pour_of_still (h₁.other first_ne_second.symm)).trans hq').symm.trans hq
    refine ⟨h₂.work.pour_none (endPour_gone .spent 1 _), fun hroom => ?_⟩
    have hrec := endPour_recorded .spent (s := s₁.setFree free) hq (h₁.work.room hroom)
    rw [hspent] at hrec
    exact ⟨fun _ => .inl (recorded_kept hrec h₂.work.sentOn), fun _ => .inl (recorded_kept hrec h₂.work.sentOn)⟩
  | @after q s₁ s₂ free h₁ hq h₂ =>
    obtain ⟨ho, he⟩ := h₁.emptied_of hp hv hrem
    have hs : (s.keg p.bay).phase = .serving := by
      by_contra hs
      rw [if_neg hs] at ho
      cases ho
    rw [if_pos hs] at ho
    obtain ⟨-, hsp, -, hzero, -⟩ := h₁.notice ho
    have htail : Tail 1 s₁ (Machine.endPour .spent 1 s₂) := ((Tail.setFree 1 free s₁).trans h₂.tail).trans (Tail.endPour .spent 1 _)
    refine ⟨htail.ended first_ne_second he, fun hs' => absurd hs hs', fun _ => ⟨htail.spent hsp, fun q' hq' hqb => ?_⟩⟩
    cases ((pour_of_still (h₁.other first_ne_second.symm)).trans hq').symm.trans hq
    refine ⟨endPour_gone .spent 1 _, fun hroom => ?_⟩
    have hm : meteredAt x 1 (s₁.setFree free) q = meteredAt x 1 s q := meteredAt_congr (s := s) (h₁.other first_ne_second.symm) q
    have hd := drawnFrom_some (x := x) hq' p.bay
    rw [if_pos hqb] at hd
    have hrem₁ : ((s₁.setFree free).keg q.bay).remaining - (meteredAt x 1 (s₁.setFree free) q).2 = 0 := by
      show (s₁.keg q.bay).remaining - _ = 0
      rw [h₁.remaining, hqb, hzero, Nat.zero_sub]
    have hroom₁ : Room (s₁.setFree free) := h₁.work.room hroom
    refine ⟨fun hz => .inr ?_, fun hpos => .inr ?_⟩
    · rw [hd] at hz
      have hr₂ := (h₂.runs_of (s := s₁.setFree free) hq (.inl (by rw [hm]; exact hz))).2
      rw [hm] at hr₂
      have hrec := endPour_recorded .spent hr₂ (h₂.work.room hroom₁)
      rwa [hspent] at hrec
    · rw [hd] at hpos
      obtain ⟨-, he₂⟩ := h₂.emptied_of (s := s₁.setFree free) hq (by rw [hm]; exact hpos) hrem₁
      rw [hm] at he₂
      exact recorded_kept (he₂.recorded hroom₁) (Tail.endPour .spent 1 s₂).work.sentOn

end

end Sys2Proof.Proofs
end

section
/-! PROOFS. What a hand-over's metering leaves of tap 2's pour, and both taps' pours together (R66, R67, R153, R155, R156). -/

namespace Sys2Proof.Proofs

open Sys2Proof.Machine Sys2Proof.Safety Sys2Proof.Claims

section
variable {x : Vector PanelTap 2} {s m : State} (h : MeteredBoth x s m) {p : Pour} (hp : (s.tapRec 1).pour = some p)
include h hp

/-- R149. Where tap 1 has not emptied tap 2's keg, tap 2's pour has its own count. -/
theorem MeteredBoth.second_apart (ho : drawnFrom x p.bay 0 s = 0 ∨ drawnFrom x p.bay 0 s < (s.keg p.bay).remaining) :
    ∃ o₁ s₁ o₂ s₂, Metered x 0 s o₁ s₁ ∧ Metered x 1 s₁ o₂ s₂ ∧ o₁ ≠ some p.bay ∧ m = noticeFor 1 o₂ s₂ := by
  have hkeep : ∀ {o s₁} {q : Pour}, Metered x 0 s o s₁ → (s₁.tapRec 1).pour = some q → q = p := fun h₁ hq => by
    cases ((pour_of_still (h₁.other first_ne_second.symm)).trans hp).symm.trans hq
    rfl
  have hne : ∀ {o s₁}, Metered x 0 s o s₁ → o ≠ some p.bay := fun h₁ e => by
    obtain ⟨-, -, hpos, hzero, -⟩ := h₁.notice e
    omega
  cases h with
  | @apart o₁ o₂ s₁ s₂ h₁ hb h₂ => exact ⟨o₁, s₁, o₂, s₂, h₁, h₂, hne h₁, rfl⟩
  | before h₁ hq h₂ => exact absurd (by rw [hkeep h₁ hq]) (hne h₁)
  | after h₁ hq h₂ => exact absurd (by rw [hkeep h₁ hq]) (hne h₁)

theorem MeteredBoth.second_runs
    (hn : (meteredAt x 1 s p).2 + drawnFrom x p.bay 0 s = 0 ∨ (meteredAt x 1 s p).2 + drawnFrom x p.bay 0 s < (s.keg p.bay).remaining)
    (hr : (meteredAt x 1 s p).2 = 0 ∨ (meteredAt x 1 s p).1.metered < p.target) : (m.tapRec 1).pour = some (meteredAt x 1 s p).1 := by
  obtain ⟨o₁, s₁, o₂, s₂, h₁, h₂, -, rfl⟩ := h.second_apart hp (by omega)
  have hstill := h₁.other first_ne_second.symm
  have hm := meteredAt_congr (x := x) hstill p
  have hruns := h₂.runs_of ((pour_of_still hstill).trans hp) (by rw [h₁.remaining, hm]; omega)
  obtain ⟨rfl, hpour⟩ := hruns
  rw [hm] at hpour
  exact hpour

theorem MeteredBoth.second_done (hn : (meteredAt x 1 s p).2 + drawnFrom x p.bay 0 s < (s.keg p.bay).remaining) (hv : 0 < (meteredAt x 1 s p).2)
    (ht : p.target ≤ (meteredAt x 1 s p).1.metered) :
    Ended 1 (meteredAt x 1 s p).1 false .done s m ∧ (m.keg p.bay).phase = (s.keg p.bay).phase := by
  obtain ⟨o₁, s₁, o₂, s₂, h₁, h₂, hne, rfl⟩ := h.second_apart hp (by omega)
  have hstill := h₁.other first_ne_second.symm
  have hm := meteredAt_congr (x := x) hstill p
  obtain ⟨rfl, he⟩ := h₂.done_of ((pour_of_still hstill).trans hp) (by rwa [hm]) (by rw [h₁.remaining, hm]; omega) (by rwa [hm])
  rw [hm] at he
  exact ⟨Ended.after h₁.work he, (h₂.phase (by simp)).trans (h₁.phase hne)⟩

/-- R67, R155, R156. Tap 2's count empties a keg that tap 1's did not. -/
theorem MeteredBoth.second_empties (hv : 0 < (meteredAt x 1 s p).2)
    (hr : (s.keg p.bay).remaining - drawnFrom x p.bay 0 s ≤ (meteredAt x 1 s p).2)
    (ho : drawnFrom x p.bay 0 s = 0 ∨ drawnFrom x p.bay 0 s < (s.keg p.bay).remaining) :
    Ended 1 (meteredAt x 1 s p).1 false .empty s m ∧
    ((s.keg p.bay).phase ≠ .serving → (m.keg p.bay).phase = (s.keg p.bay).phase) ∧
    ((s.keg p.bay).phase = .serving → Spent p.bay m ∧ ∀ q, (s.tapRec 0).pour = some q → q.bay = p.bay →
      (m.tapRec 0).pour = none ∧ (Room s →
        (drawnFrom x p.bay 0 s = 0 ∨ (meteredAt x 0 s q).1.metered < q.target → Recorded 0 (meteredAt x 0 s q).1 false .spent m) ∧
        (0 < drawnFrom x p.bay 0 s → q.target ≤ (meteredAt x 0 s q).1.metered → Recorded 0 (meteredAt x 0 s q).1 false .done m))) := by
  obtain ⟨o₁, s₁, o₂, s₂, h₁, h₂, hne, rfl⟩ := h.second_apart hp ho
  have hstill := h₁.other first_ne_second.symm
  have hm := meteredAt_congr (x := x) hstill p
  obtain ⟨ho₂, he⟩ := h₂.emptied_of ((pour_of_still hstill).trans hp) (by rwa [hm]) (by rw [h₁.remaining, hm]; omega)
  rw [hm] at he
  rw [h₁.phase hne] at ho₂
  have htail := noticeFor_tail o₂ s₂
  refine ⟨htail.ended first_ne_second.symm (Ended.after h₁.work he), fun hs => ?_, fun hs => ?_⟩
  · rw [if_neg hs] at ho₂
    subst ho₂
    exact (h₂.phase (by simp)).trans (h₁.phase hne)
  · rw [if_pos hs] at ho₂
    refine ⟨htail.spent (h₂.notice ho₂).2.1, fun q hq hqb => ?_⟩
    subst ho₂
    have hd := drawnFrom_some (x := x) hq p.bay
    rw [if_pos hqb, ← hqb] at hd
    have hpour : (s₂.tapRec 0).pour = (s₁.tapRec 0).pour := pour_of_still (h₂.other first_ne_second)
    have hgone : ((noticeFor 1 (some p.bay) s₂).tapRec 0).pour = none := by
      rcases noticeFor_some (b := p.bay) (s := s₂) with ⟨hno, hn⟩ | ⟨-, hn⟩ <;> rw [hn]
      · cases hq₂ : (s₂.tapRec 0).pour with
        | none => rfl
        | some q₂ =>
          obtain ⟨q₀, hq₀, hb⟩ := (h₁.work.bays 0 q₂ (hpour ▸ hq₂))
          cases hq.symm.trans hq₀
          exact absurd (hb ▸ hqb) (hno q₂ hq₂)
      · exact endPour_gone .spent 0 s₂
    refine ⟨hgone, fun hroom => ⟨fun hrun => ?_, fun hpos ht => ?_⟩⟩
    · obtain ⟨-, hq₁⟩ := h₁.runs_of hq (by rw [← hd, hqb]; omega)
      have hq₂ := hpour.trans hq₁
      rcases noticeFor_some (b := p.bay) (s := s₂) with ⟨hno, -⟩ | ⟨-, hn⟩
      · exact absurd ((meteredAt_fields x 0 s q).1.trans hqb) (hno _ hq₂)
      · rw [hn]
        have hrec := endPour_recorded .spent hq₂ (h₂.work.room (h₁.work.room hroom))
        rwa [show (!(meteredAt x 0 s q).1.pouring && PourReason.spent.refuses) = false from Bool.and_false _] at hrec
    · obtain ⟨-, hdone⟩ := h₁.done_of hq (by rw [← hd, hqb]; exact hpos) (by rw [← hd, hqb]; omega) ht
      exact recorded_kept (recorded_kept (hdone.recorded hroom) h₂.work.sentOn) htail.work.sentOn

end

end Sys2Proof.Proofs
end

section
/-! PROOFS. A pour that is asked for: the checks, the manifold's answer, and what the acceptance writes (R125, R150, R151). -/

namespace Sys2Proof.Proofs

open Sys2Proof.Machine Sys2Proof.Safety Sys2Proof.Claims

/-! ## The checks (R150, Table 8-3) -/

theorem part_eq_held {s : State} : s.mgp.part = .held ↔ ¬ s.running := by
  unfold State.running
  cases s.mgp.part <;> simp

theorem find_failing_cons (b : Bool) (r : PourReason) (l : List (Bool × PourReason)) :
    (((b, r) :: l).find? (·.1)).map (·.2) = if b = true then some r else (l.find? (·.1)).map (·.2) := by
  cases b <;> rfl

theorem find_failing_nil : (([] : List (Bool × PourReason)).find? (·.1)).map (·.2) = none := rfl

theorem substituted_iff (k : Keg) :
    k.sensedTemp.map (·.substituted) = some true ↔ (match k.sensedTemp with | some x => x.substituted | none => false) = true := by
  cases k.sensedTemp <;> simp

/-- R150. The first check that fails, as the model finds it. -/
theorem pourCheck_eq (y : Tap) (s : State) : pourCheck y s = firstFailure y s := by
  unfold firstFailure table8_3
  simp only [find_failing_cons, find_failing_nil, decide_eq_true_eq, part_eq_held]
  unfold pourCheck
  dsimp only
  cases hb : (s.tapRec y).set.binding with
  | none => simp only [if_true]
  | some b =>
    simp only [servingChecks, substituted_iff, reduceCtorEq, if_false, Option.getD_some] <;> rfl

/-! ## The manifold's answer to a POUR (R125, R132, Table 7-4) -/

/-- R132. The POUR joins the operation in progress. -/
theorem mayJoin_iff {e : GasEntry} {s : State} (he : e.need.isPour = true) : mayJoin e s = true ↔ JoinsAt e.pressure s := by
  unfold mayJoin JoinsAt
  cases s.man.op with
  | none => simp
  | some op => simp [he, withinTolerance, and_assoc, and_left_comm, and_comm]

theorem eq_pour_of_isPour {n : GasNeed} (h : n.isPour = true) : ∃ y b, n = .pour y b := by
  cases n with
  | pour y b => exact ⟨y, b, rfl⟩
  | charge | purge | check => cases h

theorem answerNeed_pour {e : GasEntry} {s : State} (he : e.need.isPour = true) (hr : s.mgp.part = .running) (hd : s.man.state ≠ .down)
    (hl : s.man.state ≠ .lockout) (hp : eligible e.need s = true) :
    answerNeed true e s =
      if mayJoin e s then .joined
      else if s.man.state = .idle then .inService
      else if Config.gasQueueLimit ≤ s.man.queue.length then .refused .gasBusy
      else .queued := by
  have hc : e.need.isCharge = false := by
    obtain ⟨y, b, hn⟩ := eq_pour_of_isPour he
    rw [hn]
    rfl
  simp only [answerNeed, turnedAway, he, hc, hd, hl, hp, hr, State.running, if_false, if_true, false_and, true_and, and_true, Bool.false_eq_true, Bool.true_eq_false]

/-! ## What a POUR need's answer leaves (R125, R128, R132) -/

/-- A tap's record apart from its state and from what a grant and the start write in its pour. -/
def ungranted (r : TapRecord) : TapRecord :=
  { r with state := .idle, pour := r.pour.map fun p => { p with pouring := false, granted := false, baseline := 0, carry := 0, stall := 0 } }

/-- What the manifold's taking of a POUR leaves. -/
structure Asked (s t : State) : Prop where
  kegs : t.kegs = s.kegs
  mgp : t.mgp = s.mgp
  number : t.tap.pourNumber = s.tap.pourNumber
  taps : ∀ z, ungranted (t.tapRec z) = ungranted (s.tapRec z)

theorem Asked.refl (s : State) : Asked s s := ⟨rfl, rfl, rfl, fun _ => rfl⟩

theorem Asked.trans {s t u : State} (h : Asked s t) (g : Asked t u) : Asked s u :=
  ⟨g.kegs.trans h.kegs, g.mgp.trans h.mgp, g.number.trans h.number, fun z => (g.taps z).trans (h.taps z)⟩

theorem ShowsFrom.asked {s t : State} (h : ShowsFrom s t) : Asked s t := by
  obtain ⟨outs, urgent, rfl⟩ := h
  exact ⟨rfl, rfl, rfl, fun _ => rfl⟩

theorem Asked.write (w : Owner) (o : Output) (v : Nat) (s : State) : Asked s (write w o v s) := (write_shows w o v s).asked

theorem Asked.modMan (f : Man → Man) (s : State) : Asked s (s.modMan f) := ⟨rfl, rfl, rfl, fun _ => rfl⟩

theorem Asked.modTap {y : Tap} {f : TapRecord → TapRecord} {s : State} (h : ungranted (f (s.tapRec y)) = ungranted (s.tapRec y)) : Asked s (s.modTap y f) := by
  refine ⟨rfl, rfl, rfl, fun z => ?_⟩
  rw [tapRec_modTap]
  split
  · rename_i e
    subst e
    exact h
  · rfl

theorem Asked.counts {s t : State} (h : Asked s t) : Counts s t := fun z =>
  have hf : (ungranted (t.tapRec z)).lastFlow = (ungranted (s.tapRec z)).lastFlow := congrArg _ (h.taps z)
  have hp : (ungranted (t.tapRec z)).lastPresses = (ungranted (s.tapRec z)).lastPresses := congrArg _ (h.taps z)
  ⟨hf, hp⟩

theorem Asked.pour {s t : State} (h : Asked s t) {y : Tap} {p : Pour} (hp : (s.tapRec y).pour = some p) :
    ∃ q, (t.tapRec y).pour = some q ∧ q.number = p.number ∧ q.bay = p.bay ∧ q.source = p.source ∧ q.target = p.target ∧ q.metered = p.metered := by
  have hu : (ungranted (t.tapRec y)).pour = (ungranted (s.tapRec y)).pour := congrArg _ (h.taps y)
  simp only [ungranted, hp, Option.map_some] at hu
  obtain ⟨q, hq, he⟩ := Option.map_eq_some_iff.1 hu
  simp only [Pour.mk.injEq] at he
  obtain ⟨hn, hb, hs, ht, hm, -⟩ := he
  exact ⟨q, hq, hn, hb, hs, ht, hm⟩

theorem tryStart_asked (y : Tap) (s : State) : Asked s (tryStart y s) := by
  unfold tryStart
  split
  · rename_i p hp
    split
    · refine (Asked.modTap ?_).trans (Asked.write _ _ _ _)
      unfold ungranted
      rw [hp]
      rfl
    · exact Asked.refl s
  · exact Asked.refl s

theorem grantPour_asked (y : Tap) (s : State) : Asked s (grantPour y s) := by
  refine (Asked.modTap (f := fun r => { r with pour := r.pour.map fun p => { p with granted := true } }) ?_).trans (tryStart_asked y _)
  simp only [ungranted, Option.map_map]
  rfl

theorem joinPour_asked (e : GasEntry) (s : State) : Asked s (joinPour e s) := by
  unfold joinPour
  split
  · dsimp only
    split
    · exact (Asked.modMan _ s).trans ((Asked.write _ _ _ _).trans (grantPour_asked _ _))
    · exact Asked.modMan _ s
  · exact Asked.refl s

theorem startOperation_asked {e : GasEntry} (he : e.need.isPour = true) (s : State) : Asked s (startOperation e s) := by
  have hw : Asked s (write .man .regulator (newOperation e s).pressure.toNat (s.modMan fun m => { m with op := some (newOperation e s), state := .busy })) :=
    (Asked.modMan _ s).trans (Asked.write _ _ _ _)
  obtain ⟨y, b, hn⟩ := eq_pour_of_isPour he
  unfold startOperation
  rw [hn]
  exact hw

theorem raiseNeed_asked {e : GasEntry} (he : e.need.isPour = true) (serving : Bool) (s : State) : Asked s (raiseNeed serving e s).2 := by
  unfold raiseNeed
  split
  · exact joinPour_asked e s
  · exact startOperation_asked he s
  · exact ⟨rfl, rfl, rfl, fun _ => rfl⟩
  · exact Asked.refl s

theorem raiseNeed_answer (serving : Bool) (e : GasEntry) (s : State) : (raiseNeed serving e s).1 = answerNeed serving e s := by
  unfold raiseNeed
  split <;> simp [*]

/-! ## The request (R150, R151) -/

section
variable {source : PourSource} {v : Nat} {y : Tap} {s : State}

theorem requestPour_failing {r : PourReason} (h : firstFailure y s = some r) : requestPour source v y s = (.refused r, s) := by
  unfold requestPour
  rw [pourCheck_eq, h]

/-- R151. What the acceptance of a pour writes apart from the manifold: `u` is the state that the manifold's answer left. -/
def accepted (y : Tap) (b : Bay) (u : State) : State := tryStart y ((takePourNumber u).modKeg b fun k => { k with pours := k.pours + 1 })

/-- R150. What the checks ask of the manifold. -/
theorem manifold_takes_pours (h : firstFailure y s = none) : s.mgp.part = .running ∧ s.man.state ≠ .lockout ∧ s.man.state ≠ .down := by
  have hall := List.find?_eq_none.1 (Option.map_eq_none_iff.1 h)
  simp only [table8_3, List.forall_mem_cons, decide_eq_true_eq] at hall
  obtain ⟨hheld, -, -, -, -, -, -, -, hlockout, hdown, -⟩ := hall
  exact ⟨not_not.1 fun hr => hheld (part_eq_held.2 hr), hlockout, hdown⟩

theorem bound_of_passing (h : firstFailure y s = none) : (s.tapRec y).set.binding ≠ none := by
  have hall := List.find?_eq_none.1 (Option.map_eq_none_iff.1 h)
  simp only [table8_3, List.forall_mem_cons, decide_eq_true_eq] at hall
  obtain ⟨-, hbound, -⟩ := hall
  exact hbound

/-- R150, check 12. How the manifold answers the POUR once no check fails. -/
theorem answerNeed_pourEntry {b : Bay} {f : TapRecord → TapRecord} (h : firstFailure y s = none) :
    (QueueFull ((s.keg b).servePressure.getD 0) s → answerNeed true (pourEntry y b s) (s.modTap y f) = .refused .gasBusy) ∧
    (¬ QueueFull ((s.keg b).servePressure.getD 0) s → ∀ r, answerNeed true (pourEntry y b s) (s.modTap y f) ≠ .refused r) := by
  obtain ⟨hrun, hlockout, hdown⟩ := manifold_takes_pours h
  have hjoin : mayJoin (pourEntry y b s) (s.modTap y f) = true ↔ JoinsAt ((s.keg b).servePressure.getD 0) s := mayJoin_iff (s := s.modTap y f) rfl
  have ha := answerNeed_pour (e := pourEntry y b s) (s := s.modTap y f) rfl hrun hdown hlockout rfl
  have hq : QueueFull ((s.keg b).servePressure.getD 0) s ↔
      ¬ mayJoin (pourEntry y b s) (s.modTap y f) = true ∧ (s.modTap y f).man.state ≠ .idle ∧ Config.gasQueueLimit ≤ (s.modTap y f).man.queue.length := by
    rw [hjoin]
    rfl
  rw [ha, hq]
  refine ⟨fun ⟨hj, hi, hl⟩ => by rw [if_neg hj, if_neg hi, if_pos hl], fun hn r => ?_⟩
  split_ifs with hj hi hl
  · simp
  · simp
  · exact absurd ⟨hj, hi, hl⟩ hn
  · simp

theorem requestPour_passing {b : Bay} (h : firstFailure y s = none) (hb : (s.tapRec y).set.binding = some b) :
    (QueueFull ((s.keg b).servePressure.getD 0) s → requestPour source v y s = (.refused .gasBusy, s)) ∧
    (¬ QueueFull ((s.keg b).servePressure.getD 0) s → ∃ n u, requestPour source v y s = (.accepted n, accepted y b u) ∧
      Asked (s.modTap y (TapRecord.withPour (newPour source v b s))) u) := by
  obtain ⟨hfull, hroom⟩ := answerNeed_pourEntry (b := b) (f := TapRecord.withPour (newPour source v b s)) h
  have ha := raiseNeed_answer true (pourEntry y b s) (s.modTap y (TapRecord.withPour (newPour source v b s)))
  have hw := raiseNeed_asked (e := pourEntry y b s) rfl true (s.modTap y (TapRecord.withPour (newPour source v b s)))
  unfold requestPour
  rw [pourCheck_eq, h, hb]
  dsimp only
  generalize raiseNeed true (pourEntry y b s) (s.modTap y (TapRecord.withPour (newPour source v b s))) = answer at *
  obtain ⟨a, u⟩ := answer
  refine ⟨fun hq => ?_, fun hq => ?_⟩
  · cases ha.trans (hfull hq)
    rfl
  · have hne : ∀ r, a ≠ .refused r := fun r e => hroom hq r (ha.symm.trans e)
    cases a with
    | refused r => exact absurd rfl (hne r)
    | unqueued | alreadyHeld | joined | inService | queued => exact ⟨_, u, rfl, hw⟩

end

end Sys2Proof.Proofs
end

section
/-! PROOFS. The presses of a hand-over (R149, R150, R155, R157). -/

namespace Sys2Proof.Proofs

open Sys2Proof.Machine Sys2Proof.Safety Sys2Proof.Claims

/-! ## A pour that the panel asks for (R149, R150) -/

/-- R151. What an accepted pour writes. -/
theorem accepted_fields {s u : State} {y : Tap} {b : Bay} {p : Pour} (h : Asked (s.modTap y (TapRecord.withPour p)) u) :
    (accepted y b u).tap.pourNumber = s.tap.pourNumber + 1 ∧ ((accepted y b u).keg b).pours = (s.keg b).pours + 1 ∧ (accepted y b u).mgp = s.mgp ∧
    ∃ q, ((accepted y b u).tapRec y).pour = some q ∧ q.number = p.number ∧ q.bay = p.bay ∧ q.source = p.source ∧ q.target = p.target ∧ q.metered = p.metered := by
  have ht := tryStart_asked y ((takePourNumber u).modKeg b fun k => { k with pours := k.pours + 1 })
  have hp : ((s.modTap y (TapRecord.withPour p)).tapRec y).pour = some p := by
    rw [tapRec_modTap, if_pos rfl]
    rfl
  obtain ⟨p₁, hp₁, hn₁, hb₁, hs₁, ht₁, hm₁⟩ := h.pour hp
  obtain ⟨p₂, hp₂, hn₂, hb₂, hs₂, ht₂, hm₂⟩ := ht.pour (y := y) hp₁
  refine ⟨ht.number.trans (congrArg (· + 1) h.number), ?_, ht.mgp.trans h.mgp, p₂, hp₂, hn₂.trans hn₁, hb₂.trans hb₁, hs₂.trans hs₁, ht₂.trans ht₁, hm₂.trans hm₁⟩
  have hk : (accepted y b u).keg b = ((takePourNumber u).modKeg b fun k => { k with pours := k.pours + 1 }).keg b := congrArg (·[b]) ht.kegs
  have hu : u.keg b = s.keg b := congrArg (·[b]) h.kegs
  rw [hk, keg_modKeg, if_pos rfl, ← hu]
  rfl

/-- R149. The press counter of tap `y` is taken. -/
def pressed (y : Tap) (presses : BitVec 8) (s : State) : State := s.modTap y fun r => { r with lastPresses := some presses }

/-- R150, R157. A refusal of the panel's request, as its POUR_RECORD and its blink window show it. -/
theorem panelRefusal_refused (y : Tap) (reason : PourReason) (presses : BitVec 8) (s : State) :
    PanelRefused y reason presses s (panelRefusal reason y (pressed y presses s)) := by
  intro hroom
  unfold panelRefusal
  dsimp only
  rw [handPourRecord_room (by exact hroom)]
  have hset : ((pressed y presses s).tapRec y).set = (s.tapRec y).set := by
    rw [pressed, tapRec_modTap, if_pos rfl]
  rw [hset]
  unfold startBlink
  by_cases hr : s.mgp.part = .running
  · rw [if_pos (by exact hr)]
    simp only [if_pos hr, pressed, takePourNumber, State.modTap, upd_upd]
  · rw [if_neg (by exact hr)]
    simp only [if_neg hr, pressed, takePourNumber, State.modTap]

theorem Asked.counts_requested {s u : State} {y : Tap} {b : Bay} {p : Pour} (h : Asked (s.modTap y (TapRecord.withPour p)) u) : Counts s (accepted y b u) := by
  have hw : Counts s (s.modTap y (TapRecord.withPour p)) := fun z => by
    rw [tapRec_modTap]
    split
    · rename_i e
      subst e
      exact ⟨rfl, rfl⟩
    · exact ⟨rfl, rfl⟩
  have hk : Counts u ((takePourNumber u).modKeg b fun k => { k with pours := k.pours + 1 }) := fun _ => ⟨rfl, rfl⟩
  exact (hw.trans h.counts).trans (hk.trans (tryStart_asked y _).counts)

theorem startBlink_counts (y : Tap) (s : State) : Counts s (startBlink y s) :=
  (startBlink_work (T := fun _ => True) (loss := ⟨True, True⟩) s trivial).counts

theorem panelRefusal_counts (reason : PourReason) (y : Tap) (s : State) : Counts s (panelRefusal reason y s) := by
  refine Counts.trans (t := handPourRecord _ (takePourNumber s)) (fun z => ?_) (startBlink_counts y _)
  obtain ⟨_, _, _, _, hs⟩ := handPourRecord_sends (fun tag =>
    { tag := tag, number := s.tap.pourNumber, tap := y, bay := (s.tapRec y).set.binding, source := .panel, target := 0, metered := 0,
      refused := true, reason := reason }) (takePourNumber s)
  rw [hs]
  exact ⟨rfl, rfl⟩

theorem panelRequest_failing {v : Nat} {y : Tap} {s : State} {r : PourReason} (h : firstFailure y s = some r) : panelRequest v y s = panelRefusal r y s := by
  unfold panelRequest
  rw [requestPour_failing h]

/-- R149, R150. A pour that the panel asks for where no check fails. -/
theorem panelRequest_passing {v : Nat} {y : Tap} {b : Bay} {s : State} (h : firstFailure y s = none) (hb : (s.tapRec y).set.binding = some b) :
    (QueueFull ((s.keg b).servePressure.getD 0) s → panelRequest v y s = panelRefusal .gasBusy y s) ∧
    (¬ QueueFull ((s.keg b).servePressure.getD 0) s → ∃ u, panelRequest v y s = accepted y b u ∧
      Asked (s.modTap y (TapRecord.withPour (newPour .panel v b s))) u) := by
  obtain ⟨hfull, hroom⟩ := requestPour_passing (source := .panel) (v := v) h hb
  unfold panelRequest
  refine ⟨fun hq => by rw [hfull hq], fun hq => ?_⟩
  obtain ⟨n, u, hr, ha⟩ := hroom hq
  exact ⟨u, by rw [hr], ha⟩

theorem panelRequest_counts (v : Nat) (y : Tap) (s : State) : Counts s (panelRequest v y s) := by
  cases h : firstFailure y s with
  | some r =>
    rw [panelRequest_failing h]
    exact panelRefusal_counts r y s
  | none =>
    obtain ⟨b, hb⟩ := Option.ne_none_iff_exists'.1 (bound_of_passing h)
    obtain ⟨hfull, hroom⟩ := panelRequest_passing (v := v) h hb
    by_cases hq : QueueFull ((s.keg b).servePressure.getD 0) s
    · rw [hfull hq]
      exact panelRefusal_counts _ y s
    · obtain ⟨u, hr, ha⟩ := hroom hq
      rw [hr]
      exact ha.counts_requested

/-! ## The press (R149) -/

section
variable {y : Tap} {x : PanelTap} {s : State}

theorem pressed_tapRec (y z : Tap) (presses : BitVec 8) (s : State) :
    (pressed y presses s).tapRec z = if z = y then { s.tapRec y with lastPresses := some presses } else s.tapRec z := tapRec_modTap _ _ _ _

theorem firstFailure_pressed (y : Tap) (presses : BitVec 8) (s : State) : firstFailure y (pressed y presses s) = firstFailure y s := by
  unfold firstFailure table8_3
  dsimp only
  rw [pressed_tapRec, if_pos rfl]
  rfl

theorem pressTap_same (h : (s.tapRec y).lastPresses = some x.presses) : pressTap y x s = s := by
  have hs : pressed y x.presses s = s := by
    have hu : upd s.tap.taps y (fun r => { r with lastPresses := some x.presses }) = s.tap.taps := upd_eq_self (by
      show { s.tapRec y with lastPresses := some x.presses } = s.tapRec y
      rw [← h])
    show ({ s with tap := { s.tap with taps := upd s.tap.taps y _ } } : State) = s
    rw [hu]
  unfold pressTap
  rw [h]
  show (if x.presses = x.presses then pressed y x.presses s else _) = s
  rw [if_pos rfl, hs]

theorem pressTap_changed {l : BitVec 8} (h : (s.tapRec y).lastPresses = some l) (hl : l ≠ x.presses) :
    pressTap y x s = pressTaken y x.choice (pressed y x.presses s) := by
  unfold pressTap
  rw [h]
  exact if_neg hl

theorem pressTaken_pour {c : Press} {p : Pour} (h : (s.tapRec y).pour = some p) : pressTaken y c s = endPour .cancelled y s := by
  unfold pressTaken
  dsimp only
  rw [h]
  rfl

theorem pressTaken_idle {c : Press} (h : (s.tapRec y).pour = none) :
    pressTaken y c s = match c with
      | .stop => s
      | .small => panelRequest (s.tapRec y).set.smallVolume y s
      | .large => panelRequest (s.tapRec y).set.largeVolume y s := by
  unfold pressTaken
  dsimp only
  rw [h]
  cases c <;> rfl

theorem pressTaken_counts (y : Tap) (c : Press) (s : State) : Counts s (pressTaken y c s) := by
  cases h : (s.tapRec y).pour with
  | some p =>
    rw [pressTaken_pour h]
    exact endPour_counts .cancelled y s
  | none =>
    rw [pressTaken_idle h]
    cases c with
    | stop => exact Counts.refl s
    | small | large => exact panelRequest_counts _ y s

/-- R149. The press counter is taken, and no other count. -/
theorem pressTap_counts (y : Tap) (x : PanelTap) (s : State) : Counts (pressed y x.presses s) (pressTap y x s) := by
  cases h : (s.tapRec y).lastPresses with
  | none =>
    unfold pressTap
    rw [h]
    exact Counts.refl _
  | some l =>
    by_cases hl : l = x.presses
    · unfold pressTap
      rw [h]
      show Counts _ (if l = x.presses then pressed y x.presses s else _)
      rw [if_pos hl]
      exact Counts.refl _
    · rw [pressTap_changed h hl]
      exact pressTaken_counts y x.choice _

theorem pressTap_remaining (y : Tap) (x : PanelTap) (b : Bay) (s : State) : ((pressTap y x s).keg b).remaining = (s.keg b).remaining := by
  have ht : Touches [.image, .man, .kegs, .taps, .up, .atn, .pourless] s (pressTap y x s) :=
    pressTap_touches (Touches.refl _ s) (by decide) (by decide) (by decide) (by decide) (by decide) (by decide) (by decide)
  exact remaining_of_same (ht .volumes (by decide)) b

theorem pressTap_cancels {l : BitVec 8} {p : Pour} (h : (s.tapRec y).lastPresses = some l) (hl : l ≠ x.presses) (hp : (s.tapRec y).pour = some p) :
    PourEnded y p false .cancelled s (pressTap y x s) := by
  have hp' : ((pressed y x.presses s).tapRec y).pour = some p := by
    rw [pressed_tapRec, if_pos rfl]
    exact hp
  have hw : PourWork (fun _ => True) s (pressed y x.presses s) := PourWork.modTap trivial rfl rfl
  have he := Ended.after hw (endPour_ended .cancelled hp')
  rw [show (!p.pouring && PourReason.cancelled.refuses) = false from Bool.and_false _] at he
  rw [pressTap_changed h hl, pressTaken_pour hp']
  exact he.pourEnded

theorem pressTap_asks {l : BitVec 8} {v : Nat} (h : (s.tapRec y).lastPresses = some l) (hl : l ≠ x.presses) (hp : (s.tapRec y).pour = none)
    (hv : x.choice = .small ∧ v = (s.tapRec y).set.smallVolume ∨ x.choice = .large ∧ v = (s.tapRec y).set.largeVolume) :
    pressTap y x s = panelRequest v y (pressed y x.presses s) := by
  have hr : (pressed y x.presses s).tapRec y = { s.tapRec y with lastPresses := some x.presses } := by
    rw [pressed_tapRec, if_pos rfl]
  rw [pressTap_changed h hl, pressTaken_idle (by rw [hr]; exact hp), hr]
  rcases hv with ⟨hc, rfl⟩ | ⟨hc, rfl⟩ <;> rw [hc]

end

end Sys2Proof.Proofs
end

section
/-! PROOFS. The panel's hand-over, clause by clause (R66, R67, R149, R150, R153, R155, R156). -/

namespace Sys2Proof.Proofs

open Sys2Proof.Machine Sys2Proof.Safety Sys2Proof.Claims

/-! ## The counts (R149) -/

/-- Both tap records rewritten, one after the other or at once. -/
theorem both_taps (f : Tap → TapRecord → TapRecord) (s : State) :
    (s.modTap 0 (f 0)).modTap 1 (f 1) = { s with tap := { s.tap with taps := Vector.ofFn fun z : Fin 2 => f z s.tap.taps[z] } } := by
  have hu : upd (upd s.tap.taps 0 (f 0)) 1 (f 1) = Vector.ofFn fun z : Fin 2 => f z s.tap.taps[z] := by
    refine Vector.ext fun i hi => ?_
    rw [Vector.getElem_ofFn]
    show (upd (upd s.tap.taps 0 (f 0)) 1 (f 1))[(⟨i, hi⟩ : Fin 2)] = _
    rw [upd_get, upd_get, upd_get]
    rcases tap_cases ⟨i, hi⟩ with h | h <;> rw [h] <;> rfl
  show ({ s with tap := { s.tap with taps := upd (upd s.tap.taps 0 (f 0)) 1 (f 1) } } : State) = _
  rw [hu]

/-- R149. The baseline. -/
theorem panelData_first (x : Vector PanelTap 2) (s : State) : panelData true x s =
    { s with tap := { s.tap with taps := Vector.ofFn fun z : Fin 2 =>
      { s.tap.taps[z] with lastFlow := some x[z].flow, lastPresses := some x[z].presses } } } :=
  both_taps (fun z r => { r with lastFlow := some x[z].flow, lastPresses := some x[z].presses }) s

section
variable {x : Vector PanelTap 2} {s : State}

/-- R149. The metering of a later hand-over goes before its presses. -/
theorem panelData_later (x : Vector PanelTap 2) (s : State) :
    ∃ m, MeteredBoth x s m ∧ panelData false x s = pressTap 1 x[(1 : Tap)] (pressTap 0 x[(0 : Tap)] m) := ⟨_, meterBoth_metered x s, rfl⟩

theorem panelData_counts (x : Vector PanelTap 2) (s : State) (y : Tap) :
    ((panelData false x s).tapRec y).lastFlow = some x[y].flow ∧ ((panelData false x s).tapRec y).lastPresses = some x[y].presses := by
  obtain ⟨m, hm, ht⟩ := panelData_later x s
  obtain ⟨hf₁, hp₁⟩ := pressTap_counts 0 x[(0 : Tap)] m y
  obtain ⟨hf₂, hp₂⟩ := pressTap_counts 1 x[(1 : Tap)] (pressTap 0 x[(0 : Tap)] m) y
  obtain ⟨hf, -⟩ := hm.counts y
  rw [ht, hf₂, hp₂]
  rcases tap_cases y with rfl | rfl
  · rw [pressed_tapRec, if_neg first_ne_second, hf₁, hp₁, pressed_tapRec, if_pos rfl]
    exact ⟨hf, rfl⟩
  · rw [pressed_tapRec, if_neg first_ne_second.symm] at hf₁
    rw [pressed_tapRec, if_pos rfl]
    exact ⟨hf₁.trans hf, rfl⟩

theorem panelData_remaining (x : Vector PanelTap 2) (s : State) (b : Bay) :
    ((panelData false x s).keg b).remaining = (s.keg b).remaining - drawnFrom x b 0 s - drawnFrom x b 1 s := by
  obtain ⟨m, hm, ht⟩ := panelData_later x s
  rw [ht, pressTap_remaining, pressTap_remaining, hm.remaining]

/-- R149. Without a press the hand-over is its metering. -/
theorem panelData_metered (h : NoPress x s) : MeteredBoth x s (panelData false x s) := by
  obtain ⟨m, hm, ht⟩ := panelData_later x s
  have hp : ∀ y, (m.tapRec y).lastPresses = some x[y].presses := fun y => (hm.counts y).2.trans (h y)
  rw [ht, pressTap_same (hp 0), pressTap_same (hp 1)]
  exact hm

theorem panelData_idle (h : NoPress x s) (hp : ∀ y p, (s.tapRec y).pour = some p → p.pouring = false) :
    panelData false x s = { s with tap := { s.tap with taps := Vector.ofFn fun z : Fin 2 => { s.tap.taps[z] with lastFlow := some x[z].flow } } } :=
  ((panelData_metered h).idle hp).trans (both_taps (fun z r => { r with lastFlow := some x[z].flow }) s)

/-- R149. The presses are taken after the metering, as the same counts without a press leave it. -/
theorem panelData_presses {l₁ l₂ : BitVec 8} (h₁ : (s.tapRec 0).lastPresses = some l₁) (h₂ : (s.tapRec 1).lastPresses = some l₂) :
    panelData false x s = pressTap 1 x[1] (pressTap 0 x[0] (panelData false #v[{ x[0] with presses := l₁ }, { x[1] with presses := l₂ }] s)) := by
  have hn : NoPress #v[{ x[0] with presses := l₁ }, { x[1] with presses := l₂ }] s := fun y => by
    rcases tap_cases y with rfl | rfl
    · exact h₁
    · exact h₂
  have hm : MeteredBoth x s (meterBoth x[0].flow x[1].flow s) := meterBoth_metered x s
  have hp : ∀ y : Tap, ((meterBoth x[0].flow x[1].flow s).tapRec y).lastPresses = (s.tapRec y).lastPresses := fun y => (hm.counts y).2
  have he : panelData false #v[{ x[0] with presses := l₁ }, { x[1] with presses := l₂ }] s =
      pressTap 1 { x[1] with presses := l₂ } (pressTap 0 { x[0] with presses := l₁ } (meterBoth x[0].flow x[1].flow s)) := rfl
  rw [he, pressTap_same ((hp 0).trans h₁), pressTap_same ((hp 1).trans h₂)]
  rfl

end

/-! ## The pours (R153, R155, R156) -/

/-- R153, R155. What becomes of the POURING pour `p` of tap `y`; tap `z` is the other. -/
def PourMetered (x : Vector PanelTap 2) (y z : Tap) (p : Pour) (s t : State) : Prop :=
  let p' := (meteredAt x y s p).1
  let v := (meteredAt x y s p).2
  let other := drawnFrom x p.bay z s
  let remaining := (s.keg p.bay).remaining
  (v + other = 0 ∨ v + other < remaining → v = 0 ∨ p'.metered < p.target → (t.tapRec y).pour = some p') ∧
  (v + other < remaining → 0 < v → p.target ≤ p'.metered → PourEnded y p' false .done s t ∧ (t.keg p.bay).phase = (s.keg p.bay).phase) ∧
  (0 < v → (if y = 0 then remaining ≤ v else remaining - other ≤ v ∧ (other = 0 ∨ other < remaining)) →
    PourEnded y p' false .empty s t ∧
    ((s.keg p.bay).phase ≠ .serving → (t.keg p.bay).phase = (s.keg p.bay).phase) ∧
    ((s.keg p.bay).phase = .serving →
      (t.keg p.bay).phase = .spent ∧ (t.keg p.bay).underControl = false ∧ Raised .kegSpent (bayNum p.bay) t ∧
      ∀ q, (s.tapRec z).pour = some q → q.bay = p.bay →
        let q' := (meteredAt x z s q).1
        (t.tapRec z).pour = none ∧
        (s.mgp.up.length < 12 →
          (other = 0 → Recorded z q false .spent t ∨ Recorded z q' false .spent t) ∧
          (y = 0 → 0 < other → Recorded z q false .spent t ∨ Recorded z q' false .empty t) ∧
          (y = 1 → 0 < other → q'.metered < q.target → Recorded z q' false .spent t) ∧
          (y = 1 → 0 < other → q.target ≤ q'.metered → Recorded z q' false .done t))))

section
variable {x : Vector PanelTap 2} {s m : State} {p : Pour}

theorem MeteredBoth.first_pour (h : MeteredBoth x s m) (hp : (s.tapRec 0).pour = some p) : PourMetered x 0 1 p s m := by
  refine ⟨h.first_runs hp, fun hn hv ht => ?_, fun hv hr => ?_⟩
  · obtain ⟨he, hph⟩ := h.first_done hp hn hv ht
    exact ⟨he.pourEnded, hph⟩
  · rw [if_pos rfl] at hr
    obtain ⟨he, hph, hs⟩ := h.first_empties hp hv hr
    refine ⟨he.pourEnded, hph, fun hserving => ?_⟩
    obtain ⟨⟨h1, h2, h3⟩, hq⟩ := hs hserving
    refine ⟨h1, h2, h3, fun q hq' hqb => ?_⟩
    obtain ⟨hgone, hrec⟩ := hq q hq' hqb
    refine ⟨hgone, fun hl => ?_⟩
    obtain ⟨hzero, hpos⟩ := hrec (room_of_length hl)
    exact ⟨hzero, fun _ => hpos, fun h01 => absurd h01 first_ne_second, fun h01 => absurd h01 first_ne_second⟩

theorem MeteredBoth.second_pour (h : MeteredBoth x s m) (hp : (s.tapRec 1).pour = some p) : PourMetered x 1 0 p s m := by
  refine ⟨h.second_runs hp, fun hn hv ht => ?_, fun hv hr => ?_⟩
  · obtain ⟨he, hph⟩ := h.second_done hp hn hv ht
    exact ⟨he.pourEnded, hph⟩
  · rw [if_neg first_ne_second.symm] at hr
    obtain ⟨hrem, ho⟩ := hr
    obtain ⟨he, hph, hs⟩ := h.second_empties hp hv hrem ho
    refine ⟨he.pourEnded, hph, fun hserving => ?_⟩
    obtain ⟨⟨h1, h2, h3⟩, hq⟩ := hs hserving
    refine ⟨h1, h2, h3, fun q hq' hqb => ?_⟩
    obtain ⟨hgone, hrec⟩ := hq q hq' hqb
    refine ⟨hgone, fun hl => ?_⟩
    obtain ⟨hspent, hdone⟩ := hrec (room_of_length hl)
    exact ⟨fun hz => .inr (hspent (.inl hz)), fun h10 => absurd h10 first_ne_second.symm, fun _ _ hlt => hspent (.inr hlt), fun _ => hdone⟩

theorem panelData_pour {y z : Tap} (h : NoPress x s) (hz : z ≠ y) (hp : (s.tapRec y).pour = some p) : PourMetered x y z p s (panelData false x s) := by
  have hm := panelData_metered h
  rcases tap_cases y with rfl | rfl
  · obtain rfl : z = 1 := (tap_cases z).resolve_left hz
    exact hm.first_pour hp
  · obtain rfl : z = 0 := (tap_cases z).resolve_right hz
    exact hm.second_pour hp

end

/-! ## The presses (R149, R150) -/

section
variable {y : Tap} {x : PanelTap} {s : State} {l : BitVec 8}

theorem pressTap_stop (h : (s.tapRec y).lastPresses = some l) (hl : l ≠ x.presses) (hp : (s.tapRec y).pour = none) (hc : x.choice = .stop) :
    pressTap y x s = pressed y x.presses s := by
  have hp' : ((pressed y x.presses s).tapRec y).pour = none := by
    rw [pressed_tapRec, if_pos rfl]
    exact hp
  rw [pressTap_changed h hl, pressTaken_idle hp', hc]

section
variable {v : Nat} (ht : pressTap y x s = panelRequest v y (pressed y x.presses s))
include ht

theorem pressTap_refused {reason : PourReason} (h : firstFailure y s = some reason) : PanelRefused y reason x.presses s (pressTap y x s) := by
  rw [ht, panelRequest_failing ((firstFailure_pressed _ _ _).trans h)]
  exact panelRefusal_refused y reason x.presses s

/-- R150, R151. A press for a pour that no check refuses. -/
theorem pressTap_passing {b : Bay} (h : firstFailure y s = none) (hb : (s.tapRec y).set.binding = some b) :
    (QueueFull ((s.keg b).servePressure.getD 0) s → PanelRefused y .gasBusy x.presses s (pressTap y x s)) ∧
    (¬ QueueFull ((s.keg b).servePressure.getD 0) s →
      (pressTap y x s).tap.pourNumber = s.tap.pourNumber + 1 ∧ ((pressTap y x s).keg b).pours = (s.keg b).pours + 1 ∧ (pressTap y x s).mgp = s.mgp ∧
      ∃ p, ((pressTap y x s).tapRec y).pour = some p ∧ p.number = s.tap.pourNumber ∧ p.bay = b ∧ p.source = .panel ∧
        p.target = min v (s.keg b).remaining ∧ p.metered = 0) := by
  have hb' : ((pressed y x.presses s).tapRec y).set.binding = some b := by
    rw [pressed_tapRec, if_pos rfl]
    exact hb
  obtain ⟨hfull, hroom⟩ := panelRequest_passing (v := v) ((firstFailure_pressed y x.presses s).trans h) hb'
  rw [ht]
  refine ⟨fun hq => ?_, fun hq => ?_⟩
  · rw [hfull hq]
    exact panelRefusal_refused y .gasBusy x.presses s
  · obtain ⟨u, hr, ha⟩ := hroom hq
    rw [hr]
    exact accepted_fields ha

end

end

end Sys2Proof.Proofs
end

section
/-! PROOFS. A READY reply of node 9, and the hand-over that it brings about (R14, R15, R149). -/

namespace Sys2Proof.Proofs

open Sys2Proof.Machine Sys2Proof.Safety Sys2Proof.Claims

/-- R15. With panel data from a node that no channel reads, the panel's event is the hand-over. -/
theorem handOver_panel_unread {n : Node} {r : Reply} {first : Bool} {v : Vector PanelTap 2} {s : State} (h : r.panel = some v) (hun : Unread n s) :
    ∃ free, handOver n r first s = panelData first v { s with free := free } := by
  have hr : readers n s = [] := List.filter_eq_nil_iff.2 fun c _ e => hun c (of_decide_eq_true (Bool.and_eq_true_iff.1 e).1)
  obtain ⟨free, before, after, hp, he⟩ := handOver_panel (n := n) (first := first) (s := s) h
  have hnone : publishers n r s = [] := by simp [publishers, hr]
  have hcond : conditionReadings n r (s.setFree free) = s.setFree free := by
    unfold conditionReadings
    rw [show readers n (s.setFree free) = [] from hr]
    rfl
  rw [hnone] at hp
  obtain ⟨rfl, rfl⟩ := List.append_eq_nil_iff.1 (List.perm_nil.1 hp)
  rw [hcond] at he
  exact ⟨free, he⟩

/-- R14. The TAP takes no notice of the panel's return: its role has none. -/
theorem roleOnline_panel (lost : Bool) (s : State) : roleOnline panelNode lost s = s := by
  unfold roleOnline
  rw [if_neg (by decide), if_neg (by decide)]

/-- R11, R14, R15. A READY reply of the tap panel's node, where no channel reads the node. -/
theorem exchangeSucceeded_panel {r : Reply} {v : Vector PanelTap 2} {s : State} (h : r.panel = some v) (hun : Unread panelNode s) :
    ∃ free, exchangeSucceeded panelNode r s =
      endExchange (panelData (decide ((s.node panelNode).state ≠ .online)) v { s.modNode panelNode (heardRecord r) with free := free }) := by
  by_cases ho : (s.node panelNode).state = .online
  · obtain ⟨free, he⟩ := handOver_panel_unread (first := false) (s := s.modNode panelNode (heardRecord r)) h hun
    refine ⟨free, ?_⟩
    rw [exchangeSucceeded_online ho, he, decide_eq_false (not_not.2 ho)]
  · obtain ⟨free₁, hd⟩ := deliverOnline_unread (lost := decide ((s.node panelNode).state = .lost)) (s := s.modNode panelNode (heardRecord r)) hun
    rw [roleOnline_panel] at hd
    obtain ⟨free, he⟩ := handOver_panel_unread (first := true) (s := { s.modNode panelNode (heardRecord r) with free := free₁ }) h hun
    refine ⟨free, ?_⟩
    unfold exchangeSucceeded
    simp only [ho, if_false]
    rw [decide_eq_true (p := (s.node panelNode).state ≠ .online) ho]
    exact congrArg endExchange ((congrArg (handOver panelNode r true) hd).trans he)

/-- Settles O55. -/
theorem panelDataIsMetered : Obligations.PanelDataIsMetered := by
  refine ⟨panelData_first, fun x s => ⟨panelData_counts x s, panelData_remaining x s, panelData_idle⟩, fun x y z p s hn hz hp _ => panelData_pour hn hz hp,
    fun x l₁ l₂ s h₁ h₂ => panelData_presses h₁ h₂, fun y x s => ⟨pressTap_same, fun l h hl => ⟨fun p hp => pressTap_cancels h hl hp,
      fun hp hc => pressTap_stop h hl hp hc, fun v hp hv => ?_⟩⟩, fun s x chars r v ha he hp hn hj hv hun => ?_⟩
  · have ht := pressTap_asks h hl hp hv
    exact ⟨fun reason hf => pressTap_refused ht hf, fun b hf hb => pressTap_passing ht hf hb⟩
  · refine ⟨_, exec_readyReply ha he hp hj, ?_⟩
    rw [hn]
    obtain ⟨free, hs⟩ := exchangeSucceeded_panel (s := s) hv hun
    rw [hs]
    exact ⟨free, endOfExchange_touches _⟩

end Sys2Proof.Proofs
end

section
/-! PROOFS. The routes: ROUTE_LOAD alone changes them, and it leaves no destination with two entries (R41, R43, R44). -/

namespace Sys2Proof.Proofs

open Sys2Proof.Machine Sys2Proof.Safety Sys2Proof.Claims

/-! ## Work that changes no route -/

/-- Everything but the routes. -/
def unrouted : List Part :=
  [.control, .line, .nodes, .image, .records, .chans, .slots, .drawn, .counts, .chains, .phases, .volumes, .kegs, .sch, .chlSettings, .chl,
   .manSettings, .latches, .man, .tapSettings, .taps, .retry, .port, .receiver, .responses, .up, .masks, .atn, .free, .flags, .sentOn, .pourless,
   .released, .linkOk, .urgentOk, .chansOk, .poolOk, .kegsOk, .gasOk, .upOk, .atnOk]

theorem mem_unrouted (p : Part) : p ∈ unrouted ↔ p ≠ .routes := by cases p <;> decide

/-- No request but ROUTE_LOAD changes a route. -/
theorem handlerOf_unrouted {r : Request} (hr : ∀ p, r ≠ .routeLoad p) (s : State) : Touches unrouted s (handlerOf r s).2 := by
  have h := Touches.refl unrouted s
  cases r
  case routeLoad p => exact absurd rfl (hr p)
  case channelSet p =>
    exact withParams_touches h fun _ => withNumber_touches h fun _ _ => require_touches h fun _ => withNumber_touches h fun _ hr =>
      require_touches h fun _ => by simp [setRecord_touches, checkRecord_bounds hr, mem_unrouted]
  case channelSeed p =>
    exact withParams_touches h fun _ => withNumber_touches h fun _ _ => require_touches h fun ht => require_touches h fun _ => by
      apply seed_touches (ht := ht) h <;> simp [mem_unrouted]
  case channelSubst p | tapLock p =>
    exact withParams_touches h fun _ => withNumber_touches h fun _ _ => withNumber_touches h fun _ _ => by simp [mem_unrouted]
  case tapLoad p =>
    refine withParams_touches h fun _ => require_touches h fun _ => withNumber_touches h fun _ _ => withNumber_touches h fun _ _ => ?_
    split
    · exact h
    · simp (maxDischargeDepth := 40) [mem_unrouted]
  case gasSet p =>
    exact withParams_touches h fun _ => require_touches h fun _ => require_touches h fun _ => by simp [mem_unrouted]
  case chillSet p =>
    exact withParams_touches h fun _ => require_touches h fun _ => require_touches h fun _ => withNumber_touches h fun _ _ => by simp [mem_unrouted]
  case run p =>
    refine withParams_touches h fun _ => require_touches h fun _ => ?_
    split <;> simp [mem_unrouted]
  case hold p => exact withParams_touches h fun _ => require_touches h fun _ => by simp [mem_unrouted]
  case softReset p => exact withParams_touches h fun _ => by simp [mem_unrouted]
  case kegLoad p =>
    exact withParams_touches h fun _ => withNumber_touches h fun _ _ => require_touches h fun hv => require_touches h fun _ =>
      withNumber_touches h fun _ _ => by
        apply loadKeg_touches (hv := of_decide_eq_true hv) h <;> simp [mem_unrouted]
  case kegSchedule p =>
    exact withParams_touches h fun _ => withNumber_touches h fun _ _ => require_touches h fun hv => withNumber_touches h fun _ _ =>
      require_touches h fun _ => require_touches h fun _ => by
        apply scheduleKeg_touches (hv := by rw [of_decide_eq_true hv]; decide) h <;> simp [mem_unrouted]
  case kegAppend p =>
    exact withParams_touches h fun _ => withNumber_touches h fun _ _ => require_touches h fun hv => withNumber_touches h fun _ _ =>
      require_touches h fun _ => require_touches h fun _ => by
        apply appendSteps_touches (hv := by rw [of_decide_eq_true hv]; decide) h <;> simp [mem_unrouted]
  case kegServe p =>
    exact withParams_touches h fun _ => withNumber_touches h fun _ _ => require_touches h fun _ => require_touches h fun _ =>
      require_touches h fun _ => by simp [mem_unrouted]
  case kegAbort p =>
    exact withParams_touches h fun _ => withNumber_touches h fun _ _ => require_touches h fun _ => require_touches h fun _ => by simp [mem_unrouted]
  case kegRemove p => exact withParams_touches h fun _ => withNumber_touches h fun _ _ => require_touches h fun _ => by simp [mem_unrouted]
  case kegResume p =>
    refine withParams_touches h fun _ => withNumber_touches h fun _ _ => require_touches h fun _ => ?_
    split <;> simp [mem_unrouted]
  case kegVolume p =>
    exact withParams_touches h fun _ => withNumber_touches h fun _ _ => require_touches h fun _ => require_touches h fun _ =>
      require_touches h fun _ => by simp [mem_unrouted]
  case kegLimits p =>
    exact withParams_touches h fun _ => withNumber_touches h fun _ _ => require_touches h fun _ => require_touches h fun _ =>
      withNumber_touches h fun _ _ => require_touches h fun _ => by simp [mem_unrouted]
  case tapBind p =>
    exact withParams_touches h fun _ => withNumber_touches h fun _ _ => withNumber_touches h fun _ _ => require_touches h fun _ =>
      require_touches h fun _ => by simp [mem_unrouted]
  case pour p =>
    refine withParams_touches h fun x => withNumber_touches h fun y _ => require_touches h fun _ => ?_
    have hp : Touches unrouted s (requestPour .host x.volume.toNat y s).2 := by simp [requestPour_touches, mem_unrouted]
    split <;> simp_all
  case pourCancel p =>
    refine withParams_touches h fun _ => withNumber_touches h fun _ _ => ?_
    split <;> simp [mem_unrouted]
  case gasCheck p =>
    refine withParams_touches h fun _ => ?_
    have hp : Touches unrouted s (raiseNeed true (checkEntry s) s).2 := by simp [raiseNeed_touches, mem_unrouted]
    unfold gasCheckRequest
    repeat' split
    all_goals simp_all
  case gasUnlock p =>
    refine withParams_touches h fun _ => ?_
    unfold gasUnlockRequest
    repeat' split
    all_goals simp [mem_unrouted]
  case attnMask p => exact withParams_touches h fun _ => require_touches h fun _ => withNumber_touches h fun _ _ => by simp [mem_unrouted]
  case attnAck p => exact withParams_touches h fun _ => require_touches h fun _ => by simp [acknowledge_touches, mem_unrouted]
  case nodeWrite p =>
    exact withParams_touches h fun _ => withNumber_touches h fun _ _ => withNumber_touches h fun _ _ => withNumber_touches h fun _ _ =>
      require_touches h fun _ => by simp [mem_unrouted]
  case qKeg p | qChannel p | qTap p | nodeRead p => exact withParams_touches h fun _ => withNumber_touches h fun _ _ => h
  case qStatus p | qQueues p | qIdent p => exact withParams_touches h fun _ => h
  case unknown c => exact h

theorem routesOk_of_same {s t : State} (h : Same .routes s t) (hs : RoutesOk s) : RoutesOk t := by
  have h : t.rte.routes = s.rte.routes := h
  rwa [RoutesOk, h]

/-! ## ROUTE_LOAD (R43, R44) -/

/-- R44. The entry of a table as it was given. -/
theorem routeTable_dest {l : List Route} {c : Chan} {d : Dest} (h : (routeTable l)[c].dest = some d) : (l[c.val]?).bind (·.dest) = some d := by
  have h : (l.getD c.val { dest := none, divider := 0 }).dest = some d := by simpa [routeTable] using h
  rw [List.getD_eq_getElem?_getD] at h
  cases he : l[c.val]? with
  | none => simp [he] at h
  | some x => simpa [he] using h

theorem duplicates_of_lower {l : List Route} {c c' : Chan} {d : Dest} (hc : c' < c) (hd : (l[c'.val]?).bind (·.dest) = some d) :
    duplicates l c.val d = true := by
  obtain ⟨x, hx, hxd⟩ := Option.bind_eq_some_iff.1 hd
  have hm : x ∈ l.take c.val := List.mem_of_getElem? (i := c'.val) (by rw [List.getElem?_take_of_lt hc, hx])
  exact List.any_eq_true.2 ⟨x, hm, decide_eq_true hxd⟩

/-- R43. In a table without an offence no entry has a lower-numbered one with its destination. -/
theorem not_duplicates_of_offence {l : List Route} {s : State} (h : offence l s = none) {c : Chan} {d : Dest}
    (hd : (l[c.val]?).bind (·.dest) = some d) : duplicates l c.val d = false := by
  have hc : offenceAt l s c = none := Option.map_eq_none_iff.1 (List.findSome?_eq_none_iff.1 h c (List.mem_finRange c))
  refine Bool.eq_false_iff.2 fun hn => ?_
  simp only [offenceAt, hd, hn, if_true, reduceCtorEq] at hc

theorem loadRoutes_routes (l : List Route) (s : State) : (loadRoutes l s).rte.routes = routeTable l := by
  have h : ∀ (ds : List Dest) (u : State), Touches unrouted u (forAll ds slotEmptied u) := fun ds u =>
    forAll_touches (Touches.refl _ u) fun d v hv => by simp [hv, mem_unrouted]
  exact h _ _ .routes (by decide)

theorem loadRoutes_routesOk {l : List Route} {s : State} (h : offence l s = none) : RoutesOk (loadRoutes l s) := by
  rw [RoutesOk, loadRoutes_routes]
  have hlow : ∀ (c c' : Chan) (d : Dest), (routeTable l)[c].dest = some d → (routeTable l)[c'].dest = some d → ¬ c' < c :=
    fun c c' d hd hd' hlt => Bool.eq_false_iff.1 (not_duplicates_of_offence h (routeTable_dest hd)) (duplicates_of_lower hlt (routeTable_dest hd'))
  exact fun c c' d hd hd' => le_antisymm (not_lt.1 (hlow c c' d hd hd')) (not_lt.1 (hlow c' c d hd' hd))

/-- R43, R44. ROUTE_LOAD leaves the routes as they are, or leaves a table that has passed its check. -/
theorem handlerOf_routesOk (r : Request) {s : State} (hs : RoutesOk s) : RoutesOk (handlerOf r s).2 := by
  by_cases hr : ∃ p, r = .routeLoad p
  · obtain ⟨p, rfl⟩ := hr
    cases p with
    | wrongLength => exact hs
    | params l =>
      simp only [handlerOf, withParams, routeLoadRequest, require, withNumber]
      split_ifs
      · split
        · split
          · exact hs
          · exact loadRoutes_routesOk ‹_›
        · exact hs
      all_goals exact hs
  · exact routesOk_of_same (handlerOf_unrouted (fun p e => hr ⟨p, e⟩) s .routes (by decide)) hs

/-! ## Every step -/

theorem carriedOut_routesOk (r : Request) {s : State} (hs : RoutesOk s) : RoutesOk (carriedOut r s) := by
  have hc : Same .routes (handlerOf r s).2 (closeOf r (handlerOf r s).2) :=
    closeOf_touches (l := eventParts) (Touches.refl _ _) (by decide) (by decide) (by decide) .routes (by decide)
  unfold carriedOut
  split
  · exact routesOk_of_same hc (handlerOf_routesOk r hs)
  · exact handlerOf_routesOk r hs

theorem exec_routesOk {i : Instr} (hi : i ≠ .hardwareReset) {s t : State} (hs : RoutesOk s) (h : exec i s = .next t) : RoutesOk t := by
  rcases command_cases i with rfl | he | ⟨bytes, r, rfl⟩ | rfl | ⟨tag, r, rfl⟩
  · exact absurd rfl hi
  · exact routesOk_of_same (exec_event_touches he h .routes (by decide)) hs
  · rcases exec_frameReceived_cases h with rfl | ⟨tag, rfl⟩ | ⟨held, rfl⟩
    · exact hs
    · have hf : Touches [.port, .receiver, .up, .atn] s (receiveFrame { tag := tag, request := r } s) :=
        receiveFrame_touches (Touches.refl _ s) (by decide) (by decide) (by decide) (by decide)
      exact routesOk_of_same (hf .routes (by decide)) hs
    · exact hs
  · rcases exec_transmit_cases h with rfl | ⟨f, rest, sent, bytes, -, rfl⟩ <;> exact hs
  · rcases exec_request_cases tag r h with rfl | ⟨-, rfl⟩
    · exact hs
    · exact carriedOut_routesOk r hs

end Sys2Proof.Proofs
end

section
/-! PROOFS. The records of channels, kegs, routes and flags, kept by every step (R20, R43, R66, R72, R178). -/

namespace Sys2Proof.Proofs

open Sys2Proof.Machine Sys2Proof.Safety Sys2Proof.Claims

/-! ## Right after a hardware reset -/

theorem resetFrom_chan (u : State) (c : Chan) : (resetFrom u).chan c = Channel.reset := Vector.getElem_replicate c.isLt

theorem resetFrom_keg (u : State) (b : Bay) : (resetFrom u).keg b = Keg.reset := Vector.getElem_replicate b.isLt

theorem resetFrom_atn (u : State) (i : Fin 12) : (resetFrom u).atn[i] = FlagRecord.reset := Vector.getElem_replicate i.isLt

theorem resetFrom_route (u : State) (c : Chan) : (resetFrom u).rte.routes[c] = { dest := none, divider := 0 } := Vector.getElem_replicate c.isLt

theorem reset_channelOk : ChannelOk Channel.reset := by simp [ChannelOk, Channel.reset, ChannelRecord.reset]

theorem reset_kegOk : KegOk Keg.reset := ⟨Nat.le_refl _, by decide⟩

theorem reset_flagOk : FlagOk FlagRecord.reset := ⟨fun _ => rfl, List.Pairwise.nil⟩

theorem reset_routesOk (u : State) : RoutesOk (resetFrom u) := fun c _ _ hd _ => by
  rw [resetFrom_route] at hd
  cases hd

/-! ## What every step keeps -/

theorem kept_routesOk : Kept RoutesOk :=
  kept_of_exec reset_routesOk (fun s => routesOk_of_same (idle_touches s .routes (by decide))) (fun _ _ h => h)
    fun _ _ _ hi hs h => exec_routesOk hi hs h

theorem kept_channelsOk : Kept ChannelsOk :=
  kept_of_part (p := .chansOk) (by decide) (fun _ _ => Iff.rfl) fun u c => resetFrom_chan u c ▸ reset_channelOk

theorem kept_kegsOk : Kept KegsOk :=
  kept_of_part (p := .kegsOk) (by decide) (fun _ _ => Iff.rfl) fun u b => resetFrom_keg u b ▸ reset_kegOk

theorem kept_flagsOk : Kept FlagsOk :=
  kept_of_part (p := .atnOk) (by decide) (fun _ _ => Iff.rfl) fun u i => resetFrom_atn u i ▸ reset_flagOk

/-- Settles O59: the bounds of channels, kegs and flags are parts of their own, and ROUTE_LOAD alone changes a route. -/
theorem everyStepKeepsTheRecords : Obligations.EveryStepKeepsTheRecords :=
  ⟨kept_channelsOk, kept_kegsOk, kept_routesOk, kept_flagsOk⟩

end Sys2Proof.Proofs
end

section
/-! PROOFS. The two resets of the channels (R39, R40). -/

namespace Sys2Proof.Proofs

open Sys2Proof.Machine Sys2Proof.Safety Sys2Proof.Claims

/-- R21. Where every channel is OFF, none takes a reading. -/
theorem readers_of_off {s : State} (h : ∀ c, (s.chan c).state = .off) (n : Node) : readers n s = [] :=
  List.eq_nil_iff_forall_not_mem.2 fun c hc => by
    have ht := (mem_readers.1 hc).2
    rw [h c] at ht
    cases ht

/-- R21, R40. Readings that no channel takes are discarded. -/
theorem takeReadings_discarded {n : Node} {s : State} (h : readers n s = []) (r : Reply) : takeReadings n r s = s := by
  have hc : conditionReadings n r s = s := by rw [conditionReadings, h]; rfl
  have hp : publishers n r s = [] := by rw [publishers, h]; rfl
  rw [takeReadings, hc, hp]
  rfl

/-- Settles O5. -/
theorem hardwareResetOfTheChannels : Obligations.HardwareResetOfTheChannels := fun s =>
  ⟨resetFrom s, rfl, resetFrom_chan s, fun n r => takeReadings_discarded (readers_of_off (fun c => by rw [resetFrom_chan]; rfl) n) r⟩

theorem softReset_chan (s : State) (c : Chan) : (softReset s).chan c = (s.chan c).softReset := by
  rw [softReset_eq]
  exact Vector.getElem_map _ c.isLt

/-- Settles O24. -/
theorem softwareResetOfTheChannels : Obligations.SoftwareResetOfTheChannels := fun _ s h =>
  ⟨_, softReset_leads h, fun c => (softReset_chan s c).trans rfl⟩

end Sys2Proof.Proofs
end

section
/-! PROOFS. What a channel makes of one reading: scaling, clamping, the spike check, the window, and what it publishes (R22 to R28). -/

namespace Sys2Proof.Proofs

open Sys2Proof.Machine Sys2Proof.Safety Sys2Proof.Claims

/-! ## A value as it enters a window (R22, R34) -/

theorem rangeOf_eq (k : ChanKind) : rangeOf k = (kindLow k, kindHigh k) := by cases k <;> rfl

theorem kindLow_le_kindHigh (k : ChanKind) : kindLow k ≤ kindHigh k := by cases k <;> decide

theorem entryOf_eq_entering (k : ChanKind) (v : Int) : entryOf k v = entering k v := by
  have h := kindLow_le_kindHigh k
  have hv : clampTo k v = max (kindLow k) (min (kindHigh k) v) := by
    unfold clampTo
    split_ifs <;> omega
  have hc : max (kindLow k) (min (kindHigh k) v) ≠ v ↔ v < kindLow k ∨ kindHigh k < v := by omega
  simp only [entryOf, entering, rangeOf_eq, hv, hc]

/-! ## The filtered value (R26) -/

/-- Table 2-1. A legal record has weights under WEIGHTED alone. -/
theorem positionWeights_legal {r : ChannelRecord} (h : RecordLegal r) : positionWeights r = r.weights.getD (List.replicate r.window 1) := by
  obtain ⟨-, -, -, -, -, -, -, -, h⟩ := h
  unfold positionWeights
  cases hf : r.filter <;> cases hw : r.weights <;> simp_all

theorem filterWindow_legal {r : ChannelRecord} (h : RecordLegal r) (w : List WindowEntry) : filterWindow r w = filteredValue r w := by
  simp only [filterWindow, weightedSum, filteredValue, positionWeights_legal h, List.zip, List.map_zipWith]

theorem full_iff (ch : Channel) : ch.full = true ↔ ch.window.length = ch.record.window := decide_eq_true_iff

theorem filtered_full {ch : Channel} (h : RecordLegal ch.record) (hf : ch.window.length = ch.record.window) :
    ch.filtered = some (filteredValue ch.record ch.window) := by
  rw [Channel.filtered, if_pos ((full_iff ch).2 hf), filterWindow_legal h]

theorem filtered_notFull {ch : Channel} (hf : ch.window.length ≠ ch.record.window) : ch.filtered = none :=
  if_neg fun h => hf ((full_iff ch).1 h)

/-! ## Conditioning (R22 to R28) -/

/-- R23. The value strays from the filtered value of a full window by more than the record's spike limit. -/
theorem spikes_iff {ch : Channel} (h : RecordLegal ch.record) (v : Int) :
    ch.spikes v = true ↔ ch.record.spike ≠ 0 ∧ ch.window.length = ch.record.window ∧
      (ch.record.spike < v - filteredValue ch.record ch.window ∨ ch.record.spike < filteredValue ch.record ch.window - v) := by
  unfold Channel.spikes
  by_cases hf : ch.window.length = ch.record.window
  · rw [filtered_full h hf]
    simp only [Bool.and_eq_true, decide_eq_true_eq, hf, true_and]
    refine and_congr_right fun _ => ?_
    omega
  · rw [filtered_notFull hf]
    simp [hf]

theorem count_eq_counted (ch : Channel) : ch.count = Claims.counted ch := by simp only [Channel.count, Claims.counted, full_iff]

theorem accept_full {ch : Channel} (h : ch.window.length = ch.record.window) (e : WindowEntry) :
    ch.accept e = { ch with window := ch.window.drop 1 ++ [e], rejectRun := 0 } := by
  simp [Channel.accept, full_iff, h]

theorem accept_notFull {ch : Channel} (h : ch.window.length ≠ ch.record.window) (e : WindowEntry) :
    ch.accept e = { ch with window := ch.window ++ [e], rejectRun := 0 } := by
  simp [Channel.accept, full_iff, h]

theorem condition_stray {ch : Channel} {raw : Nat} (h : ch.spikes (entering ch.record.kind (scaled ch.record raw)).value = true) :
    ch.condition raw =
      if ch.rejectRun < 2 then ({ ch with rejectRun := ch.rejectRun + 1 }, false) else Claims.counted (ch.reseed (entering ch.record.kind (scaled ch.record raw))) := by
  simp only [Channel.condition, entryOf_eq_entering, h, if_true, count_eq_counted]

theorem condition_accepted {ch : Channel} {raw : Nat} (h : ¬ ch.spikes (entering ch.record.kind (scaled ch.record raw)).value = true) :
    ch.condition raw = Claims.counted (ch.accept (entering ch.record.kind (scaled ch.record raw))) := by
  simp only [Channel.condition, entryOf_eq_entering, h, count_eq_counted]
  rfl

theorem clampMark_eq (ch : Channel) : ch.clampMark = if ∃ x ∈ ch.window, x.clamped = true then .clamp else .none := by
  simp only [Channel.clampMark, List.any_eq_true]

/-- R28, R36. What a channel with a full window publishes. -/
theorem publication_full {ch : Channel} (h : RecordLegal ch.record) (hf : ch.window.length = ch.record.window) :
    ch.publication = match ch.subst with
      | .off => (filteredValue ch.record ch.window, if ∃ x ∈ ch.window, x.clamped = true then .clamp else .none)
      | .const v => (v, .subst)
      | .alt v1 v2 second => (if second then v2 else v1, .subst) := by
  cases hs : ch.subst <;> simp only [Channel.publication, hs, filtered_full h hf, clampMark_eq, Option.getD_some]

/-- Settles O28. -/
theorem aReadingIsConditioned : Obligations.AReadingIsConditioned := by
  intro ch raw hl e full strays
  have hs : ch.spikes e.value = true ↔ strays := spikes_iff hl e.value
  refine ⟨fun h hr => ?_, fun h hr => ?_, fun h hf => ?_, fun h hf => ?_, fun hf => publication_full hl hf⟩
  · exact (condition_stray (hs.2 h)).trans (if_pos hr)
  · exact (condition_stray (hs.2 h)).trans (if_neg (by omega))
  · rw [← accept_full hf]
    exact condition_accepted fun hx => h (hs.1 hx)
  · rw [← accept_notFull hf]
    exact condition_accepted fun hx => h (hs.1 hx)

end Sys2Proof.Proofs
end

section
/-! PROOFS. CHANNEL_SET: its checks, the record that it sets, and the slot that it empties (R32, R33). -/

namespace Sys2Proof.Proofs

open Sys2Proof.Machine Sys2Proof.Safety Sys2Proof.Claims

/-! ## How a channel's request is answered -/

/-- What the end of a request's event, and its answer, may reach. -/
def closeParts : List Part := eventParts ++ answerParts

theorem answered_touches (tag : Byte) (r : Request) (a : Answer) (u : State) : Touches closeParts u (respond tag r a (finish u)) :=
  respond_touches (finish_touches (Touches.refl _ u) (by decide) (by decide) (by decide)) (by decide) (by decide) (by decide) (by decide)

theorem answered_chan (tag : Byte) (r : Request) (a : Answer) (u : State) (c : Chan) : (respond tag r a (finish u)).chan c = u.chan c := by
  have h : (respond tag r a (finish u)).ccu = u.ccu := answered_touches tag r a u .chans (by decide)
  rw [State.chan, h]

theorem rte_of_touches {l : List Part} {s t : State} (h : Touches l s t) (h0 : .routes ∉ l) (h1 : .slots ∉ l) (h2 : .drawn ∉ l) :
    { t.rte with counts := s.rte.counts } = s.rte := by
  have hr : t.rte.routes = s.rte.routes := h .routes h0
  have hs : t.rte.slots = s.rte.slots := h .slots h1
  have hd : t.rte.lastControl = s.rte.lastControl := h .drawn h2
  show Rte.mk t.rte.routes t.rte.slots s.rte.counts t.rte.lastControl = s.rte
  rw [hr, hs, hd]

theorem answered_rte (tag : Byte) (r : Request) (a : Answer) (u : State) : (respond tag r a (finish u)).rte = u.rte := by
  have h := answered_touches tag r a u
  have hc : (respond tag r a (finish u)).rte.counts = u.rte.counts := h .counts (by decide)
  have hr := rte_of_touches h (by decide) (by decide) (by decide)
  rwa [← hc] at hr

/-- R170. A request that leaves the Management Port's own fields alone is carried out to `u`, and what holds of `u` once it is answered holds. -/
theorem carriedOut_beside_port {tag : Byte} {r : Request} {code : Byte} {x : Result} {parts : List Part} {s u : State} {post : State → Prop}
    (hq : isQuiet r = false) (hc : requestCode r = some code) (hh : handlerOf r s = ({ status := .ok, result := x }, u))
    (ht : Touches (.image :: parts) s u) (hp : .port ∉ parts) (hpost : post (respond tag r { status := .ok, result := x } (finish u))) :
    CarriedOut tag r code x id parts s post := by
  have hm : { u.mgp with up := s.mgp.up, seq := s.mgp.seq } = s.mgp := ht .port (by simp [hp])
  refine carriedOut_of hq hc hh (congrArg (fun m : Mgp => { m with receiver := m.receiver.tail }) hm) (ht.mono ?_) hpost
  simp +contextual [eventParts]

/-! ## What CHANNEL_SET checks (R32, R33) -/

theorem inputOf_val (i : Fin 4) : inputOf i.val = some i := dif_pos i.isLt

theorem inputOf_eq_some {k : Nat} {i : Fin 4} (h : inputOf k = some i) : k = i.val := by
  unfold inputOf at h
  split at h
  · cases h
    rfl
  · cases h

/-- Table 2-1, as the model's own checks have it. -/
theorem recordLegal_iff (r : ChannelRecord) :
    RecordLegal r ↔ (within 1 65000 r.gain && within (-100000) 100000 r.offset && within 0 100000 r.spike &&
      windowOk r.filter r.window r.weights && within 1 16 r.decimation) = true := by
  unfold RecordLegal windowOk
  have hgain : ((1 : Int) ≤ r.gain ∧ (r.gain : Int) ≤ 65000) ↔ 1 ≤ r.gain ∧ r.gain ≤ 65000 := by omega
  have hdec : ((1 : Int) ≤ r.decimation ∧ (r.decimation : Int) ≤ 16) ↔ 1 ≤ r.decimation ∧ r.decimation ≤ 16 := by omega
  simp only [within, Bool.and_eq_true, decide_eq_true_eq, hgain, hdec]
  cases r.filter <;> cases r.weights <;> simp only [decide_eq_true_eq, Bool.false_eq_true] <;> tauto

theorem checkRecord_fieldsOf {r : ChannelRecord} (h : RecordLegal r) : checkRecord (fieldsOf r) = some r := by
  have h := (recordLegal_iff r).1 h
  simp only [checkRecord, fieldsOf, nodeOf_nodeNum, inputOf_val, Option.bind_eq_bind, Option.bind_some, h, if_true, Int.toNat_natCast]

/-- R32 step 1. The fields that pass the check are those of a legal record. -/
theorem checkRecord_eq_some {f : ChannelFields} {r : ChannelRecord} (h : checkRecord f = some r) : RecordLegal r ∧ f = fieldsOf r := by
  unfold checkRecord at h
  simp only [Option.bind_eq_bind, Option.bind_eq_some_iff] at h
  obtain ⟨e, he, n, hn, i, hi, k, hk, g, hg, h⟩ := h
  split at h
  · rename_i hc
    have hgain : (f.gain.toNat : Int) = f.gain := by
      simp only [Bool.and_eq_true, within, decide_eq_true_eq] at hc
      omega
    cases h
    refine ⟨(recordLegal_iff _).2 (by simpa only [hgain] using hc), ?_⟩
    simp only [fieldsOf, hgain, ← nodeOf_eq_some hn, ← inputOf_eq_some hi, ← he, ← hk, ← hg]
  · cases h

theorem checkRecord_illegal {f : ChannelFields} (h : ∀ r, RecordLegal r → f ≠ fieldsOf r) : checkRecord f = none := by
  cases hc : checkRecord f with
  | none => rfl
  | some r =>
    obtain ⟨hl, hf⟩ := checkRecord_eq_some hc
    exact absurd hf (h r hl)

theorem suits_iff (k : ChanKind) (d : Option Dest) : suits k d = true ↔ Suits k d := by
  cases d with
  | none => simp [suits, Suits]
  | some d => cases d <;> simp [suits, Suits, destKind, eq_comm]

theorem active_eq_none_iff (p : Phase) : p.active = none ↔ p ≠ .scheduled ∧ p ≠ .serving := by cases p <;> simp [Phase.active]

theorem channelFree_iff (c : Chan) (s : State) : channelFree c s = true ↔ s.mgp.part = .held ∨ ¬ FeedsActiveKeg c s := by
  rw [channelFree, Bool.or_eq_true, decide_eq_true_iff, part_eq_held]
  refine or_congr_right ?_
  unfold FeedsActiveKeg
  cases hd : s.rte.routes[c].dest with
  | none => simp
  | some d => cases d <;> simp [active_eq_none_iff]

/-! ## What CHANNEL_SET writes (R33) -/

/-- R33. A channel that starts with a record. -/
def freshChannel (r : ChannelRecord) : Channel :=
  { record := r, state := if r.enabled then .priming else .off, window := [], rejectRun := 0, decimationCount := 0, subst := .off }

theorem setRecord_eq (c : Chan) (r : ChannelRecord) (s : State) :
    setRecord c r s = if (s.chan c).state = .live then leftLive c (s.modChan c fun _ => freshChannel r) else s.modChan c fun _ => freshChannel r := by
  unfold setRecord
  simp only [decide_eq_true_eq]
  rfl

theorem freshChannel_ok {r : ChannelRecord} (h : 1 ≤ r.window ∧ r.window ≤ 8 ∧ 1 ≤ r.decimation) : ChannelOk (freshChannel r) := by
  obtain ⟨hl, hu, hd⟩ := h
  cases he : r.enabled <;> simp [ChannelOk, freshChannel, he, hl, hu, hd]
  all_goals omega

theorem leftLive_ccu (c : Chan) (s : State) : (leftLive c s).ccu = s.ccu := (leftLive_ruin c s).touches .chans (by decide)

theorem setRecord_chan (c c' : Chan) (r : ChannelRecord) (s : State) :
    (setRecord c r s).chan c' = if c' = c then freshChannel r else s.chan c' := by
  have h : (setRecord c r s).ccu = (s.modChan c fun _ => freshChannel r).ccu := by
    rw [setRecord_eq]
    split
    · exact leftLive_ccu c _
    · rfl
  rw [State.chan, h]
  exact chan_modChan c c' _ s

/-- R47. A slot that is emptied stays empty through its delivery. -/
theorem emptySlot_get (d : Dest) (s : State) : (emptySlot d s).rte.slots[destIdx d] = none := by
  unfold emptySlot
  split
  · have h : Touches [.image, .chl, .man, .kegs, .phases, .taps, .up, .atn, .free, .drawn] (setSlot d none s) (slotEmptied d (setSlot d none s)) :=
      slotEmptied_touches (Touches.refl _ _) (by decide) (by decide) (by decide) (by decide) (by decide) (by decide) (by decide) (by decide)
        (by decide) (by decide)
    have hs : (slotEmptied d (setSlot d none s)).rte.slots = (setSlot d none s).rte.slots := h .slots (by decide)
    exact (congrArg (·[destIdx d]) hs).trans ((setSlot_get d d none s).trans (if_pos rfl))
  · exact Option.not_isSome_iff_eq_none.1 ‹_›

theorem leftLive_slot {c : Chan} {d : Dest} {s : State} (h : s.rte.routes[c].dest = some d) : (leftLive c s).rte.slots[destIdx d] = none := by
  simp only [leftLive, h]
  exact emptySlot_get d s

theorem setRecord_slot {c : Chan} {r : ChannelRecord} {d : Dest} {s : State} (hl : (s.chan c).state = .live) (h : s.rte.routes[c].dest = some d) :
    (setRecord c r s).rte.slots[destIdx d] = none := by
  rw [setRecord_eq, if_pos hl]
  exact leftLive_slot h

theorem setRecord_notLive {c : Chan} {r : ChannelRecord} {s : State} (hl : (s.chan c).state ≠ .live) (hr : 1 ≤ r.window ∧ r.window ≤ 8 ∧ 1 ≤ r.decimation) :
    Touches [.records, .chans] s (setRecord c r s) := by
  rw [setRecord_eq, if_neg hl]
  exact modChan_touches (Touches.refl _ s) (by decide) (.inl (by decide)) (.inr fun _ _ => freshChannel_ok hr)

/-! ## CHANNEL_SET -/

theorem channelSet_handler (c : Chan) (f : ChannelFields) (s : State) :
    handlerOf (.channelSet (.params { channel := c.val, fields := f })) s =
      require (channelFree c s) .notAvailable (withNumber (checkRecord f) fun r s =>
        require (suits r.kind s.rte.routes[c].dest) .badRoute (fun s => okay (setRecord c r s)) s) s := by
  simp only [handlerOf, withParams, channelSetRequest, chanOf_val]
  rfl

/-- Settles O26. -/
theorem channelSetRestartsTheChannel : Obligations.ChannelSetRestartsTheChannel := by
  refine fun tag c s => ⟨fun f hr hf ht => exec_refused ht (by decide) ?_, fun f ha hn ht => exec_refused ht (by decide) ?_, fun r hr ha => ?_⟩
  · have hn : ¬ channelFree c s = true := fun h => ((channelFree_iff c s).1 h).elim (by simp [hr]) (absurd hf)
    rw [channelSet_handler, require, if_neg hn]
    rfl
  · rw [channelSet_handler, require, if_pos ((channelFree_iff c s).2 ha), checkRecord_illegal hn]
    rfl
  · have hh : handlerOf (.channelSet (.params { channel := c.val, fields := fieldsOf r })) s =
        require (suits r.kind s.rte.routes[c].dest) .badRoute (fun s => okay (setRecord c r s)) s := by
      rw [channelSet_handler, require, if_pos ((channelFree_iff c s).2 ha), checkRecord_fieldsOf hr]
      rfl
    have hb := checkRecord_bounds (checkRecord_fieldsOf hr)
    refine ⟨fun hs ht => exec_refused ht (by decide) ?_, fun hs => carriedOut_beside_port (u := setRecord c r s) rfl rfl ?_ ?_ (by decide) ?_⟩
    · rw [hh, require, if_neg fun h => hs ((suits_iff _ _).1 h)]
      rfl
    · rw [hh, require, if_pos ((suits_iff _ _).2 hs)]
      rfl
    · apply setRecord_touches (hr := hb) (Touches.refl _ s) <;> decide
    · refine ⟨?_, fun c' hc => ?_, fun hl => ?_, fun d hl hd => ?_⟩
      · rw [answered_chan, setRecord_chan, if_pos rfl]
        rfl
      · rw [answered_chan, setRecord_chan, if_neg hc]
      · exact ((setRecord_notLive hl hb).mono (by decide)).trans ((answered_touches _ _ _ _).mono (by decide))
      · rw [answered_rte, setRecord_slot hl hd]

end Sys2Proof.Proofs
end

section
/-! PROOFS. CHANNEL_SEED and CHANNEL_SUBST: what they publish, and the pours that a substitution ends (R34 to R37, R46). -/

namespace Sys2Proof.Proofs

open Sys2Proof.Machine Sys2Proof.Safety Sys2Proof.Claims

/-! ## A window of one value (R26, R34) -/

/-- Table 2-1, R26. The weights of a legal record: one for each place of the window, and not all of them 0. -/
theorem weights_legal {r : ChannelRecord} (h : RecordLegal r) :
    (r.weights.getD (List.replicate r.window 1)).length = r.window ∧ 1 ≤ (r.weights.getD (List.replicate r.window 1)).sum ∧ 1 ≤ r.window := by
  obtain ⟨-, -, -, -, -, -, -, -, h⟩ := h
  cases hf : r.filter <;> cases hw : r.weights <;> simp_all <;> omega

theorem weightedSum_replicate (ws : List Nat) (e : WindowEntry) :
    (List.zipWith (fun (a : Nat) (e : WindowEntry) => (a : Int) * e.value) ws (List.replicate ws.length e)).sum = (ws.sum : Int) * e.value := by
  induction ws with
  | nil => simp
  | cons a ws ih => simp only [List.length_cons, List.replicate_succ, List.zipWith_cons_cons, List.sum_cons, ih, Nat.cast_add, add_mul]

/-- R26. A window of one value filters to that value. -/
theorem filteredValue_replicate {r : ChannelRecord} (h : RecordLegal r) (e : WindowEntry) : filteredValue r (List.replicate r.window e) = e.value := by
  obtain ⟨hl, hs, -⟩ := weights_legal h
  have hsum := weightedSum_replicate (r.weights.getD (List.replicate r.window 1)) e
  rw [hl] at hsum
  simp only [filteredValue, hsum]
  exact Int.mul_tdiv_cancel_left _ (by omega)

/-! ## Publications and pours -/

/-- Every pour of the second state was there in the first, from the same bay. -/
def PoursKept (s t : State) : Prop := ∀ y q, (t.tapRec y).pour = some q → ∃ q₀, (s.tapRec y).pour = some q₀ ∧ q₀.bay = q.bay

/-- No pour is from the bay. -/
def NoPourFrom (b : Bay) (s : State) : Prop := ∀ y q, (s.tapRec y).pour = some q → q.bay ≠ b

theorem PoursKept.trans {s t u : State} (h : PoursKept s t) (g : PoursKept t u) : PoursKept s u := fun y q hq => by
  obtain ⟨q', hq', hb'⟩ := g y q hq
  obtain ⟨q₀, hq₀, hb₀⟩ := h y q' hq'
  exact ⟨q₀, hq₀, hb₀.trans hb'⟩

theorem PoursKept.of_work {T : Tap → Prop} {loss : Loss} {s t : State} (h : Work T loss s t) : PoursKept s t := fun y => (h.taps y).pour

theorem PoursKept.of_touches {l : List Part} {s t : State} (h : Touches l s t) (h0 : .taps ∉ l) : PoursKept s t := fun y q hq => by
  have hp : (untimed (t.tapRec y)).pour = (untimed (s.tapRec y)).pour := congrArg TapRecord.pour (tapRec_of_same (h .taps h0) y)
  exact ⟨q, hp.symm.trans hq, rfl⟩

theorem NoPourFrom.kept {b : Bay} {s t : State} (h : NoPourFrom b s) (g : PoursKept s t) : NoPourFrom b t := fun y q hq => by
  obtain ⟨q₀, hq₀, hb⟩ := g y q hq
  rw [← hb]
  exact h y q₀ hq₀

/-- R46, R49. A publication to a keg's core or wall slot begins no pour. -/
theorem publish_poursKept {c : Chan} {b : Bay} {s : State} (h : s.rte.routes[c].dest = some (.kegCore b) ∨ s.rte.routes[c].dest = some (.kegWall b)) :
    PoursKept s (publish c s) := by
  have hstore : ∀ (f : Channel → Channel) (d : Dest) (x : Option Slot), PoursKept s (setSlot d x (s.modChan c f)) := fun _ _ _ y q hq => ⟨q, hq, rfl⟩
  have hdeliver : ∀ (draws : Bool) (u : State), PoursKept u (deliverControl b draws u) := fun draws u => PoursKept.of_work (deliverControl_ruin b draws u).work
  have hcount : ∀ (v : Int) (m : Marks) (u : State), PoursKept u (reportCount c v m u) := fun v m u =>
    PoursKept.of_touches (l := [.up, .atn, .counts]) (reportCount_touches (Touches.refl _ u) (by decide) (by decide) (by decide)) (by decide)
  rcases h with h | h <;>
  · simp only [publish, storePublication, modChan_rte, h]
    exact ((hstore _ _ _).trans (hdeliver _ _)).trans (hcount _ _ _)

/-- R28. A publication of a channel that is routed to NONE. -/
theorem publish_unrouted {c : Chan} {s : State} (h : s.rte.routes[c].dest = none) : Touches [.chans, .up, .atn, .counts] s (publish c s) := by
  simp only [publish, storePublication, modChan_rte, h]
  exact reportCount_touches (modChan_touches (Touches.refl _ s) (by decide) (.inr fun _ => rfl) (.inr fun _ hx => hx)) (by decide) (by decide) (by decide)

/-! ## CHANNEL_SEED (R34) -/

/-- R34. A channel whose window is filled with one entry. -/
def seeded (e : WindowEntry) (ch : Channel) : Channel :=
  { ch with window := List.replicate ch.record.window e, rejectRun := 0, decimationCount := 0, state := .live }

theorem seed_eq (c : Chan) (v : Int) (s : State) : seed c v s = publish c (s.modChan c fun ch => seeded (entering ch.record.kind v) ch) := by
  simp only [seed, entryOf_eq_entering, seeded]

theorem seed_chan (c c' : Chan) (v : Int) (s : State) :
    (seed c v s).chan c' =
      if c' = c then { seeded (entering (s.chan c).record.kind v) (s.chan c) with subst := (s.chan c).subst.next } else s.chan c' := by
  rw [seed_eq, publish_chan]
  split
  · rw [chan_modChan, if_pos rfl]
    rfl
  · rw [chan_modChan, if_neg ‹_›]

/-- R28, R34, R36. What a channel publishes as it is seeded. -/
theorem publication_seeded {ch : Channel} (h : RecordLegal ch.record) (e : WindowEntry) :
    (seeded e ch).publication = match ch.subst with
      | .off => (e.value, if e.clamped then .clamp else .none)
      | .const x => (x, .subst)
      | .alt v1 v2 second => (if second then v2 else v1, .subst) := by
  have hw : ch.record.window ≠ 0 := Nat.one_le_iff_ne_zero.1 (weights_legal h).2.2
  have hf : filteredValue ch.record (List.replicate ch.record.window e) = e.value := filteredValue_replicate h e
  have hp := publication_full (ch := seeded e ch) h List.length_replicate
  cases hs : ch.subst <;> simpa [seeded, hs, hf, hw] using hp

theorem seed_slot {c : Chan} {v : Int} {d : Dest} {s : State} (h : s.rte.routes[c].dest = some d) :
    (seed c v s).rte.slots[destIdx d] =
      some { value := (seeded (entering (s.chan c).record.kind v) (s.chan c)).publication.1,
             marks := (seeded (entering (s.chan c).record.kind v) (s.chan c)).publication.2, channel := c } := by
  rw [seed_eq, publish_slot, chan_modChan, if_pos rfl]
  exact if_pos h

theorem channelSeed_handler (c : Chan) (v : Int) (s : State) :
    handlerOf (.channelSeed (.params { channel := c.val, value := v })) s =
      if (s.chan c).state.takes then if within (-100000) 100000 v then okay (seed c v s) else refuse .badValue s else refuse .notAvailable s := by
  simp only [handlerOf, withParams, channelSeedRequest, chanOf_val]
  rfl

/-! ## CHANNEL_SUBST (R35 to R37) -/

/-- R35. The channel with its substitution set. -/
def withSubst (c : Chan) (x : Subst) (s : State) : State := s.modChan c fun ch => { ch with subst := x }

theorem withSubst_chan (c c' : Chan) (x : Subst) (s : State) :
    (withSubst c x s).chan c' = if c' = c then { s.chan c with subst := x } else s.chan c' := chan_modChan c c' _ s

/-- What the end of pours may reach. -/
def poursParts : List Part := [.image, .man, .kegs, .taps, .up, .atn, .free]

theorem endPoursFrom_poursParts (reason : PourReason) (b : Bay) (s : State) : Touches poursParts s (endPoursFrom reason b s) :=
  endPoursFrom_touches (Touches.refl _ s) (by decide) (by decide) (by decide) (by decide) (by decide) (by decide) (by decide)

/-- Two pieces of work come in one order or in the other. -/
theorem eitherOrder_spec (f g : State → State) (s : State) :
    ∃ x, eitherOrder f g s = g (f (s.setFree x)) ∨ eitherOrder f g s = f (g (s.setFree x)) := by
  obtain ⟨k, x, -, hc⟩ := choose_spec (n := 2) (by decide) s
  refine ⟨x, ?_⟩
  simp only [eitherOrder, hc]
  split
  · exact .inl rfl
  · exact .inr rfl

theorem withSubst_state (c : Chan) (x : Subst) (s : State) : ((withSubst c x s).chan c).state = (s.chan c).state := by
  rw [withSubst_chan, if_pos rfl]

/-- R37. A substitution that concerns the pours of a bay ends them. -/
theorem substitute_keg {c : Chan} {x : Subst} {b : Bay} {s : State} (h : substBay c x s = some b) :
    substitute c x s =
      if (s.chan c).state = .live then eitherOrder (endPoursFrom .substituted b) (publish c) (withSubst c x s)
      else endPoursFrom .substituted b (withSubst c x s) := by
  have hb : substBay c x (withSubst c x s) = some b := h
  have hm : s.modChan c (fun ch => { ch with subst := x }) = withSubst c x s := rfl
  simp only [substitute, hm, hb, withSubst_state, decide_eq_true_eq]

theorem substitute_plain {c : Chan} {x : Subst} {s : State} (h : substBay c x s = none) :
    substitute c x s = if (s.chan c).state = .live then publish c (withSubst c x s) else withSubst c x s := by
  have hb : substBay c x (withSubst c x s) = none := h
  have hm : s.modChan c (fun ch => { ch with subst := x }) = withSubst c x s := rfl
  simp only [substitute, hm, hb, withSubst_state, decide_eq_true_eq]

/-- R35, R37. A channel that is not LIVE publishes nothing: at most pours end. -/
theorem substitute_notLive {c : Chan} {x : Subst} {s : State} (h : (s.chan c).state ≠ .live) :
    Touches poursParts (withSubst c x s) (substitute c x s) := by
  cases hb : substBay c x s with
  | some b =>
    rw [substitute_keg hb, if_neg h]
    exact endPoursFrom_poursParts _ b _
  | none =>
    rw [substitute_plain hb, if_neg h]
    exact Touches.refl _ _

/-- R35, R37. A LIVE channel publishes; pours may end before it or after it. -/
theorem substitute_live {c : Chan} {x : Subst} {s : State} (h : (s.chan c).state = .live) :
    ∃ u, Touches poursParts (withSubst c x s) u ∧ Touches poursParts (publish c u) (substitute c x s) := by
  cases hb : substBay c x s with
  | some b =>
    rw [substitute_keg hb, if_pos h]
    obtain ⟨y, he | he⟩ := eitherOrder_spec (endPoursFrom .substituted b) (publish c) (withSubst c x s) <;> rw [he]
    · exact ⟨_, (setFree_touches (Touches.refl _ _) (by decide)).trans (endPoursFrom_poursParts _ b _), Touches.refl _ _⟩
    · exact ⟨_, setFree_touches (Touches.refl _ _) (by decide), endPoursFrom_poursParts _ b _⟩
  | none =>
    rw [substitute_plain hb, if_pos h]
    exact ⟨_, Touches.refl _ _, Touches.refl _ _⟩

theorem ccu_of_poursParts {s t : State} (h : Touches poursParts s t) (c : Chan) : t.chan c = s.chan c := by
  have hc : t.ccu = s.ccu := h .chans (by decide)
  rw [State.chan, hc]

theorem rte_of_poursParts {s t : State} (h : Touches poursParts s t) : t.rte = s.rte := by
  have hc : t.rte.counts = s.rte.counts := h .counts (by decide)
  have hr := rte_of_touches h (by decide) (by decide) (by decide)
  rwa [← hc] at hr

/-- R35, R36. The channels once a substitution has been set. -/
theorem substitute_chan (c c' : Chan) (x : Subst) (s : State) :
    (substitute c x s).chan c' =
      if c' = c then { s.chan c with subst := if (s.chan c).state = .live then x.next else x } else s.chan c' := by
  by_cases h : (s.chan c).state = .live
  · obtain ⟨u, hu, ht⟩ := substitute_live (x := x) h
    rw [if_pos h, ccu_of_poursParts ht, publish_chan, ccu_of_poursParts hu, ccu_of_poursParts hu, withSubst_chan, withSubst_chan, if_pos rfl]
    split <;> rfl
  · rw [if_neg h, ccu_of_poursParts (substitute_notLive h), withSubst_chan]

theorem substitute_rte_notLive {c : Chan} {x : Subst} {s : State} (h : (s.chan c).state ≠ .live) : (substitute c x s).rte = s.rte :=
  (rte_of_poursParts (substitute_notLive h)).trans rfl

/-- R35, R36, R46. What the slot of a LIVE channel holds once its substitution has been set. -/
theorem substitute_slot {c : Chan} {x : Subst} {d : Dest} {s : State} (h : (s.chan c).state = .live) (hd : s.rte.routes[c].dest = some d) :
    (substitute c x s).rte.slots[destIdx d] =
      some { value := ({ s.chan c with subst := x } : Channel).publication.1, marks := ({ s.chan c with subst := x } : Channel).publication.2,
             channel := c } := by
  obtain ⟨u, hu, ht⟩ := substitute_live (x := x) h
  have hr : u.rte = s.rte := (rte_of_poursParts hu).trans rfl
  rw [rte_of_poursParts ht, publish_slot, ccu_of_poursParts hu, withSubst_chan, if_pos rfl, hr]
  exact if_pos hd

/-- R35, R51. A LIVE channel that is routed to NONE fills no slot. -/
theorem substitute_rte_unrouted {c : Chan} {x : Subst} {s : State} (h : (s.chan c).state = .live) (hd : s.rte.routes[c].dest = none) :
    { (substitute c x s).rte with counts := s.rte.counts } = s.rte := by
  obtain ⟨u, hu, ht⟩ := substitute_live (x := x) h
  have hr : u.rte = s.rte := (rte_of_poursParts hu).trans rfl
  have hp := rte_of_touches (publish_unrouted (s := u) (c := c) (by rwa [hr])) (by decide) (by decide) (by decide)
  rw [rte_of_poursParts ht]
  rwa [hr] at hp

/-- R37. No pour from the keg whose core or wall channel is substituted is left. -/
theorem substitute_noPourFrom {c : Chan} {x : Subst} {b : Bay} {s : State} (hx : x ≠ .off)
    (h : s.rte.routes[c].dest = some (.kegCore b) ∨ s.rte.routes[c].dest = some (.kegWall b)) : NoPourFrom b (substitute c x s) := by
  have hb : substBay c x s = some b := by rcases h with h | h <;> cases x <;> simp_all [substBay]
  have hgone : ∀ u, NoPourFrom b (endPoursFrom .substituted b u) := endPoursFrom_gone .substituted b
  rw [substitute_keg hb]
  split
  · obtain ⟨y, he | he⟩ := eitherOrder_spec (endPoursFrom .substituted b) (publish c) (withSubst c x s) <;> rw [he]
    · refine (hgone _).kept (publish_poursKept (b := b) ?_)
      rw [rte_of_poursParts (endPoursFrom_poursParts _ b _)]
      exact h
    · exact hgone _
  · exact hgone _

theorem checkSubst_const (k : ChanKind) (v : Int) :
    checkSubst k (.const v) = if (rangeOf k).1 ≤ v ∧ v ≤ (rangeOf k).2 then some (.const v) else none := by
  simp only [checkSubst, within, rangeOf_eq, decide_eq_true_eq]

theorem checkSubst_alt (k : ChanKind) (v1 v2 : Int) :
    checkSubst k (.alt v1 v2) =
      if ((rangeOf k).1 ≤ v1 ∧ v1 ≤ (rangeOf k).2) ∧ (rangeOf k).1 ≤ v2 ∧ v2 ≤ (rangeOf k).2 then some (.alt v1 v2 false) else none := by
  simp only [checkSubst, within, rangeOf_eq, Bool.and_eq_true, decide_eq_true_eq]

theorem channelSubst_handler (c : Chan) (code : SubstCode) (s : State) :
    handlerOf (.channelSubst (.params { channel := c.val, setting := code })) s =
      withNumber (checkSubst (s.chan c).record.kind code) (fun x s => okay (substitute c x s)) s := by
  simp only [handlerOf, withParams, channelSubstRequest, chanOf_val]
  rfl

/-! ## Both requests -/

theorem answered_noPourFrom {b : Bay} {u : State} (h : NoPourFrom b u) (tag : Byte) (r : Request) (a : Answer) :
    NoPourFrom b (respond tag r a (finish u)) :=
  h.kept ((PoursKept.of_work (finish_work (loss := ⟨False, False⟩) u)).trans
    (PoursKept.of_touches (respond_touches (l := answerParts) (Touches.refl _ _) (by decide) (by decide) (by decide) (by decide)) (by decide)))

/-- Settles O27. -/
theorem channelSeedAndSubst : Obligations.ChannelSeedAndSubst := by
  refine ⟨fun tag c v s => ⟨fun hs ht => exec_refused ht (by decide) ?_, fun hs hv ht => exec_refused ht (by decide) ?_,
    fun hs hl hu hr => ?_⟩, fun tag c s => ?_⟩
  · have hn : ¬ (s.chan c).state.takes = true := by rcases hs with h | h <;> rw [h] <;> decide
    rw [channelSeed_handler, if_neg hn]
    rfl
  · have hn : ¬ within (-100000) 100000 v = true := by
      simp only [within, decide_eq_true_eq]
      omega
    rw [channelSeed_handler, if_pos (takes_iff.2 hs), if_neg hn]
    rfl
  · refine carriedOut_beside_port (u := seed c v s) rfl rfl ?_ ?_ (by decide) ⟨?_, fun c' hc => ?_, fun d hd => ?_⟩
    · have hv : within (-100000) 100000 v = true := decide_eq_true ⟨hl, hu⟩
      rw [channelSeed_handler, if_pos (takes_iff.2 hs), if_pos hv]
      rfl
    · apply seed_touches (ht := takes_iff.2 hs) (Touches.refl _ s) <;> decide
    · rw [answered_chan, seed_chan, if_pos rfl]
      rfl
    · rw [answered_chan, seed_chan, if_neg hc]
    · rw [answered_rte, seed_slot hd, publication_seeded hr]
      cases (s.chan c).subst <;> rfl
  · refine ⟨fun v hv ht => exec_refused ht (by decide) ?_, fun v1 v2 hv ht => exec_refused ht (by decide) ?_, fun code x hcode => ?_⟩
    · rw [channelSubst_handler, checkSubst_const, if_neg hv]
      rfl
    · rw [channelSubst_handler, checkSubst_alt, if_neg hv]
      rfl
    · have hcheck : checkSubst (s.chan c).record.kind code = some x := by
        rcases hcode with ⟨rfl, rfl⟩ | ⟨v, hv, rfl, rfl⟩ | ⟨v1, v2, h1, h2, rfl, rfl⟩
        · rfl
        · rw [checkSubst_const, if_pos hv]
        · rw [checkSubst_alt, if_pos ⟨h1, h2⟩]
      refine carriedOut_beside_port (u := substitute c x s) rfl rfl (by rw [channelSubst_handler, hcheck]; rfl) ?_ (by decide)
        ⟨?_, fun c' hc => ?_, fun hl => ?_, fun v d hl hx hd => ?_, fun v1 v2 d hl hx hd => ?_, fun d hl hx hd hr hw => ?_, fun hl hd => ?_,
          fun b hx hd => ?_⟩
      · apply substitute_touches (Touches.refl _ s) <;> decide
      · rw [answered_chan, substitute_chan, if_pos rfl]
      · rw [answered_chan, substitute_chan, if_neg hc]
      · rw [answered_chan, answered_rte, substitute_chan, if_pos rfl, if_neg hl, substitute_rte_notLive hl]
        exact ⟨rfl, rfl⟩
      · rw [answered_chan, answered_rte, substitute_chan, if_pos rfl, if_pos hl, substitute_slot hl hd, hx]
        exact ⟨rfl, rfl⟩
      · rw [answered_chan, answered_rte, substitute_chan, if_pos rfl, if_pos hl, substitute_slot hl hd, hx]
        exact ⟨rfl, rfl⟩
      · rw [answered_chan, answered_rte, substitute_chan, if_pos rfl, if_pos hl, substitute_slot hl hd, hx,
          publication_full (ch := { s.chan c with subst := .off }) hr hw]
        exact ⟨rfl, rfl⟩
      · rw [answered_chan, answered_rte, substitute_chan, if_pos rfl, if_pos hl]
        refine ⟨substitute_rte_unrouted hl hd, ?_⟩
        rcases hcode with ⟨-, rfl⟩ | ⟨v, -, -, rfl⟩ | ⟨v1, v2, -, -, -, rfl⟩ <;> rfl
      · exact answered_noPourFrom (substitute_noPourFrom hx hd) tag _ _

end Sys2Proof.Proofs
end

section
/-! PROOFS. What the kegs sense, as the work of the manifold, the taps and the kegs themselves leaves it (R54). -/

namespace Sys2Proof.Proofs

open Sys2Proof.Machine Sys2Proof.Safety Sys2Proof.Claims

/-! ## What the kegs sense (R54) -/

/-- Every keg senses in the second state what it senses in the first. -/
def SensesKept (s t : State) : Prop :=
  ∀ b, (t.keg b).sensedTemp = (s.keg b).sensedTemp ∧ (t.keg b).sensedPressure = (s.keg b).sensedPressure

theorem SensesKept.refl (s : State) : SensesKept s s := fun _ => ⟨rfl, rfl⟩

theorem SensesKept.trans {s t u : State} (h : SensesKept s t) (g : SensesKept t u) : SensesKept s u := fun b =>
  ⟨(g b).1.trans (h b).1, (g b).2.trans (h b).2⟩

theorem SensesKept.of_touches {l : List Part} {s t : State} (h : Touches l s t) (h0 : .kegs ∉ l) : SensesKept s t := fun b => by
  have hk : t.kegs = s.kegs := h .kegs h0
  rw [State.keg, hk]
  exact ⟨rfl, rfl⟩

theorem SensesKept.branch {s t u : State} {c : Prop} {_ : Decidable c} (h : SensesKept s t) (g : SensesKept s u) : SensesKept s (if c then t else u) := by
  split
  · exact h
  · exact g

theorem SensesKept.forAll {α : Type} {l : List α} {f : α → State → State} (hf : ∀ x u, SensesKept u (f x u)) (s : State) : SensesKept s (forAll l f s) := by
  induction l generalizing s with
  | nil => exact SensesKept.refl s
  | cons x l ih => exact (hf x s).trans (ih _)

theorem SensesKept.forAny {α : Type} {l : List α} {f : α → State → State} (hf : ∀ x u, SensesKept u (f x u)) (s : State) : SensesKept s (forAny l f s) := by
  obtain ⟨l', x, -, he⟩ := forAny_spec l f s
  rw [he]
  exact SensesKept.trans (t := s.setFree x) (SensesKept.refl s) (SensesKept.forAll hf _)

theorem SensesKept.modKeg {b : Bay} {f : Keg → Keg} {s : State}
    (h : ∀ k, (f k).sensedTemp = k.sensedTemp ∧ (f k).sensedPressure = k.sensedPressure := by exact fun _ => ⟨rfl, rfl⟩) : SensesKept s (s.modKeg b f) := fun d => by
  rw [keg_modKeg]
  split
  · rename_i e
    subst e
    exact h _
  · exact ⟨rfl, rfl⟩

/-! ## The manifold -/

theorem chargeMarked_senses (b : Bay) (s : State) : SensesKept s (chargeMarked b s) := SensesKept.branch SensesKept.modKeg (SensesKept.refl s)

theorem chargeEnded_senses (b : Bay) (opened : Bool) (s : State) : SensesKept s (chargeEnded b opened s) := SensesKept.branch SensesKept.modKeg (SensesKept.refl s)

theorem startOperation_senses (e : GasEntry) (s : State) : SensesKept s (startOperation e s) := by
  have hm : Touches [.image, .man] s (write .man .regulator (newOperation e s).pressure.toNat (s.modMan fun m => { m with op := some (newOperation e s), state := .busy })) :=
    write_touches (modMan_touches (Touches.refl _ s) (by decide) (.inr fun _ => ⟨rfl, rfl, rfl, rfl, rfl, rfl, rfl⟩) (.inr fun _ h => h)) (by decide)
  have ht : ∀ n u, SensesKept u (tellServed n u) := fun n u => by
    cases n with
    | charge b => exact chargeMarked_senses b u
    | purge _ _ | pour _ _ | check => exact SensesKept.refl u
  exact (SensesKept.of_touches hm (by decide)).trans (ht _ _)

theorem serveQueue_senses (s : State) : SensesKept s (serveQueue s) := by
  have he : ∀ e, SensesKept s (serveEntry e s) := fun e => by
    have hs : SensesKept s (startOperation e (s.modMan fun m => { m with queue := m.queue.erase e })) :=
      SensesKept.trans (t := s.modMan _) (SensesKept.refl s) (startOperation_senses e _)
    exact SensesKept.branch hs hs
  refine SensesKept.branch ?_ (SensesKept.refl s)
  split
  · exact he _
  · exact SensesKept.refl s

theorem becomeIdle_senses (s : State) : SensesKept s (becomeIdle s) := serveQueue_senses (s.modMan fun m => { m with state := .idle })

theorem pourEnded_senses (y : Tap) (s : State) : SensesKept s (pourEnded y s) := by
  have hidle : ∀ {c : Prop} {_ : Decidable c} (u : State), SensesKept u (if c then becomeIdle (clearOp u) else u) := fun u =>
    SensesKept.branch (becomeIdle_senses (clearOp u)) (SensesKept.refl u)
  have hshut : ∀ {c : Prop} {_ : Decidable c} (b : Bay) (u : State), SensesKept u (if c then u else write .man (.gasIn b) 0 u) := fun b u =>
    SensesKept.branch (SensesKept.refl u) (SensesKept.of_touches (write_touches (Touches.refl [.image] u) (by decide)) (by decide))
  unfold pourEnded
  dsimp only
  split
  · split
    · exact SensesKept.trans (t := (unqueued y s).modMan _) (SensesKept.refl s) ((hshut _ _).trans (hidle _))
    · exact SensesKept.refl s
  · exact SensesKept.refl s

theorem chargesEnd_senses (b : Bay) (s : State) : SensesKept s (chargesEnd b s) := by
  have hq : SensesKept s (if s.man.queue.any fun e => e.need.same (.charge b) then
      chargeEnded b false (s.modMan fun m => { m with queue := m.queue.filter fun e => !e.need.same (.charge b) }) else s) :=
    SensesKept.branch (chargeEnded_senses b false (s.modMan _)) (SensesKept.refl s)
  have hw : ∀ {c : Prop} {_ : Decidable c} (u : State), SensesKept u (clearOp (if c then write .man (.gasIn b) 0 u else u)) := fun u =>
    SensesKept.trans (t := if _ then _ else _)
      (SensesKept.branch (SensesKept.of_touches (write_touches (Touches.refl [.image] u) (by decide)) (by decide)) (SensesKept.refl u)) (SensesKept.refl _)
  unfold chargesEnd
  dsimp only
  split
  · exact hq.trans (SensesKept.branch (((hw _).trans (chargeEnded_senses b _ _)).trans (becomeIdle_senses _)) (SensesKept.refl _))
  · exact hq

/-! ## The taps -/

theorem raiseNeed_senses (serving : Bool) (e : GasEntry) (s : State) : SensesKept s (raiseNeed serving e s).2 := by
  unfold raiseNeed
  split
  · exact SensesKept.of_touches (joinPour_touches (Touches.refl [.image, .man, .taps] s) (by decide) (by decide) (by decide)) (by decide)
  · exact startOperation_senses e s
  · exact SensesKept.refl s
  · exact SensesKept.refl s

theorem evalPurge_senses (serving : Bool) (y : Tap) (s : State) : SensesKept s (evalPurge serving y s) := by
  have hr := raiseNeed_senses serving (purgeEntry y s) s
  refine SensesKept.branch ?_ (SensesKept.refl s)
  split
  all_goals
    rename_i u hu
    rw [hu] at hr
    exact hr

theorem endPour_senses (reason : PourReason) (y : Tap) (s : State) : SensesKept s (endPour reason y s) := by
  cases h : (s.tapRec y).pour with
  | none =>
    rw [endPour_none h]
    exact SensesKept.refl s
  | some p =>
    have hv : SensesKept s (noticed y p s) :=
      (SensesKept.branch (SensesKept.of_touches (write_touches (Touches.refl [.image] s) (by decide)) (by decide)) (SensesKept.refl s)).trans (pourEnded_senses y _)
    have hg : ∀ u, SensesKept u (pourGoneFrom y p (pourReport y p reason) u) := fun u b => by
      rw [pourGoneFrom_keg]
      split <;> exact ⟨rfl, rfl⟩
    have ha : ∀ u, SensesKept u (afterNotice reason y p u) := fun u =>
      SensesKept.branch ((hg u).trans (SensesKept.of_touches (startBlink_touches (Touches.refl [.taps] _) (by decide)) (by decide))) (hg u)
    have hi : ∀ u, SensesKept u (tapIdle y u) := fun u =>
      SensesKept.trans (t := if _ then _ else _) (SensesKept.branch (serveQueue_senses u) (SensesKept.refl u)) (evalPurge_senses true y _)
    rw [endPour_eq h, pourEndCore_eq]
    exact SensesKept.branch ((hv.trans (ha _)).trans (hi _)) (hv.trans (ha _))

theorem endPoursFrom_senses (reason : PourReason) (b : Bay) (s : State) : SensesKept s (endPoursFrom reason b s) := SensesKept.forAny (fun y => endPour_senses reason y) s

theorem purgeEnded_senses (y : Tap) (s : State) : SensesKept s (purgeEnded y s) :=
  SensesKept.trans (t := s.modTap y fun r => { r with purgeRequest := .none, state := if r.pour.isSome then .pending else .idle }) (SensesKept.refl s)
    (SensesKept.branch (evalPurge_senses true y _)
      (SensesKept.of_touches (l := [.image, .taps]) (tryStart_touches (Touches.refl _ _) (by decide) (by decide)) (by decide)))

/-! ## The manifold enters DOWN (R124, R139) -/

theorem tellEnded_senses (reason : PourReason) (op : Operation) (s : State) : SensesKept s (tellEnded reason op s) := by
  unfold tellEnded
  split
  · exact chargeEnded_senses _ _ s
  · exact SensesKept.forAny (fun (p : SetPour) u => endPour_senses reason p.tap u) s
  · exact purgeEnded_senses _ s
  · exact SensesKept.refl s

theorem dropEntry_senses (e : GasEntry) (s : State) : SensesKept s (dropEntry e s) := by
  unfold dropEntry
  split
  · exact chargeEnded_senses _ _ s
  all_goals exact SensesKept.refl s

theorem emptyQueue_senses (reason : PourReason) (s : State) : SensesKept s (emptyQueue reason s) :=
  (SensesKept.trans (t := s.modMan fun m => { m with queue := [] }) (SensesKept.refl s) (SensesKept.forAll dropEntry_senses _)).trans
    (SensesKept.forAny (fun (p : SetPour) u => endPour_senses reason p.tap u) _)

theorem closedDown_senses (s : State) : SensesKept s (closedDown s) := by
  have hc : Touches [.image, .man] s (returnOp (closeOp s)) :=
    returnOp_touches (closeOp_touches (Touches.refl _ s) (by decide)) (by decide) (by decide)
  exact SensesKept.of_touches (l := [.image, .man]) (modMan_touches hc (by decide) (.inr fun _ => ⟨rfl, rfl, rfl, rfl, rfl, rfl, rfl⟩) (.inr fun _ h => h)) (by decide)

theorem enterDown_senses (s : State) : SensesKept s (enterDown s) := by
  by_cases h : s.man.state = .down
  · rw [enterDown_down h]
    exact SensesKept.refl s
  · have htold : SensesKept (closedDown s) (toldDown s) := by
      unfold toldDown
      split
      · exact tellEnded_senses _ _ _
      · exact SensesKept.refl _
    have hshut : ∀ u, SensesKept u (write .man .regulator 0 u) := fun u =>
      SensesKept.of_touches (write_touches (Touches.refl [.image] u) (by decide)) (by decide)
    rw [enterDown_eq h]
    exact (((closedDown_senses s).trans htold).trans (hshut _)).trans (emptyQueue_senses _ _)

/-! ## Kegs that are halted (R56, R64) -/

theorem leaveControl_senses (b : Bay) (s : State) : SensesKept s (leaveControl b s) := by
  have hend : ∀ u, SensesKept u (thermoEnd b u) := fun u =>
    SensesKept.of_touches (thermoEnd_touches (Touches.refl [.image, .chl, .free] u) (by decide) (by decide) (by decide)) (by decide)
  have hvent : ∀ u, SensesKept u (writeVent b u) := fun u => SensesKept.of_touches (writeVent_touches (Touches.refl [.image] u) (by decide)) (by decide)
  refine SensesKept.branch ?_ (SensesKept.refl s)
  exact (((SensesKept.trans SensesKept.modKeg (hend _)).trans (chargesEnd_senses b _)).trans SensesKept.modKeg).trans (hvent _)

theorem haltKeg_senses (b : Bay) (reason : HaltReason) (s : State) : SensesKept s (haltKeg b reason s) := by
  have hr : ∀ u, SensesKept u (raise .kegHalted (some (bayNum b)) u) := fun u =>
    SensesKept.of_touches (raise_touches (Touches.refl [.up, .atn] u) (by decide) (by decide)) (by decide)
  unfold haltKeg
  split
  · exact ((SensesKept.trans SensesKept.modKeg (leaveControl_senses b _)).trans (endPoursFrom_senses .halted b _)).trans (hr _)
  · exact SensesKept.refl s

end Sys2Proof.Proofs
end

section
/-! PROOFS. The control temperature of a bay, and its delivery (R49, R50). -/

namespace Sys2Proof.Proofs

open Sys2Proof.Machine Sys2Proof.Safety Sys2Proof.Claims

/-! ## The control temperature (R49) -/

theorem controlTemp_vacant {b : Bay} {s : State} (h : (s.keg b).phase = .vacant) : controlTemp b s = none := if_pos h

theorem controlTemp_eq {b : Bay} {s : State} (h : (s.keg b).phase ≠ .vacant) :
    controlTemp b s = senseTemp (s.keg b).mode s.rte.slots[destIdx (.kegCore b)] s.rte.slots[destIdx (.kegWall b)] := if_neg h

/-- R49. With both slots empty the control temperature is unavailable. -/
theorem controlTemp_empty {b : Bay} {s : State} (hc : s.rte.slots[destIdx (.kegCore b)] = none) (hw : s.rte.slots[destIdx (.kegWall b)] = none) :
    controlTemp b s = none := by
  by_cases h : (s.keg b).phase = .vacant
  · exact controlTemp_vacant h
  · rw [controlTemp_eq h, hc, hw]
    cases (s.keg b).mode <;> rfl

/-! ## Its delivery (R50) -/

/-- R50. The control temperature last delivered is `x`. -/
def told (b : Bay) (x : Option ControlTemp) (s : State) : State :=
  { s with rte := { s.rte with lastControl := upd s.rte.lastControl b fun _ => x } }

theorem deliverControl_vacant {b : Bay} {draws : Bool} {s : State} (h : (s.keg b).phase = .vacant) : deliverControl b draws s = s := if_pos h

theorem deliverControl_available {b : Bay} {draws : Bool} {x : ControlTemp} {s : State} (hv : (s.keg b).phase ≠ .vacant) (h : controlTemp b s = some x) :
    deliverControl b draws s = if draws then controlValue b x (told b (some x) s) else s := by
  unfold deliverControl
  rw [if_neg hv, h]
  rfl

theorem deliverControl_unavailable {b : Bay} {draws : Bool} {s : State} (hv : (s.keg b).phase ≠ .vacant) (h : controlTemp b s = none) :
    deliverControl b draws s = if s.rte.lastControl[b] = none then s else controlLost b (told b none s) := by
  unfold deliverControl
  rw [if_neg hv, h]
  cases hl : s.rte.lastControl[b] with
  | none => rfl
  | some x => rfl

theorem controlDelivered {b : Bay} {draws : Bool} {p : Prop} (h : draws = true ↔ p) (s : State) : ControlDelivered b p s (deliverControl b draws s) := by
  refine ⟨deliverControl_vacant, fun hv => ⟨fun x hx => ?_, fun hn => ?_⟩⟩
  · rw [deliverControl_available hv hx]
    exact ⟨fun hp => if_pos (h.2 hp), fun hp => if_neg fun hd => hp (h.1 hd)⟩
  · rw [deliverControl_unavailable hv hn]
    exact ⟨fun hl => if_neg hl, fun hl => if_pos hl⟩

/-- R46, Table 3-1. A stored value is delivered to the consumers that the table names. -/
theorem slotStored_delivered (d : Dest) (v : Int) (s : State) : Delivered d v s (slotStored d v s) := by
  cases d with
  | kegCore b => exact controlDelivered (by cases (s.keg b).mode <;> decide) s
  | kegWall b => exact controlDelivered (by cases (s.keg b).mode <;> decide) s
  | kegPress _ | manifold | cylinder | line _ | glycol | ambient => rfl

/-! ## The obligation -/

/-- R46. Whoever its consumers are, the slot of a publication's route holds it. -/
theorem storePublication_slot {c : Chan} {v : Int} {m : Marks} {d : Dest} {s : State} (h : s.rte.routes[c].dest = some d) :
    (storePublication c v m s).rte.slots[destIdx d] = some { value := v, marks := m, channel := c } := by
  have hs : (storePublication c v m s).rte.slots = (inSlot c v m s).rte.slots := storePublication_slots c v m s .slots (by decide)
  rw [hs, inSlot_get, if_pos h]

/-- Settles O31, by the sense mode and by which of the two slots are available. -/
theorem theControlTemperatureIsDerived : Obligations.TheControlTemperatureIsDerived := by
  intro b s core wall mode
  refine ⟨fun hv => ⟨controlTemp_vacant hv, fun _ => deliverControl_vacant hv, fun c v m d hd _ => storePublication_slot hd⟩, fun hv => ?_⟩
  rw [controlTemp_eq hv]
  show (∀ c, core = some c → _ → senseTemp mode core wall = _) ∧ (∀ w, wall = some w → _ → senseTemp mode core wall = _) ∧
    (∀ c w, core = some c → wall = some w → _ → senseTemp mode core wall = _) ∧ (_ → _ → _ → senseTemp mode core wall = none)
  refine ⟨fun c hc hm => ?_, fun w hw hm => ?_, fun c w hc hw hm => ?_, fun hc hw hm => ?_⟩
  · rcases hm with hm | ⟨hm, hw⟩
    · rw [hm, hc]
      rfl
    · rw [hm, hc, hw]
      rfl
  · rcases hm with hm | ⟨hm, hc⟩
    · rw [hm, hw]
      rfl
    · rw [hm, hw, hc]
      rfl
  · rw [hm, hc, hw]
    simp only [senseTemp, fromBoth, Bool.decide_or]
  · cases hmode : mode with
    | core =>
      rw [hc hmode]
      rfl
    | wall =>
      rw [hw hmode]
      rfl
    | mean =>
      obtain ⟨hc, hw⟩ := hm hmode
      rw [hc, hw]
      rfl

end Sys2Proof.Proofs
end

section
/-! PROOFS. The frames that a delivery puts in the upward queue: how many, and no REPORT among them (R45, R50, R173). -/

namespace Sys2Proof.Proofs

open Sys2Proof.Machine Sys2Proof.Safety Sys2Proof.Claims

/-! ## Frames that join -/

/-- At most `n` frames join the upward queue, and none of them is a REPORT. -/
def Joins (n : Nat) (s t : State) : Prop := ∃ sent, t.mgp.up = s.mgp.up ++ sent ∧ sent.length ≤ n ∧ ∀ f ∈ sent, ∀ r, f ≠ .report r

theorem Joins.of_up {n : Nat} {s t : State} (h : t.mgp.up = s.mgp.up) : Joins n s t :=
  ⟨[], by rw [h, List.append_nil], Nat.zero_le n, fun _ hf => by cases hf⟩

theorem Joins.one {n : Nat} {f : UpFrame} {s t : State} (h : t.mgp.up = s.mgp.up ++ [f]) (hf : ∀ r, f ≠ .report r) : Joins (n + 1) s t :=
  ⟨[f], h, Nat.succ_le_succ (Nat.zero_le n), fun _ hg => by rwa [List.mem_singleton.1 hg]⟩

theorem Joins.refl (n : Nat) (s : State) : Joins n s s := Joins.of_up rfl

theorem Joins.of_touches {n : Nat} {l : List Part} {s t : State} (h : Touches l s t) (h0 : .up ∉ l) : Joins n s t := by
  obtain ⟨hu, -⟩ : t.mgp.up = s.mgp.up ∧ t.mgp.seq = s.mgp.seq := h .up h0
  exact Joins.of_up hu

theorem Joins.trans {m n : Nat} {s t u : State} (h : Joins m s t) (g : Joins n t u) : Joins (m + n) s u := by
  obtain ⟨x, hx, hm, hr⟩ := h
  obtain ⟨y, hy, hn, gr⟩ := g
  refine ⟨x ++ y, by rw [hy, hx, List.append_assoc], by rw [List.length_append]; exact Nat.add_le_add hm hn, fun f hf => ?_⟩
  exact (List.mem_append.1 hf).elim (hr f) (gr f)

theorem Joins.mono {m n : Nat} {s t : State} (h : Joins m s t) (hn : m ≤ n) : Joins n s t := by
  obtain ⟨x, hx, hm, hr⟩ := h
  exact ⟨x, hx, hm.trans hn, hr⟩

theorem Joins.branch {n : Nat} {s t u : State} {c : Prop} {_ : Decidable c} (h : Joins n s t) (g : Joins n s u) : Joins n s (if c then t else u) := by
  split
  · exact h
  · exact g

theorem Joins.forAll {α : Type} {l : List α} {f : α → State → State} (hf : ∀ x u, Joins 1 u (f x u)) (s : State) : Joins l.length s (forAll l f s) := by
  induction l generalizing s with
  | nil => exact Joins.refl 0 s
  | cons x l ih => exact ((hf x s).trans (ih _)).mono (by rw [List.length_cons, Nat.add_comm])

theorem Joins.forAny {α : Type} {l : List α} {f : α → State → State} (hf : ∀ x u, Joins 1 u (f x u)) (s : State) : Joins l.length s (forAny l f s) := by
  obtain ⟨l', x, hp, he⟩ := forAny_spec l f s
  rw [he, ← hp.length_eq]
  exact Joins.forAll hf (s.setFree x)

/-! ## What joins at most one frame -/

/-- R179. A raise hands over at most an ATTENTION frame. -/
theorem raise_joins (f : Flag) (i : Option Nat) (s : State) : Joins 1 s (raise f i s) := by
  have h := congrArg Mgp.up (raise_mgp f i s)
  split at h
  · exact Joins.one h fun _ => by simp
  · exact Joins.of_up h

/-- R173. A POUR_RECORD joins, or is lost with at most an ATTENTION frame. -/
theorem handPourRecord_joins (mk : Byte → PourReport) (s : State) : Joins 1 s (handPourRecord mk s) := by
  rcases Nat.lt_or_ge s.mgp.up.length 14 with h | h
  · rw [handPourRecord_room h]
    exact Joins.one rfl fun _ => by simp
  · rw [handPourRecord_lost h]
    exact raise_joins _ _ (takeSeq s)

theorem endPour_joins (reason : PourReason) (y : Tap) (s : State) : Joins 1 s (endPour reason y s) := by
  cases h : (s.tapRec y).pour with
  | none =>
    rw [endPour_none h]
    exact Joins.refl 1 s
  | some p =>
    have hn : Joins 0 s (noticed y p s) :=
      Joins.of_touches (l := [.image, .man, .kegs, .taps]) (pourEnded_touches (Touches.branch (fun _ => write_touches (Touches.refl _ s) (by decide))
        fun _ => Touches.refl _ s) (by decide) (by decide) (by decide) (by decide)) (by decide)
    have hc : Joins 1 (noticed y p s) (pourEndCore reason y p s) := by
      have hr := handPourRecord_joins (pourReport y p reason) ((noticed y p s).modKeg p.bay fun k => { k with pours := k.pours - 1 })
      rw [pourEndCore_eq]
      unfold Joins at hr ⊢
      rwa [afterNotice_up]
    have hi : Joins 0 (pourEndCore reason y p s) (tapIdle y (pourEndCore reason y p s)) :=
      Joins.of_touches (l := [.image, .man, .kegs, .taps]) (tapIdle_touches (Touches.refl _ _) (by decide) (by decide) (by decide) (by decide)) (by decide)
    rw [endPour_eq h]
    exact Joins.branch ((hn.trans hc).trans hi) (hn.trans hc)

/-- R156. Of the two taps each hands over at most one frame. -/
theorem endPoursFrom_joins (reason : PourReason) (b : Bay) (s : State) : Joins 2 s (endPoursFrom reason b s) :=
  (Joins.forAny (endPour_joins reason) s).mono (List.length_filter_le _ allTaps)

/-! ## Deliveries (R46, R50) -/

theorem haltKeg_joins (b : Bay) (reason : HaltReason) (s : State) : Joins 3 s (haltKeg b reason s) := by
  by_cases h : ∃ ph : ActivePhase, (s.keg b).phase = ph.phase
  · obtain ⟨ph, h⟩ := h
    have hl : Joins 0 s (leaveControl b (haltedAs b ph reason s)) :=
      Joins.of_touches (s := haltedAs b ph reason s) (l := [.image, .chl, .man, .kegs, .taps, .free])
        (leaveControl_touches (Touches.refl _ _) (by decide) (by decide) (by decide) (by decide) (by decide) (by decide)) (by decide)
    rw [haltKeg_active h]
    exact (hl.trans (endPoursFrom_joins .halted b _)).trans (raise_joins _ _ _)
  · rw [haltKeg_inactive fun ph hp => h ⟨ph, hp⟩]
    exact Joins.refl 3 s

theorem controlValue_joins (b : Bay) (x : ControlTemp) (s : State) : Joins 3 s (controlValue b x s) := by
  have ht : Joins 0 s (thermoTemp b x.value (s.modKeg b fun k => { k with sensedTemp := some x })) :=
    Joins.of_touches (s := s.modKeg b _) (l := [.image, .chl]) (thermoTemp_touches (Touches.refl _ _) (by decide) (by decide)) (by decide)
  exact Joins.branch ((ht.trans (endPoursFrom_joins _ b _)).mono (by decide)) (ht.mono (by decide))

theorem deliverControl_joins (b : Bay) (draws : Bool) (s : State) : Joins 3 s (deliverControl b draws s) := by
  by_cases hv : (s.keg b).phase = .vacant
  · rw [deliverControl_vacant hv]
    exact Joins.refl 3 s
  · cases h : controlTemp b s with
    | some x =>
      rw [deliverControl_available hv h]
      exact Joins.branch (controlValue_joins b x (told b (some x) s)) (Joins.refl 3 s)
    | none =>
      rw [deliverControl_unavailable hv h]
      exact Joins.branch (Joins.refl 3 s) (haltKeg_joins b .sensor _)

theorem reliefEval_joins (b : Bay) (s : State) : Joins 1 s (reliefEval b s) := by
  have hv : ∀ u, Joins 0 u (writeVent b u) := fun u => Joins.of_touches (writeVent_touches (Touches.refl [.image] u) (by decide)) (by decide)
  have hp : ∀ g : Keg → Keg, Joins 0 s (passing [.vent b] (·.modKeg b g) s) := fun g => by
    obtain ⟨_, _, h⟩ := passing_shows [.vent b] s (s.modKeg b g)
    rw [passing, h]
    exact Joins.of_up rfl
  unfold reliefEval
  dsimp only
  split
  · exact Joins.branch (Joins.refl 1 s) (Joins.branch (((hp _).trans (raise_joins _ _ _)).trans (hv _))
      (Joins.branch (((hp _).trans (hv _)).mono (by decide)) (Joins.refl 1 s)))
  · exact Joins.refl 1 s

theorem pressureValue_joins (b : Bay) (v : Int) (s : State) : Joins 1 s (pressureValue b v s) := by
  have hr := reliefEval_joins b (s.modKeg b fun k => { k with sensedPressure := some v })
  have hv : ∀ u, Joins 0 u (chargeTest b v (ventStep b u)) := fun u =>
    Joins.of_touches (chargeTest_touches (ventStep_touches (Touches.refl [.image, .man, .kegs, .taps] u) (by decide) (by decide))
      (by decide) (by decide) (by decide) (by decide)) (by decide)
  exact hr.trans (hv _)

theorem guardEval_joins (v : Int) (s : State) : Joins 1 s (guardEval v s) := by
  have hhot : Joins 1 s (guardHot s) :=
    (raise_joins .glycolHot _ (s.modChl fun c => { c with guardState := .hot, limit := 1 })).trans
      (Joins.of_touches (n := 0) (l := [.image, .chl]) (revoke_touches (Touches.refl _ _) (by decide) (by decide)) (by decide))
  have hnormal : Joins 1 s (guardNormal s) := Joins.of_touches (guardNormal_touches (Touches.refl [.image, .chl] s) (by decide) (by decide)) (by decide)
  unfold guardEval
  split
  · exact Joins.branch hhot (Joins.refl 1 s)
  · exact Joins.branch hnormal (Joins.refl 1 s)

/-- R46. No delivery hands over a REPORT, and none more than three frames. -/
theorem slotStored_joins (d : Dest) (v : Int) (s : State) : Joins 3 s (slotStored d v s) := by
  cases d with
  | kegCore b | kegWall b => exact deliverControl_joins b _ s
  | kegPress b => exact (pressureValue_joins b v s).mono (by decide)
  | manifold =>
    exact Joins.of_touches (manifoldValue_touches (Touches.refl [.image, .man, .kegs, .taps] s) (by decide) (by decide) (by decide) (by decide)) (by decide)
  | cylinder =>
    exact Joins.of_touches (sensingTest_touches (Touches.refl [.image, .man, .kegs, .taps] s) (by decide) (by decide) (by decide) (by decide)) (by decide)
  | line y =>
    exact Joins.of_touches (tryStart_touches (lineEval_touches (Touches.refl [.image, .chl, .taps] s) (by decide) (by decide)) (by decide) (by decide)) (by decide)
  | glycol => exact (guardEval_joins v s).mono (by decide)
  | ambient => exact Joins.refl 3 s

end Sys2Proof.Proofs
end

section
/-! PROOFS. The report count of a publication, and its REPORT frame behind the delivery (R46, R51). -/

namespace Sys2Proof.Proofs

open Sys2Proof.Machine Sys2Proof.Safety Sys2Proof.Claims

/-! ## The count (R51) -/

/-- R51. The report count once one more publication has been counted with the divider `k`. -/
def countNext (k n : Nat) : Nat := if k = 0 then n else if n + 1 = k then 0 else n + 1

/-- R51. The REPORT of a publication, with the next number. -/
def reportOf (c : Chan) (v : Int) (m : Marks) (s : State) : Report :=
  { tag := s.mgp.seq, channel := c, dest := s.rte.routes[c].dest, value := v, marks := m, state := (s.chan c).state }

theorem reportCount_reportParts (c : Chan) (v : Int) (m : Marks) (s : State) : Touches reportParts s (reportCount c v m s) :=
  reportCount_touches (Touches.refl _ s) (by decide) (by decide) (by decide)

theorem handReport_counts (mk : Byte → Report) (s : State) : (handReport mk s).rte.counts = s.rte.counts :=
  handReport_touches (Touches.refl [.up, .atn] s) (by decide) (by decide) .counts (by decide)

theorem handReport_room {mk : Byte → Report} {s : State} (h : s.mgp.up.length < 8) : handReport mk s = joinUp (.report (mk s.mgp.seq)) (takeSeq s) :=
  if_pos (decide_eq_true h)

theorem reportCount_zero {c : Chan} {v : Int} {m : Marks} {s : State} (h : s.rte.routes[c].divider.toNat = 0) : reportCount c v m s = s := if_pos h

theorem reportCount_counts (c : Chan) (v : Int) (m : Marks) (s : State) :
    (reportCount c v m s).rte.counts = upd s.rte.counts c (countNext s.rte.routes[c].divider.toNat) := by
  show _ = upd s.rte.counts c fun _ => countNext s.rte.routes[c].divider.toNat s.rte.counts[c]
  unfold reportCount countNext
  dsimp only
  by_cases h0 : s.rte.routes[c].divider.toNat = 0
  · rw [if_pos h0, if_pos h0, upd_const_self rfl]
  · rw [if_neg h0, if_neg h0]
    by_cases h : s.rte.counts[c] + 1 = s.rte.routes[c].divider.toNat
    · rw [if_pos h, if_pos h]
      exact handReport_counts _ _
    · rw [if_neg h, if_neg h]
      rfl

/-- R51, R173. A count that reaches its divider hands over a REPORT, which joins while fewer than 8 frames are held. -/
theorem reportCount_reached {c : Chan} {v : Int} {m : Marks} {s : State} (h0 : s.rte.routes[c].divider.toNat ≠ 0)
    (h : s.rte.counts[c] + 1 = s.rte.routes[c].divider.toNat) (hroom : s.mgp.up.length < 8) :
    (reportCount c v m s).mgp.up = s.mgp.up ++ [.report (reportOf c v m s)] ∧ (reportCount c v m s).mgp.seq = s.mgp.seq + 1 := by
  unfold reportCount
  dsimp only
  rw [if_neg h0, if_pos h, handReport_room (by exact hroom)]
  exact ⟨rfl, rfl⟩

/-! ## What comes before the count (R46) -/

/-- R46. The publication is stored in its slot and delivered. -/
def storedDelivered (c : Chan) (v : Int) (m : Marks) (s : State) : State :=
  match s.rte.routes[c].dest with
  | some d => slotStored d v (setSlot d (some { value := v, marks := m, channel := c }) s)
  | none => s

theorem storePublication_eq (c : Chan) (v : Int) (m : Marks) (s : State) : storePublication c v m s = reportCount c v m (storedDelivered c v m s) := rfl

theorem storedDelivered_unrouted {c : Chan} {v : Int} {m : Marks} {s : State} (h : s.rte.routes[c].dest = none) : storedDelivered c v m s = s := by
  unfold storedDelivered
  rw [h]

theorem storedDelivered_routed {c : Chan} {v : Int} {m : Marks} {d : Dest} {s : State} (h : s.rte.routes[c].dest = some d) :
    storedDelivered c v m s = slotStored d v (setSlot d (some { value := v, marks := m, channel := c }) s) := by
  unfold storedDelivered
  rw [h]

theorem storedDelivered_touches (c : Chan) (v : Int) (m : Marks) (s : State) : Touches (.image :: slotParts) s (storedDelivered c v m s) := by
  unfold storedDelivered
  split
  · exact slotStored_touches (setSlot_touches (Touches.refl _ s) (by decide)) (by decide) (by decide) (by decide) (by decide) (by decide) (by decide)
      (by decide) (by decide) (by decide) (by decide)
  · exact Touches.refl _ s

theorem storedDelivered_joins (c : Chan) (v : Int) (m : Marks) (s : State) : Joins 3 s (storedDelivered c v m s) := by
  unfold storedDelivered
  split
  · exact slotStored_joins _ v (setSlot _ _ s)
  · exact Joins.refl 3 s

theorem storedDelivered_counts (c : Chan) (v : Int) (m : Marks) (s : State) : (storedDelivered c v m s).rte.counts = s.rte.counts :=
  storedDelivered_touches c v m s .counts (by decide)

theorem storedDelivered_routes (c : Chan) (v : Int) (m : Marks) (s : State) : (storedDelivered c v m s).rte.routes = s.rte.routes :=
  storedDelivered_touches c v m s .routes (by decide)

theorem storedDelivered_ccu (c : Chan) (v : Int) (m : Marks) (s : State) : (storedDelivered c v m s).ccu = s.ccu :=
  storedDelivered_touches c v m s .chans (by decide)

/-! ## The publication (R46, R51) -/

theorem storePublication_counts (c : Chan) (v : Int) (m : Marks) (s : State) :
    (storePublication c v m s).rte.counts = upd s.rte.counts c (countNext s.rte.routes[c].divider.toNat) := by
  rw [storePublication_eq, reportCount_counts, storedDelivered_counts, storedDelivered_routes]

theorem storePublication_slots_get (c : Chan) (v : Int) (m : Marks) (s : State) (i : Fin 24) :
    (storePublication c v m s).rte.slots[i] =
      if s.rte.routes[c].dest.map destIdx = some i then some { value := v, marks := m, channel := c } else s.rte.slots[i] := by
  have hs : (storePublication c v m s).rte.slots = (inSlot c v m s).rte.slots := storePublication_slots c v m s .slots (by decide)
  rw [hs]
  unfold inSlot
  cases hd : s.rte.routes[c].dest with
  | none => rfl
  | some d =>
    show (upd s.rte.slots (destIdx d) fun _ => some { value := v, marks := m, channel := c })[i] = _
    rw [upd_get, Option.map_some]
    exact if_congr (by rw [Option.some.injEq, eq_comm]) rfl rfl

/-- R46, R51. The REPORT joins behind the frames of the delivery. -/
theorem storePublication_reports {c : Chan} {v : Int} {m : Marks} {s : State} (h0 : s.rte.routes[c].divider.toNat ≠ 0)
    (h : s.rte.counts[c] + 1 = s.rte.routes[c].divider.toNat) (hroom : s.mgp.up.length < 5) :
    ∃ sent, (storePublication c v m s).mgp.up = s.mgp.up ++ sent ++ [.report
      { tag := (storePublication c v m s).mgp.seq - 1, channel := c, dest := s.rte.routes[c].dest, value := v, marks := m, state := (s.chan c).state }] ∧
      ∀ f ∈ sent, ∀ r, f ≠ .report r := by
  obtain ⟨sent, hup, hlen, hn⟩ := storedDelivered_joins c v m s
  have hroom' : (storedDelivered c v m s).mgp.up.length < 8 := by
    rw [hup, List.length_append]
    omega
  obtain ⟨hu, hq⟩ := reportCount_reached (c := c) (v := v) (m := m) (s := storedDelivered c v m s) (by rwa [storedDelivered_routes])
    (by rwa [storedDelivered_routes, storedDelivered_counts]) hroom'
  refine ⟨sent, ?_, hn⟩
  rw [storePublication_eq, hu, hq, hup, reportOf, storedDelivered_routes, State.chan, storedDelivered_ccu, BitVec.add_sub_cancel]

/-- R46, R51. What a publication leaves of the parts it reaches, of the slots, the counts and the upward queue, and what it is made of. -/
theorem storePublication_published (c : Chan) (v : Int) (m : Marks) (s : State) :
    let t := storePublication c v m s
    let k := s.rte.routes[c].divider.toNat
    Touches (.counts :: .image :: slotParts) s t ∧
    (∀ i : Fin 24, t.rte.slots[i] =
      if s.rte.routes[c].dest.map destIdx = some i then some { value := v, marks := m, channel := c } else s.rte.slots[i]) ∧
    (∀ c' : Chan, c' ≠ c → t.rte.counts[c'] = s.rte.counts[c']) ∧
    (k = 0 → t.rte.counts[c] = s.rte.counts[c]) ∧
    (k ≠ 0 → s.rte.counts[c] + 1 ≠ k → t.rte.counts[c] = s.rte.counts[c] + 1) ∧
    (k ≠ 0 → s.rte.counts[c] + 1 = k → t.rte.counts[c] = 0) := by
  intro t k
  have hcount : t.rte.counts[c] = countNext k s.rte.counts[c] := by
    rw [show t.rte.counts = _ from storePublication_counts c v m s, upd_get, if_pos rfl]
  refine ⟨?_, storePublication_slots_get c v m s, fun c' hc => ?_, fun h => ?_, fun h h' => ?_, fun h h' => ?_⟩
  · exact ((storedDelivered_touches c v m s).mono (by decide)).trans ((reportCount_reportParts c v m _).mono (by decide))
  · rw [show t.rte.counts = _ from storePublication_counts c v m s, upd_get, if_neg hc]
  · rw [hcount, countNext, if_pos h]
  · rw [hcount, countNext, if_neg h, if_neg h']
  · rw [hcount, countNext, if_neg h, if_pos h']

end Sys2Proof.Proofs
end

section
/-! PROOFS. What a publication brings about: the consumers of its slot, and the REPORT (R46, R50, R51, R63, R124, R152, R153). -/

namespace Sys2Proof.Proofs

open Sys2Proof.Machine Sys2Proof.Safety Sys2Proof.Claims

/-! ## A new control temperature (R50) -/

theorem upd_eq_const {α : Type} {n : Nat} {v : Vector α n} {i : Fin n} {f : α → α} {a : α} (h : f v[i] = a) : upd v i f = upd v i fun _ => a :=
  congrArg (fun x => v.set i.val x i.isLt) h

theorem modThermo_none {b : Bay} {f : Thermo → Thermo} {s : State} (h : s.thermo b = none) : s.modThermo b f = s := by
  have hv : upd s.chl.thermos b (Option.map f) = s.chl.thermos := (upd_eq_const (congrArg (Option.map f) h)).trans (upd_const_self h)
  show { s with chl := { s.chl with thermos := upd s.chl.thermos b (Option.map f) } } = s
  rw [hv]

theorem modThermo_some {b : Bay} {f : Thermo → Thermo} {th : Thermo} {s : State} (h : s.thermo b = some th) :
    s.modThermo b f = { s with chl := { s.chl with thermos := upd s.chl.thermos b fun _ => some (f th) } } := by
  have hv : upd s.chl.thermos b (Option.map f) = upd s.chl.thermos b fun _ => some (f th) := upd_eq_const (congrArg (Option.map f) h)
  show { s with chl := { s.chl with thermos := upd s.chl.thermos b (Option.map f) } } = _
  rw [hv]

theorem thermoTemp_none {b : Bay} {v : Int} {s : State} (h : s.thermo b = none) : thermoTemp b v s = s := by
  unfold thermoTemp thermoEval
  rw [modThermo_none h, h]

/-- R50, R54. The keg of bay `b` senses the control temperature `x`, or none. -/
def sensesTemp (b : Bay) (x : Option ControlTemp) (s : State) : State := { s with kegs := upd s.kegs b fun k => { k with sensedTemp := x } }

theorem sensesTemp_keg (b : Bay) (x : Option ControlTemp) (s : State) : (sensesTemp b x s).keg b = { s.keg b with sensedTemp := x } :=
  (keg_modKeg s b b _).trans (if_pos rfl)

theorem controlValue_eq (b : Bay) (x : ControlTemp) (s : State) :
    controlValue b x s = if x.substituted = true then endPoursFrom .substituted b (thermoTemp b x.value (sensesTemp b (some x) s))
      else thermoTemp b x.value (sensesTemp b (some x) s) := rfl

theorem thermoTemp_alone (b : Bay) (v : Int) (s : State) : Touches [.image, .chl] s (thermoTemp b v s) :=
  thermoTemp_touches (Touches.refl _ s) (by decide) (by decide)

theorem controlValue_sensedTemp (b : Bay) (x : ControlTemp) (s : State) : ((controlValue b x s).keg b).sensedTemp = some x := by
  have ht : SensesKept (sensesTemp b (some x) s) (thermoTemp b x.value (sensesTemp b (some x) s)) :=
    SensesKept.of_touches (thermoTemp_alone b x.value _) (by decide)
  have h : SensesKept (sensesTemp b (some x) s) (controlValue b x s) := SensesKept.branch (ht.trans (endPoursFrom_senses _ b _)) ht
  rw [(h b).1, sensesTemp_keg]

/-- R156, R157. Each pour from the bay ends, with its record while the queue has room. -/
theorem endPoursFrom_ends (reason : PourReason) {b : Bay} {y : Tap} {p : Pour} {s : State} (h : (s.tapRec y).pour = some p) (hb : p.bay = b) :
    ((endPoursFrom reason b s).tapRec y).pour = none ∧
      (Room s → Recorded y p (!p.pouring && reason.refuses) reason (endPoursFrom reason b s)) := by
  obtain ⟨l, x, hl, he⟩ := forAny_spec (allTaps.filter fun t => poursFrom b t s) (endPour reason) s
  have hy : y ∈ l := hl.mem_iff.2 (List.mem_filter.2 ⟨List.mem_finRange y, by
    rw [poursFrom, h]
    exact decide_eq_true hb⟩)
  unfold endPoursFrom
  rw [he]
  exact ⟨forAll_endPour_gone hy _, fun hr => forAll_endPour_recorded reason hy (s := s.setFree x) h hr⟩

theorem controlValue_spec (b : Bay) (x : ControlTemp) (s : State) :
    let kept : State := { s with kegs := upd s.kegs b fun k => { k with sensedTemp := some x } }
    let t := controlValue b x s
    (t.keg b).sensedTemp = some x ∧
    (x.substituted = false → s.thermo b = none → t = kept) ∧
    (∀ th, x.substituted = false → s.thermo b = some th →
      t = thermoEval b { kept with chl := { s.chl with thermos := upd s.chl.thermos b fun _ => some { th with temp := x.value } } }) ∧
    (x.substituted = true → ∀ y p, (s.tapRec y).pour = some p →
      p.bay = b → (t.tapRec y).pour = none ∧
        (s.mgp.up.length < 12 → ∃ tag : Byte, UpFrame.pourRecord
          { tag := tag, number := p.number, tap := y, bay := some b, source := p.source, target := p.target, metered := p.metered,
            refused := false, reason := .substituted } ∈ t.mgp.up)) := by
  intro kept t
  have ht : t = if x.substituted = true then endPoursFrom .substituted b (thermoTemp b x.value kept) else thermoTemp b x.value kept := controlValue_eq b x s
  refine ⟨controlValue_sensedTemp b x s, fun hx hn => ?_, fun th hx hth => ?_, fun hx y p hp hb => ?_⟩
  · rw [ht, if_neg (by simp [hx]), thermoTemp_none (s := kept) hn]
  · rw [ht, if_neg (by simp [hx])]
    exact congrArg (thermoEval b) (modThermo_some (s := kept) hth)
  · subst hb
    have hw := thermoTemp_alone p.bay x.value kept
    obtain ⟨hup, -⟩ : (thermoTemp p.bay x.value kept).mgp.up = s.mgp.up ∧ _ := hw .up (by decide)
    have hpour : ((thermoTemp p.bay x.value kept).tapRec y).pour = some p :=
      (congrArg TapRecord.pour (tapRec_of_same (hw .taps (by decide)) y) :
        (untimed ((thermoTemp p.bay x.value kept).tapRec y)).pour = (untimed (s.tapRec y)).pour).trans hp
    obtain ⟨hgone, hrec⟩ := endPoursFrom_ends .substituted hpour rfl
    rw [ht, if_pos hx]
    refine ⟨hgone, fun hl => ?_⟩
    have hn : (!p.pouring && PourReason.refuses .substituted) = false := Bool.and_false _
    rw [hn] at hrec
    exact hrec (room_of_length (by rwa [hup]))

/-! ## A control temperature that goes (R50, R63) -/

theorem controlLost_eq (b : Bay) (s : State) : controlLost b s = haltKeg b .sensor (sensesTemp b none s) := rfl

theorem controlLost_sensedTemp (b : Bay) (s : State) : ((controlLost b s).keg b).sensedTemp = none := by
  rw [controlLost_eq, (haltKeg_senses b .sensor _ b).1, sensesTemp_keg]

theorem controlLost_spec (b : Bay) (s : State) :
    let t := controlLost b s
    (t.keg b).sensedTemp = none ∧
    (∀ ph : ActivePhase, (s.keg b).phase = ph.phase →
      (t.keg b).phase = .halted ∧ (t.keg b).prior = some ph ∧ (t.keg b).haltReason = some .sensor ∧ (t.keg b).underControl = false ∧
      t.atn[Flag.kegHalted.idx].pending = true ∧ bayNum b ∈ t.atn[Flag.kegHalted.idx].index) ∧
    ((s.keg b).phase ≠ .scheduled → (s.keg b).phase ≠ .serving → t = { s with kegs := upd s.kegs b fun k => { k with sensedTemp := none } }) := by
  have hphase : ((sensesTemp b none s).keg b).phase = (s.keg b).phase := by rw [sensesTemp_keg]
  refine ⟨controlLost_sensedTemp b s, fun ph hph => ?_, fun h1 h2 => ?_⟩
  · obtain ⟨hp, hprior, hreason, hcontrol, ⟨hpending, hindex⟩, -⟩ := haltKeg_fallen (b := b) .sensor (hphase.trans hph)
    exact ⟨hp, hprior, hreason, hcontrol, hpending, hindex⟩
  · rw [controlLost_eq, haltKeg_inactive]
    · rfl
    · intro ph hph
      cases ph with
      | scheduled => exact h1 (hphase.symm.trans hph)
      | serving => exact h2 (hphase.symm.trans hph)

/-! ## Sensing (R124) -/

theorem sensingComplete_iff (s : State) : sensingComplete s = true ↔
    s.man.nodeOnline = true ∧ s.rte.slots[destIdx .manifold] ≠ none ∧ s.rte.slots[destIdx .cylinder] ≠ none := by
  simp [sensingComplete, slotValue, Option.isSome_iff_ne_none, and_assoc]

/-- R126. With an empty queue an idle manifold takes nothing into service. -/
theorem becomeIdle_empty {s : State} (h : s.man.queue = []) : becomeIdle s = { s with man := { s.man with state := .idle } } := by
  have hc : chooseEntry (s.modMan fun m => { m with state := .idle }) = none := by
    simp only [chooseEntry, modMan_man, h]
    rfl
  unfold becomeIdle serveQueue
  rw [hc, ite_self]
  rfl

theorem sensingTest_spec (s : State) :
    let complete := s.man.nodeOnline = true ∧ s.rte.slots[destIdx .manifold] ≠ none ∧ s.rte.slots[destIdx .cylinder] ≠ none
    let t := sensingTest s
    (s.man.state ≠ .down ∨ ¬ complete → t = s) ∧
    (s.man.state = .down → complete → s.man.leak = true → t = { s with man := { s.man with state := .lockout } }) ∧
    (s.man.state = .down → complete → s.man.leak = false → s.man.queue = [] → t = { s with man := { s.man with state := .idle } }) := by
  intro complete t
  have hs : sensingComplete s = true ↔ complete := sensingComplete_iff s
  refine ⟨fun h => if_neg fun hc => h.elim (absurd hc.1) (absurd (hs.1 hc.2)), fun hd hc hl => ?_, fun hd hc hl hq => ?_⟩
  · exact (if_pos ⟨hd, hs.2 hc⟩).trans (if_pos hl)
  · exact ((if_pos ⟨hd, hs.2 hc⟩).trans (if_neg (by simp [hl]))).trans (becomeIdle_empty hq)

/-! ## A line value that is cold (R152, R153) -/

theorem lineCold_iff (y : Tap) (s : State) : lineCold y s = true ↔
    ∃ x, s.rte.slots[destIdx (.line y)] = some x ∧ x.value ≤ (s.tapRec y).set.lineLimit := by
  unfold lineCold
  cases s.rte.slots[destIdx (.line y)] <;> simp

theorem tryStart_starts {y : Tap} {p : Pour} {s : State} (h : (s.tapRec y).pour = some p) (hp : p.pouring = false) (hg : p.granted = true)
    (hc : lineCold y s = true) (hs : (s.tapRec y).state ≠ .purging) :
    tryStart y s = write .tap (.tapValve y) 1 (s.modTap y fun r => { r with state := .pouring, pour := some (p.started r.lastFlow) }) := by
  unfold tryStart
  rw [h]
  simp only [hp, hg, hc, hs, ne_eq, not_false_eq_true, decide_true, Bool.not_false, Bool.and_self, if_true]

theorem tryStart_waits {y : Tap} {s : State}
    (h : ∀ p, (s.tapRec y).pour = some p → p.pouring = false → p.granted = true → lineCold y s = true → (s.tapRec y).state = .purging) : tryStart y s = s := by
  unfold tryStart
  split
  · rename_i p hp
    refine if_neg fun hc => ?_
    simp only [Bool.and_eq_true, Bool.not_eq_true', decide_eq_true_eq] at hc
    obtain ⟨⟨⟨hn, hg⟩, hcold⟩, hs⟩ := hc
    exact hs (h p hp hn hg hcold)
  · rfl

theorem tryStart_spec (y : Tap) (s : State) :
    let r := s.tapRec y
    let cold := ∃ x, s.rte.slots[destIdx (.line y)] = some x ∧ x.value ≤ r.set.lineLimit
    let t := tryStart y s
    (∀ p, r.pour = some p → p.pouring = false → p.granted = true → cold → r.state ≠ .purging →
      (t.tapRec y) = { r with state := .pouring, pour := some { p with pouring := true, baseline := r.lastFlow.getD 0, carry := 0, stall := 0 } } ∧
      (owner (.tapValve y) s = some .tap → t.out (.tapValve y) = 1) ∧ Touches [.image, .taps] s t) ∧
    ((∀ p, r.pour = some p → p.pouring = false → p.granted = true → cold → r.state = .purging) → t = s) := by
  intro r cold t
  refine ⟨fun p hp hn hg hc hs => ?_, fun h => tryStart_waits fun p hp hn hg hc => h p hp hn hg ((lineCold_iff y s).1 hc)⟩
  have ht : t = _ := tryStart_starts hp hn hg ((lineCold_iff y s).2 hc) hs
  refine ⟨?_, fun ho => ?_, tryStart_touches (Touches.refl _ s) (by decide) (by decide)⟩
  · obtain ⟨_, _, hw⟩ := write_shows .tap (.tapValve y) 1 (s.modTap y fun r => { r with state := .pouring, pour := some (p.started r.lastFlow) })
    rw [ht, hw]
    exact (tapRec_modTap y y _ s).trans (if_pos rfl)
  · have ho' : owner (.tapValve y) (s.modTap y fun r => { r with state := .pouring, pour := some (p.started r.lastFlow) }) = some .tap := by
      obtain ⟨hrun, hpurge, hbound⟩ := (tapValve_owner_iff y s).1 ho
      refine (tapValve_owner_iff y _).2 ⟨hrun, hpurge, ?_⟩
      rw [tapRec_modTap, if_pos rfl]
      exact hbound
    rw [ht, write_owned ho', commandOut_out, if_pos rfl]

/-! ## The obligation -/

/-- R46. A publication of a channel that is routed to NONE is counted alone. -/
theorem storePublication_unrouted {c : Chan} {v : Int} {m : Marks} {s : State} (h : s.rte.routes[c].dest = none) :
    storePublication c v m s = reportCount c v m s := by
  rw [storePublication_eq, storedDelivered_unrouted h]

/-- Settles O32: the publication, and then each of the consumers that R46 to R50 name. -/
theorem aPublicationIsStoredDeliveredAndCounted : Obligations.APublicationIsStoredDeliveredAndCounted := by
  refine ⟨fun c v m s => ?_, controlValue_spec, controlLost_spec, sensingTest_spec, tryStart_spec⟩
  obtain ⟨htouches, hslots, hother, hzero, hnext, hreached⟩ := storePublication_published c v m s
  refine ⟨htouches, hslots, hother, hzero, hnext, hreached, fun hd h0 h hroom => ?_, storePublication_reports, fun hd => ?_, fun d hd => ?_⟩
  · rw [storePublication_unrouted hd, (reportCount_reached h0 h hroom).1, reportOf, hd]
  · rw [storePublication_unrouted hd]
    exact ⟨reportCount_reportParts c v m s, reportCount_zero⟩
  · have hu := storedDelivered_routed (v := v) (m := m) hd
    refine ⟨storedDelivered c v m s, by rw [hu]; exact slotStored_delivered d v _, reportCount_reportParts c v m _, fun h0 => ?_⟩
    exact (storePublication_eq c v m s).trans (reportCount_zero (by rwa [storedDelivered_routes]))

end Sys2Proof.Proofs
end

section
/-! PROOFS. What the emptied slots bring about when every slot is empty: bays that are blind, kegs halted for a sensor, and the manifold DOWN (R44, R47, R50, R63, R124). -/

namespace Sys2Proof.Proofs

open Sys2Proof.Machine Sys2Proof.Safety Sys2Proof.Claims

/-! ## Work over a list that reaches something -/

theorem forAll_keeps {α : Type} {Q : State → Prop} {f : α → State → State} {l : List α} (hq : ∀ y ∈ l, ∀ u, Q u → Q (f y u)) {s : State} (hs : Q s) :
    Q (forAll l f s) := by
  induction l generalizing s with
  | nil => exact hs
  | cons y l ih => exact ih (fun z hz => hq z (List.mem_cons_of_mem _ hz)) (hq y List.mem_cons_self s hs)

/-- What some element's work brings about, from a state that the others keep, the whole work brings about. -/
theorem forAll_reaches {α : Type} {P Q : State → Prop} {f : α → State → State} {l : List α} {x : α} (hx : x ∈ l)
    (hp : ∀ y ∈ l, ∀ u, P u → P (f y u) ∨ Q (f y u)) (hq : ∀ y ∈ l, ∀ u, Q u → Q (f y u)) (hdo : ∀ u, P u → Q (f x u)) {s : State} (hs : P s) :
    Q (forAll l f s) := by
  induction l generalizing s with
  | nil => cases hx
  | cons y l ih =>
    have hkeep : ∀ {u : State}, Q u → Q (forAll l f u) := fun hu => forAll_keeps (fun z hz => hq z (List.mem_cons_of_mem _ hz)) hu
    rcases List.mem_cons.1 hx with rfl | hx
    · exact hkeep (hdo s hs)
    · exact (hp y List.mem_cons_self s hs).elim
        (ih hx (fun z hz => hp z (List.mem_cons_of_mem _ hz)) fun z hz => hq z (List.mem_cons_of_mem _ hz)) hkeep

/-! ## One bay (R47, R50) -/

/-- Of the bay, the phase of the keg, what the keg senses and the last delivery are the same in both states. -/
def BayStill (b : Bay) (s t : State) : Prop :=
  (t.keg b).phase = (s.keg b).phase ∧ (t.keg b).sensedTemp = (s.keg b).sensedTemp ∧ (t.keg b).sensedPressure = (s.keg b).sensedPressure ∧
    t.rte.lastControl[b] = s.rte.lastControl[b]

theorem BayStill.refl (b : Bay) (s : State) : BayStill b s s := ⟨rfl, rfl, rfl, rfl⟩

theorem BayStill.trans {b : Bay} {s t u : State} (h : BayStill b s t) (g : BayStill b t u) : BayStill b s u := by
  obtain ⟨h1, h2, h3, h4⟩ := h
  obtain ⟨g1, g2, g3, g4⟩ := g
  exact ⟨g1.trans h1, g2.trans h2, g3.trans h3, g4.trans h4⟩

theorem BayStill.of_senses {l : List Part} {s t : State} (hs : SensesKept s t) (h : Touches l s t) (h0 : .phases ∉ l) (h1 : .drawn ∉ l) (b : Bay) :
    BayStill b s t := by
  have hd : t.rte.lastControl = s.rte.lastControl := h .drawn h1
  exact ⟨phase_of_same (h .phases h0) b, (hs b).1, (hs b).2, by rw [hd]⟩

theorem haltKeg_drawn (b : Bay) (reason : HaltReason) (s : State) : (haltKeg b reason s).rte.lastControl = s.rte.lastControl :=
  haltKeg_touches (l := [.image, .chl, .man, .kegs, .taps, .free, .phases, .up, .atn]) (Touches.refl _ s) (by decide) (by decide) (by decide) (by decide)
    (by decide) (by decide) (by decide) (by decide) (by decide) .drawn (by decide)

theorem haltKeg_still {b d : Bay} (h : d ≠ b) (reason : HaltReason) (s : State) : BayStill d s (haltKeg b reason s) :=
  ⟨haltKeg_other reason s h, (haltKeg_senses b reason s d).1, (haltKeg_senses b reason s d).2, by rw [haltKeg_drawn]⟩

theorem modKeg_still {b d : Bay} (h : d ≠ b) (f : Keg → Keg) (s : State) : BayStill d s (s.modKeg b f) := by
  have hk : (s.modKeg b f).keg d = s.keg d := (keg_modKeg s b d f).trans (if_neg h)
  exact ⟨by rw [hk], by rw [hk], by rw [hk], rfl⟩

theorem told_still {b d : Bay} (h : d ≠ b) (x : Option ControlTemp) (s : State) : BayStill d s (told b x s) := ⟨rfl, rfl, rfl, upd_other _ _ h⟩

/-- Every slot is empty. -/
def NoneStored (s : State) : Prop := ∀ i : Fin 24, s.rte.slots[i] = none

/-- R50. With every slot empty, at most the control temperature's unavailability is delivered. -/
theorem deliverControl_emptied {b : Bay} {draws : Bool} {s : State} (h : NoneStored s) :
    deliverControl b draws s = s ∨ (s.rte.lastControl[b] ≠ none ∧ deliverControl b draws s = controlLost b (told b none s)) := by
  by_cases hv : (s.keg b).phase = .vacant
  · exact .inl (deliverControl_vacant hv)
  · rw [deliverControl_unavailable hv (controlTemp_empty (h _) (h _))]
    by_cases hl : s.rte.lastControl[b] = none
    · exact .inl (if_pos hl)
    · exact .inr ⟨hl, if_neg hl⟩

theorem deliverControl_goes {b : Bay} {draws : Bool} {s : State} (h : NoneStored s) (hv : (s.keg b).phase ≠ .vacant) (hl : s.rte.lastControl[b] ≠ none) :
    deliverControl b draws s = controlLost b (told b none s) := by
  rw [deliverControl_unavailable hv (controlTemp_empty (h _) (h _)), if_neg hl]

/-- R47, R50. All that an emptied slot does to a bay when every slot is empty: nothing, its control temperature goes, or its pressure goes. -/
theorem slotEmptied_bay (b : Bay) (d : Dest) {s : State} (h : NoneStored s) :
    BayStill b s (slotEmptied d s) ∨ slotEmptied d s = controlLost b (told b none s) ∨ slotEmptied d s = pressureEmptied b s := by
  have hcontrol : ∀ (e : Bay) (draws : Bool), BayStill b s (deliverControl e draws s) ∨ deliverControl e draws s = controlLost b (told b none s) := fun e draws => by
    rcases deliverControl_emptied (b := e) (draws := draws) h with he | ⟨-, he⟩
    · rw [he]
      exact .inl (BayStill.refl b s)
    · by_cases hb : b = e
      · subst hb
        exact .inr he
      · rw [he]
        exact .inl (((told_still hb none s).trans (modKeg_still hb (fun k => { k with sensedTemp := none }) _)).trans (haltKeg_still hb .sensor _))
  have hdown : BayStill b s (enterDown s) := BayStill.of_senses (l := [.image, .man, .kegs, .taps, .up, .atn, .free]) (enterDown_senses s)
    (enterDown_touches (Touches.refl _ s) (by decide) (by decide) (by decide) (by decide) (by decide) (by decide) (by decide)) (by decide) (by decide) b
  cases d with
  | kegCore e | kegWall e => exact (hcontrol e _).imp id .inl
  | kegPress e =>
    by_cases hb : b = e
    · subst hb
      exact .inr (.inr rfl)
    · exact .inl ((modKeg_still hb (fun k => { k with sensedPressure := none }) s).trans (haltKeg_still hb .sensor _))
  | manifold | cylinder => exact .inl hdown
  | line y =>
    have ht : Touches [.image, .chl] s (lineEmptied y s) := lineEmptied_touches (Touches.refl _ s) (by decide) (by decide)
    exact .inl (BayStill.of_senses (SensesKept.of_touches ht (by decide)) ht (by decide) (by decide) b)
  | glycol | ambient => exact .inl (BayStill.refl b s)

theorem slotEmptied_noneStored (d : Dest) {s : State} (h : NoneStored s) : NoneStored (slotEmptied d s) := by
  have hs : (slotEmptied d s).rte.slots = s.rte.slots := slotEmptied_touches (l := .image :: slotParts.tail) (Touches.refl _ s) (by decide) (by decide) (by decide)
    (by decide) (by decide) (by decide) (by decide) (by decide) (by decide) (by decide) .slots (by decide)
  intro i
  rw [hs]
  exact h i

/-! ## A keg that is halted for a sensor (R63) -/

/-- R63, R64. The keg has been halted for a sensor, from the phase `ph`. -/
def SensorHalted (b : Bay) (ph : ActivePhase) (t : State) : Prop :=
  (t.keg b).phase = .halted ∧ (t.keg b).prior = some ph ∧ (t.keg b).haltReason = some .sensor ∧ Fallen b t

theorem SensorHalted.kept {b : Bay} {ph : ActivePhase} {s t : State} (h : SensorHalted b ph s) (g : Ruin s t) : SensorHalted b ph t := by
  obtain ⟨hp, hprior, hreason, hf⟩ := h
  rcases g.work.kegs b with ⟨g1, g2, g3⟩ | ⟨-, ph', g1, -⟩
  · exact ⟨g1.trans hp, g2.trans hprior, g3.trans hreason, hf.kept g.work (g.touches .released (by decide)) (g.touches .flags (by decide))⟩
  · exact absurd (g1.symm.trans hp) (active_ne_halted ph')

theorem controlLost_halts {b : Bay} {ph : ActivePhase} {s : State} (h : (s.keg b).phase = ph.phase) : SensorHalted b ph (controlLost b s) :=
  haltKeg_fallen .sensor (s := sensesTemp b none s) (by rw [sensesTemp_keg]; exact h)

theorem pressureEmptied_halts {b : Bay} {ph : ActivePhase} {s : State} (h : (s.keg b).phase = ph.phase) : SensorHalted b ph (pressureEmptied b s) :=
  haltKeg_fallen .sensor (s := s.modKeg b fun k => { k with sensedPressure := none }) (by rw [keg_modKeg, if_pos rfl]; exact h)

/-- Every slot is empty, the keg is as yet in the phase `ph`, and its last delivery is `x`. -/
def Unhalted (b : Bay) (ph : ActivePhase) (x : Option ControlTemp) (s : State) : Prop :=
  NoneStored s ∧ (s.keg b).phase = ph.phase ∧ s.rte.lastControl[b] = x

theorem slotEmptied_halts {b : Bay} {ph : ActivePhase} {x : Option ControlTemp} (d : Dest) {s : State} (h : Unhalted b ph x s) :
    Unhalted b ph x (slotEmptied d s) ∨ SensorHalted b ph (slotEmptied d s) := by
  obtain ⟨hn, hp, hx⟩ := h
  rcases slotEmptied_bay b d hn with ⟨h1, -, -, h4⟩ | he | he
  · exact .inl ⟨slotEmptied_noneStored d hn, h1.trans hp, h4.trans hx⟩
  · rw [he]
    exact .inr (controlLost_halts (s := told b none s) hp)
  · rw [he]
    exact .inr (pressureEmptied_halts hp)

/-- R63. Among the slots that deliver is the keg's pressure, or one of its temperatures, of which an available control temperature was delivered. -/
theorem slotsEmptied_halt {b : Bay} {ph : ActivePhase} {l : List Dest} {s : State} (hn : NoneStored s) (hp : (s.keg b).phase = ph.phase)
    (h : Dest.kegPress b ∈ l ∨ (s.rte.lastControl[b] ≠ none ∧ (Dest.kegCore b ∈ l ∨ Dest.kegWall b ∈ l))) : SensorHalted b ph (forAll l slotEmptied s) := by
  have hreach : ∀ d ∈ l, (∀ u, Unhalted b ph s.rte.lastControl[b] u → SensorHalted b ph (slotEmptied d u)) → SensorHalted b ph (forAll l slotEmptied s) :=
    fun d hd hdo => forAll_reaches (P := Unhalted b ph s.rte.lastControl[b]) hd (fun e _ u hu => slotEmptied_halts e hu)
      (fun e _ u hu => hu.kept (slotEmptied_ruin e u)) hdo ⟨hn, hp, rfl⟩
  have hcontrol : s.rte.lastControl[b] ≠ none → ∀ (draws : Bool) (u : State), Unhalted b ph s.rte.lastControl[b] u →
      SensorHalted b ph (deliverControl b draws u) := fun hl draws u ⟨hun, hup, hul⟩ => by
    rw [deliverControl_goes hun (by rw [hup]; cases ph <;> decide) (by rwa [hul])]
    exact controlLost_halts (s := told b none u) hup
  rcases h with h | ⟨hl, h | h⟩
  · exact hreach _ h fun u ⟨_, hup, _⟩ => pressureEmptied_halts hup
  · exact hreach _ h fun u hu => hcontrol hl _ u hu
  · exact hreach _ h fun u hu => hcontrol hl _ u hu

/-! ## What the keg no longer senses (R54) -/

theorem pressureEmptied_sensedPressure (b : Bay) (s : State) : ((pressureEmptied b s).keg b).sensedPressure = none := by
  unfold pressureEmptied
  rw [(haltKeg_senses b .sensor _ b).2, keg_modKeg, if_pos rfl]

theorem controlLost_sensedPressure (b : Bay) (s : State) : ((controlLost b s).keg b).sensedPressure = (s.keg b).sensedPressure := by
  rw [controlLost_eq, (haltKeg_senses b .sensor _ b).2, sensesTemp_keg]

theorem pressureEmptied_sensedTemp (b : Bay) (s : State) : ((pressureEmptied b s).keg b).sensedTemp = (s.keg b).sensedTemp := by
  unfold pressureEmptied
  rw [(haltKeg_senses b .sensor _ b).1, keg_modKeg, if_pos rfl]

theorem controlLost_lastControl (b : Bay) (s : State) : (controlLost b (told b none s)).rte.lastControl[b] = none := by
  rw [controlLost_eq, haltKeg_drawn]
  exact upd_same _ b _

theorem pressureEmptied_lastControl (b : Bay) (s : State) : (pressureEmptied b s).rte.lastControl = s.rte.lastControl := haltKeg_drawn b .sensor _

/-- R47. The keg whose pressure slot delivers senses no pressure. -/
theorem slotsEmptied_pressure {b : Bay} {l : List Dest} {s : State} (hn : NoneStored s) (h : Dest.kegPress b ∈ l) :
    ((forAll l slotEmptied s).keg b).sensedPressure = none := by
  refine (forAll_reaches (P := NoneStored) (Q := fun u => NoneStored u ∧ (u.keg b).sensedPressure = none) h (fun d _ u hu => .inl (slotEmptied_noneStored d hu))
    (fun d _ u ⟨hu, hs⟩ => ⟨slotEmptied_noneStored d hu, ?_⟩) (fun u hu => ⟨slotEmptied_noneStored _ hu, pressureEmptied_sensedPressure b u⟩) hn).2
  rcases slotEmptied_bay b d hu with ⟨-, -, h3, -⟩ | he | he
  · exact h3.trans hs
  · rw [he, controlLost_sensedPressure]
    exact hs
  · rw [he]
    exact pressureEmptied_sensedPressure b u

/-- R50. The control temperature of the bay is gone: the keg senses none, and unavailability was the last delivery. -/
def ControlGone (b : Bay) (s : State) : Prop := NoneStored s ∧ (s.keg b).sensedTemp = none ∧ s.rte.lastControl[b] = none

theorem slotEmptied_controlGone {b : Bay} (d : Dest) {s : State} (h : ControlGone b s) : ControlGone b (slotEmptied d s) := by
  obtain ⟨hn, hs, hl⟩ := h
  refine ⟨slotEmptied_noneStored d hn, ?_⟩
  rcases slotEmptied_bay b d hn with ⟨-, h2, -, h4⟩ | he | he
  · exact ⟨h2.trans hs, h4.trans hl⟩
  · rw [he]
    exact ⟨controlLost_sensedTemp b _, controlLost_lastControl b s⟩
  · rw [he, pressureEmptied_sensedTemp, pressureEmptied_lastControl]
    exact ⟨hs, hl⟩

theorem vacant_of_kegWork {l : Prop} {k k' : Keg} (h : KegWork l k k') (hv : k.phase ≠ .vacant) : k'.phase ≠ .vacant := by
  rcases h with ⟨h, -⟩ | ⟨-, -, -, h, -⟩ <;> rw [h]
  · exact hv
  · decide

/-- R47, R50. The bay whose control temperature was available and one of whose slots delivers is without it. -/
theorem slotsEmptied_control {b : Bay} {l : List Dest} {s : State} (hn : NoneStored s) (hv : (s.keg b).phase ≠ .vacant) (hl : s.rte.lastControl[b] ≠ none)
    (h : Dest.kegCore b ∈ l ∨ Dest.kegWall b ∈ l) : ControlGone b (forAll l slotEmptied s) := by
  have hgone : ∀ (d : Dest) (u : State), NoneStored u → slotEmptied d u = controlLost b (told b none u) → ControlGone b (slotEmptied d u) := fun d u hu he => by
    refine ⟨slotEmptied_noneStored d hu, ?_⟩
    rw [he]
    exact ⟨controlLost_sensedTemp b _, controlLost_lastControl b u⟩
  have hreach : ∀ d ∈ l, (∀ u, NoneStored u → (u.keg b).phase ≠ .vacant → u.rte.lastControl[b] ≠ none → slotEmptied d u = controlLost b (told b none u)) →
      ControlGone b (forAll l slotEmptied s) := fun d hd hdo => by
    refine forAll_reaches (P := fun u => NoneStored u ∧ (u.keg b).phase ≠ .vacant ∧ u.rte.lastControl[b] ≠ none) hd (fun e _ u ⟨hu, huv, hul⟩ => ?_)
      (fun e _ u hu => slotEmptied_controlGone e hu) (fun u ⟨hu, huv, hul⟩ => hgone d u hu (hdo u hu huv hul)) ⟨hn, hv, hl⟩
    have hv' := vacant_of_kegWork ((slotEmptied_ruin e u).work.kegs b) huv
    rcases slotEmptied_bay b e hu with ⟨-, -, -, h4⟩ | he | he
    · exact .inl ⟨slotEmptied_noneStored e hu, hv', by rwa [h4]⟩
    · exact .inr (hgone e u hu he)
    · exact .inl ⟨slotEmptied_noneStored e hu, hv', by rwa [he, pressureEmptied_lastControl]⟩
  exact h.elim (fun h => hreach _ h fun _ hu huv hul => deliverControl_goes hu huv hul) fun h => hreach _ h fun _ hu huv hul => deliverControl_goes hu huv hul

/-! ## The manifold (R124) -/

theorem enterDown_state (s : State) : (enterDown s).man.state = .down := by
  by_cases h : s.man.state = .down
  · rwa [enterDown_down h]
  · exact (enterDown_drained h).1

/-- The destinations that are no bay's. -/
def plantDests : List Dest := [.manifold, .cylinder, .line 0, .line 1, .glycol, .ambient]

/-- R124. Behind the bays' slots, which deliver first (log 5), nothing takes the manifold out of DOWN. -/
theorem plantSlotsEmptied_down {l : List Dest} {s : State} (hl : ∀ d ∈ l, d ∈ plantDests) (h : Dest.manifold ∈ l ∨ Dest.cylinder ∈ l) :
    (forAll l slotEmptied s).man.state = .down := by
  have hkeep : ∀ d ∈ l, ∀ u : State, u.man.state = .down → (slotEmptied d u).man.state = .down := fun d hd u hu => by
    have hd := hl d hd
    cases d with
    | kegCore b | kegWall b | kegPress b => simp [plantDests] at hd
    | manifold | cylinder => exact enterDown_state u
    | line y =>
      have hm : (lineEmptied y u).man = u.man := lineEmptied_touches (Touches.refl [.image, .chl] u) (by decide) (by decide) .man (by decide)
      exact (congrArg Man.state hm).trans hu
    | glycol | ambient => exact hu
  have hreach : ∀ d ∈ l, (∀ u, (slotEmptied d u).man.state = .down) → (forAll l slotEmptied s).man.state = .down := fun d hd hdo =>
    forAll_reaches (P := fun _ => True) (Q := fun u => u.man.state = .down) hd (fun _ _ _ _ => .inl trivial) hkeep (fun u _ => hdo u) trivial
  exact h.elim (fun h => hreach _ h enterDown_state) fun h => hreach _ h enterDown_state

end Sys2Proof.Proofs
end

section
/-! PROOFS. ROUTE_LOAD: its checks, the table that it sets, and the slots that it empties (R42 to R44, R47, R50, R63, R124, R165). -/

namespace Sys2Proof.Proofs

open Sys2Proof.Machine Sys2Proof.Safety Sys2Proof.Claims

/-! ## The fields (R42) -/

theorem bayOf_eq_some {k : Nat} {b : Bay} (h : bayOf k = some b) : k = bayNum b := by
  unfold bayOf at h
  split at h
  · cases h
    simp only [bayNum]
    omega
  · cases h

theorem resolveDest_destCode (d : Option Dest) : resolveDest (destCode d) = some d := by
  cases d with
  | none => rfl
  | some d => cases d <;> simp [destCode, resolveDest]

/-- R42. Every code that is not refused is that of its destination. -/
theorem resolveDest_eq_some {x : DestCode} {d : Option Dest} (h : resolveDest x = some d) : x = destCode d := by
  cases x with
  | kegCore k | kegWall k | kegPress k =>
    obtain ⟨b, hb, rfl⟩ := Option.map_eq_some_iff.1 h
    rw [bayOf_eq_some hb]
    rfl
  | line k =>
    obtain ⟨y, hy, rfl⟩ := Option.map_eq_some_iff.1 h
    rw [tapOf_eq_some hy]
    rfl
  | nowhere | manifold | cylinder | glycol | ambient =>
    cases h
    rfl
  | unknown => cases h

theorem resolveRoutes_cons (f : RouteFields) (l : List RouteFields) :
    resolveRoutes (f :: l) = (resolveRoute f).bind fun r => (resolveRoutes l).map (r :: ·) := by
  unfold resolveRoutes
  rw [List.mapM_cons]
  cases resolveRoute f with
  | none => rfl
  | some r => cases l.mapM resolveRoute <;> rfl

theorem resolveRoutes_fieldsOf (l : List Route) : resolveRoutes (l.map fun r => { dest := destCode r.dest, divider := r.divider }) = some l := by
  induction l with
  | nil => rfl
  | cons r l ih =>
    rw [List.map_cons, resolveRoutes_cons, ih]
    simp only [resolveRoute, resolveDest_destCode, Option.map_some, Option.bind_some]

theorem resolveRoutes_routeFields (v : Vector Route 24) : resolveRoutes (routeFields v) = some v.toList := resolveRoutes_fieldsOf v.toList

theorem resolveRoutes_unknown {l : List RouteFields} (h : ∃ f ∈ l, ∀ d, f.dest ≠ destCode d) : resolveRoutes l = none := by
  obtain ⟨f, hf, hd⟩ := h
  have hnone : resolveRoute f = none := by
    cases hr : resolveDest f.dest with
    | none => simp only [resolveRoute, hr, Option.map_none]
    | some d => exact absurd (resolveDest_eq_some hr) (hd d)
  induction l with
  | nil => cases hf
  | cons g l ih =>
    rw [resolveRoutes_cons]
    rcases List.mem_cons.1 hf with rfl | hf
    · rw [hnone]
      rfl
    · rw [ih hf]
      cases resolveRoute g <;> rfl

/-! ## The table (R43) -/

theorem toList_dest (v : Vector Route 24) (c : Chan) : (v.toList[c.val]?).bind (·.dest) = v[c].dest := by simp

theorem duplicates_iff (v : Vector Route 24) (c : Chan) (d : Dest) :
    duplicates v.toList c.val d = true ↔ ∃ c' : Chan, c' < c ∧ v[c'].dest = some d := by
  refine ⟨fun h => ?_, fun ⟨c', hlt, hd⟩ => duplicates_of_lower hlt ((toList_dest v c').trans hd)⟩
  obtain ⟨r, hr, hd⟩ := List.any_eq_true.1 h
  obtain ⟨i, hi, rfl⟩ := List.mem_take_iff_getElem.1 hr
  have hic : i < c.val := lt_of_lt_of_le hi (min_le_left _ _)
  exact ⟨⟨i, hic.trans c.isLt⟩, hic, by simpa using hd⟩

theorem offenceAt_duplicate {v : Vector Route 24} {s : State} {c : Chan} (h : Duplicate v c) : offenceAt v.toList s c = some .duplicate := by
  obtain ⟨d, hd, hc⟩ := h
  unfold offenceAt
  rw [toList_dest, hd]
  exact if_pos ((duplicates_iff v c d).2 hc)

/-- R43. A channel that does not offend by DUPLICATE is judged by its kind. -/
theorem offenceAt_suits {v : Vector Route 24} {s : State} {c : Chan} (h : ¬ Duplicate v c) :
    offenceAt v.toList s c = if suits (s.chan c).record.kind v[c].dest then none else some .kind := by
  unfold offenceAt
  rw [toList_dest]
  cases hd : v[c].dest with
  | none => rfl
  | some d => exact if_neg fun hc => h ⟨d, hd, (duplicates_iff v c d).1 hc⟩

theorem offenceAt_kind {v : Vector Route 24} {s : State} {c : Chan} (h : ¬ Duplicate v c) (hk : WrongKind v s c) : offenceAt v.toList s c = some .kind := by
  rw [offenceAt_suits h, if_neg fun hs => hk ((suits_iff _ _).1 hs)]

theorem offenceAt_none {v : Vector Route 24} {s : State} {c : Chan} (h : ¬ Duplicate v c ∧ ¬ WrongKind v s c) : offenceAt v.toList s c = none := by
  rw [offenceAt_suits h.1, if_pos ((suits_iff _ _).2 (not_not.1 h.2))]

/-- R43. The offence named is that of the lowest-numbered channel that offends. -/
theorem offence_first {l : List Route} {s : State} {c : Chan} {o : RouteOffence} (h : offenceAt l s c = some o)
    (hlow : ∀ c' : Chan, c' < c → offenceAt l s c' = none) : offence l s = some (c, o) := by
  obtain ⟨l₁, l₂, hl⟩ := List.append_of_mem (List.mem_finRange c)
  have hsorted : (l₁ ++ c :: l₂).Pairwise (· < ·) := hl ▸ List.pairwise_lt_finRange 24
  have hbefore : ∀ c' ∈ l₁, c' < c := fun c' hc => (List.pairwise_append.1 hsorted).2.2 c' hc c List.mem_cons_self
  refine List.findSome?_eq_some_iff.2 ⟨l₁, c, l₂, hl, by rw [h]; rfl, fun c' hc => ?_⟩
  rw [hlow c' (hbefore c' hc)]
  rfl

theorem offence_none {v : Vector Route 24} {s : State} (h : ∀ c : Chan, ¬ Duplicate v c ∧ ¬ WrongKind v s c) : offence v.toList s = none :=
  List.findSome?_eq_none_iff.2 fun c _ => by rw [offenceAt_none (h c)]; rfl

/-! ## The request (R42, R43) -/

theorem routeLoad_running {l : List RouteFields} {s : State} (hl : l.length = 24) (h : s.mgp.part = .running) :
    handlerOf (.routeLoad (.params l)) s = refuse .notAvailable s := by
  show require _ _ (require _ _ _) s = _
  rw [require, if_pos (decide_eq_true hl), require, if_neg (by simp [State.running, h])]

/-- R43, R44. A table with valid fields is refused for its first offence, or loaded. -/
def judgeTable (routes : List Route) (s : State) : Answer × State :=
  match offence routes s with
  | some (c, o) => refuseWith .badRoute (.badRoute c o) s
  | none => okay (loadRoutes routes s)

theorem routeLoad_held {l : List RouteFields} {s : State} (hl : l.length = 24) (h : s.mgp.part = .held) :
    handlerOf (.routeLoad (.params l)) s = withNumber (resolveRoutes l) judgeTable s :=
  (if_pos (decide_eq_true hl)).trans (if_pos (decide_eq_true (part_eq_held.1 h)))

theorem routeFields_length (v : Vector Route 24) : (routeFields v).length = 24 := by simp [routeFields]

theorem routeLoad_offends {v : Vector Route 24} {s : State} {c : Chan} {o : RouteOffence} (h : s.mgp.part = .held) (ho : offence v.toList s = some (c, o)) :
    handlerOf (.routeLoad (.params (routeFields v))) s = refuseWith .badRoute (.badRoute c o) s := by
  rw [routeLoad_held (routeFields_length v) h, resolveRoutes_routeFields]
  simp only [withNumber, judgeTable, ho]

theorem routeLoad_loads {v : Vector Route 24} {s : State} (h : s.mgp.part = .held) (ho : offence v.toList s = none) :
    handlerOf (.routeLoad (.params (routeFields v))) s = okay (loadRoutes v.toList s) := by
  rw [routeLoad_held (routeFields_length v) h, resolveRoutes_routeFields]
  simp only [withNumber, judgeTable, ho]

/-! ## The load (R44) -/

theorem routeTable_toList (v : Vector Route 24) : routeTable v.toList = v := by
  ext i hi
  simp [routeTable]

/-- R44. The new table stands, and every slot is empty; nothing has been delivered yet. -/
def emptied (v : Vector Route 24) (s : State) : State := s.modRte fun r => { r with routes := routeTable v.toList, slots := .replicate 24 none }

/-- R44, Table 3-1. The slots that held a value, in the table's order. -/
def fullSlots (s : State) : List Dest := allDests.filter fun d => s.rte.slots[destIdx d].isSome

/-- R44, R47. The emptied slots have delivered their unavailability. -/
def unavailableTold (v : Vector Route 24) (s : State) : State := forAll (fullSlots s) slotEmptied (emptied v s)

theorem loadRoutes_eq (v : Vector Route 24) (s : State) :
    loadRoutes v.toList s = ((unavailableTold v s).modRte fun r => { r with counts := .replicate 24 0 }).modMgp fun m => { m with routeHalf := true, tapHalf := false } := rfl

theorem mem_fullSlots {d : Dest} {s : State} : d ∈ fullSlots s ↔ s.rte.slots[destIdx d] ≠ none := by
  rw [fullSlots, List.mem_filter, Option.isSome_iff_ne_none]
  exact and_iff_right (mem_allDests d)

theorem emptied_noneStored (v : Vector Route 24) (s : State) : NoneStored (emptied v s) := fun i => by simp [emptied]

theorem emptied_mgp (v : Vector Route 24) (s : State) : (emptied v s).mgp = s.mgp := modRte_mgp _ s

theorem emptied_keg (v : Vector Route 24) (s : State) (b : Bay) : (emptied v s).keg b = s.keg b := congrArg (fun k : Vector Keg 6 => k[b]) (modRte_kegs _ s)

theorem emptied_lastControl (v : Vector Route 24) (s : State) : (emptied v s).rte.lastControl = s.rte.lastControl := by
  simp only [emptied, modRte_rte]

/-- R44, R47. What the deliveries of a route load reach. -/
theorem unavailableTold_ruin (v : Vector Route 24) (s : State) : Ruin (emptied v s) (unavailableTold v s) := Ruin.forAll slotEmptied_ruin _

theorem unavailableTold_slots (v : Vector Route 24) (s : State) (i : Fin 24) : (unavailableTold v s).rte.slots[i] = none :=
  forAll_keeps (Q := NoneStored) (fun d _ _ hu => slotEmptied_noneStored d hu) (emptied_noneStored v s) i

theorem unavailableTold_halts {v : Vector Route 24} {b : Bay} {ph : ActivePhase} {s : State} (hp : (s.keg b).phase = ph.phase)
    (h : s.rte.slots[destIdx (.kegPress b)] ≠ none ∨
      (s.rte.lastControl[b] ≠ none ∧ (s.rte.slots[destIdx (.kegCore b)] ≠ none ∨ s.rte.slots[destIdx (.kegWall b)] ≠ none))) :
    SensorHalted b ph (unavailableTold v s) := by
  refine slotsEmptied_halt (emptied_noneStored v s) (by rwa [emptied_keg]) ?_
  rw [emptied_lastControl, mem_fullSlots, mem_fullSlots, mem_fullSlots]
  exact h

theorem unavailableTold_pressure {v : Vector Route 24} {b : Bay} {s : State} (h : s.rte.slots[destIdx (.kegPress b)] ≠ none) :
    ((unavailableTold v s).keg b).sensedPressure = none := slotsEmptied_pressure (emptied_noneStored v s) (mem_fullSlots.2 h)

theorem unavailableTold_control {v : Vector Route 24} {b : Bay} {s : State} (hv : (s.keg b).phase ≠ .vacant) (hl : s.rte.lastControl[b] ≠ none)
    (h : s.rte.slots[destIdx (.kegCore b)] ≠ none ∨ s.rte.slots[destIdx (.kegWall b)] ≠ none) : ControlGone b (unavailableTold v s) :=
  slotsEmptied_control (emptied_noneStored v s) (by rwa [emptied_keg]) (by rwa [emptied_lastControl]) (h.imp mem_fullSlots.2 mem_fullSlots.2)

/-- R124. The slots that are no bay's deliver behind those of the bays (log 5). -/
theorem unavailableTold_down {v : Vector Route 24} {s : State} (h : s.rte.slots[destIdx .manifold] ≠ none ∨ s.rte.slots[destIdx .cylinder] ≠ none) :
    (unavailableTold v s).man.state = .down := by
  have hsplit : fullSlots s = (allBays.map Dest.kegCore ++ allBays.map Dest.kegWall ++ allBays.map Dest.kegPress).filter (fun d => s.rte.slots[destIdx d].isSome) ++
      plantDests.filter fun d => s.rte.slots[destIdx d].isSome := List.filter_append _ _
  have hfull : ∀ d ∈ plantDests, s.rte.slots[destIdx d] ≠ none → d ∈ plantDests.filter fun d => s.rte.slots[destIdx d].isSome :=
    fun d hd hs => List.mem_filter.2 ⟨hd, Option.isSome_iff_ne_none.2 hs⟩
  unfold unavailableTold
  rw [hsplit, forAll, List.foldl_append]
  exact plantSlotsEmptied_down (fun d hd => List.mem_of_mem_filter hd) (h.imp (hfull _ (by decide)) (hfull _ (by decide)))

/-- R44, R165. The Management Port of a route load: the halves of the run gate, and the frames of the deliveries. -/
theorem loadRoutes_port (v : Vector Route 24) (s : State) :
    { (loadRoutes v.toList s).mgp with up := s.mgp.up, seq := s.mgp.seq, receiver := (loadRoutes v.toList s).mgp.receiver.tail } =
      { s.mgp with receiver := s.mgp.receiver.tail, routeHalf := true, tapHalf := false } := by
  have hp : Same .port (emptied v s) (unavailableTold v s) := (unavailableTold_ruin v s).touches .port (by decide)
  have hm : { (unavailableTold v s).mgp with up := (emptied v s).mgp.up, seq := (emptied v s).mgp.seq } = (emptied v s).mgp := hp
  rw [emptied_mgp] at hm
  rw [loadRoutes_eq]
  generalize unavailableTold v s = w at hm ⊢
  exact congrArg (fun m : Mgp => { m with receiver := m.receiver.tail, routeHalf := true, tapHalf := false }) hm

/-- R44. Behind the deliveries come the counts, the run gate and the answer: the kegs, the flags and the manifold keep what the deliveries left them. -/
theorem answered_loadRoutes (tag : Byte) (r : Request) (a : Answer) (v : Vector Route 24) (s : State) :
    let t := respond tag r a (finish (loadRoutes v.toList s))
    t.kegs = (unavailableTold v s).kegs ∧ t.atn = (unavailableTold v s).atn ∧ t.man = (unavailableTold v s).man ∧
      t.rte = { (unavailableTold v s).rte with counts := .replicate 24 0 } := by
  rw [loadRoutes_eq]
  generalize unavailableTold v s = w
  have hend := answered_touches tag r a ((w.modRte fun r => { r with counts := .replicate 24 0 }).modMgp fun m => { m with routeHalf := true, tapHalf := false })
  exact ⟨hend .kegs (by decide), hend .atn (by decide), hend .man (by decide), answered_rte tag r a _⟩

/-- R44, R47, R50, R63, R124. What a route load leaves of the routes, the slots, the kegs and the manifold. -/
theorem loadRoutes_leaves (tag : Byte) (r : Request) (a : Answer) (v : Vector Route 24) (s : State) :
    let t := respond tag r a (finish (loadRoutes v.toList s))
    t.rte.routes = v ∧ (∀ i : Fin 24, t.rte.slots[i] = none ∧ t.rte.counts[i] = 0) ∧
    (∀ (b : Bay) (ph : ActivePhase), (s.keg b).phase = ph.phase →
      (s.rte.slots[destIdx (.kegPress b)] ≠ none ∨
        (s.rte.lastControl[b] ≠ none ∧ (s.rte.slots[destIdx (.kegCore b)] ≠ none ∨ s.rte.slots[destIdx (.kegWall b)] ≠ none))) →
      (t.keg b).phase = .halted ∧ (t.keg b).prior = some ph ∧ (t.keg b).haltReason = some .sensor ∧ (t.keg b).underControl = false ∧
      t.atn[Flag.kegHalted.idx].pending = true ∧ bayNum b ∈ t.atn[Flag.kegHalted.idx].index) ∧
    (∀ b : Bay, (s.keg b).phase ≠ .vacant →
      (s.rte.slots[destIdx (.kegPress b)] ≠ none → (t.keg b).sensedPressure = none) ∧
      (s.rte.lastControl[b] ≠ none → (s.rte.slots[destIdx (.kegCore b)] ≠ none ∨ s.rte.slots[destIdx (.kegWall b)] ≠ none) →
        (t.keg b).sensedTemp = none ∧ t.rte.lastControl[b] = none)) ∧
    ((s.rte.slots[destIdx .manifold] ≠ none ∨ s.rte.slots[destIdx .cylinder] ≠ none) → t.man.state = .down) := by
  intro t
  have hroutes : t.rte.routes = v := by
    rw [answered_rte, loadRoutes_routes, routeTable_toList]
  obtain ⟨hkegs, hatn, hman, hrte⟩ := answered_loadRoutes tag r a v s
  refine ⟨hroutes, fun i => ⟨?_, ?_⟩, fun b ph hph h => ?_, fun b hv => ⟨fun h => ?_, fun hl h => ?_⟩, fun h => ?_⟩
  · rw [hrte]
    exact unavailableTold_slots v s i
  · rw [hrte]
    simp
  · obtain ⟨hp, hprior, hreason, hcontrol, ⟨hpending, hindex⟩, -⟩ := unavailableTold_halts (v := v) hph h
    rw [State.keg, hkegs, hatn]
    exact ⟨hp, hprior, hreason, hcontrol, hpending, hindex⟩
  · rw [State.keg, hkegs]
    exact unavailableTold_pressure h
  · obtain ⟨-, hs, hlast⟩ := unavailableTold_control (v := v) hv hl h
    rw [State.keg, hkegs, hrte]
    exact ⟨hs, hlast⟩
  · rw [hman]
    exact unavailableTold_down h

/-- Settles O30: the refusals in the order of R42 and R43, and then the load. -/
theorem routeLoadJudgesAndReplacesTheTable : Obligations.RouteLoadJudgesAndReplacesTheTable := by
  refine ⟨fun tag v s c hh hlow => ?_, fun tag l s hl hr ht => exec_refused ht (by decide) (routeLoad_running hl hr), fun tag l s hl hh hd ht => ?_,
    fun tag v s hh hok => ?_⟩
  · have hbefore : ∀ c' : Chan, c' < c → offenceAt v.toList s c' = none := fun c' hc => offenceAt_none (hlow c' hc)
    exact ⟨fun hd ht => exec_refused ht (by decide) (routeLoad_offends hh (offence_first (offenceAt_duplicate hd) hbefore)),
      fun hd hk ht => exec_refused ht (by decide) (routeLoad_offends hh (offence_first (offenceAt_kind hd hk) hbefore))⟩
  · refine exec_refused ht (by decide) ?_
    rw [routeLoad_held hl hh, resolveRoutes_unknown hd]
    rfl
  · refine carriedOut_of (u := loadRoutes v.toList s) rfl rfl (routeLoad_loads hh (offence_none hok)) (loadRoutes_port v s) ?_ (loadRoutes_leaves tag _ _ v s)
    apply loadRoutes_touches (Touches.refl _ s) <;> decide

end Sys2Proof.Proofs
end

section
/-! PROOFS. What the answers to gas needs and the ends of pours leave of the kegs (R92, R127, R155). -/

namespace Sys2Proof.Proofs

open Sys2Proof.Machine Sys2Proof.Safety Sys2Proof.Claims

/-! ## Kegs and the manifold (R92, R127, R155) -/

/-- What the manifold's answers and the ends of pours leave of a keg: all of it but its pours, which only go down, and, in a CARB step,
its charge-pending mark and its settle timer, which only goes back to 0. -/
def KegGas (carb : Bool) (k k' : Keg) : Prop :=
  ∃ pours pending settle, k' = { k with pours := pours, chargePending := pending, settle := settle } ∧ pours ≤ k.pours ∧
    (settle = k.settle ∨ settle = some 0) ∧ (carb = false → pending = k.chargePending ∧ settle = k.settle)

/-- The work has changed no step of the pool, and the kegs only as `KegGas` allows. -/
def GasWork (s t : State) : Prop := t.sch = s.sch ∧ ∀ d, KegGas (inCarb d s) (s.keg d) (t.keg d)

theorem KegGas.refl (carb : Bool) (k : Keg) : KegGas carb k k := ⟨_, _, _, rfl, Nat.le_refl _, .inl rfl, fun _ => ⟨rfl, rfl⟩⟩

theorem KegGas.trans {carb : Bool} {k k' k'' : Keg} (h : KegGas carb k k') (g : KegGas carb k' k'') : KegGas carb k k'' := by
  obtain ⟨n, c, x, rfl, hn, hx, hc⟩ := h
  obtain ⟨n', c', x', rfl, hn', hx', hc'⟩ := g
  refine ⟨n', c', x', rfl, hn'.trans hn, ?_, fun e => ⟨(hc' e).1.trans (hc e).1, (hc' e).2.trans (hc e).2⟩⟩
  rcases hx' with rfl | rfl
  · exact hx
  · exact .inr rfl

theorem KegGas.chain {carb : Bool} {k k' : Keg} (h : KegGas carb k k') : k'.chain = k.chain := by
  obtain ⟨_, _, _, rfl, -⟩ := h
  rfl

theorem currentStep_congr {b : Bay} {s t : State} (hc : (t.keg b).chain = (s.keg b).chain) (hs : t.sch = s.sch) : currentStep b t = currentStep b s := by
  unfold currentStep
  rw [hc, hs]

theorem inCarb_congr {b : Bay} {s t : State} (hc : (t.keg b).chain = (s.keg b).chain) (hs : t.sch = s.sch) : inCarb b t = inCarb b s := by
  unfold inCarb
  rw [currentStep_congr hc hs]

theorem inCarb_empty {b : Bay} {s : State} (h : (s.keg b).chain = []) : inCarb b s = false := by
  unfold inCarb currentStep
  rw [h]

theorem GasWork.refl (s : State) : GasWork s s := ⟨rfl, fun _ => KegGas.refl _ _⟩

theorem GasWork.inCarb {s t : State} (h : GasWork s t) (b : Bay) : inCarb b t = Machine.inCarb b s := inCarb_congr (h.2 b).chain h.1

theorem GasWork.trans {s t u : State} (h : GasWork s t) (g : GasWork t u) : GasWork s u :=
  ⟨g.1.trans h.1, fun d => (h.2 d).trans (h.inCarb d ▸ g.2 d)⟩

theorem GasWork.of_touches {l : List Part} {s t : State} (h : Touches l s t) (h0 : .kegs ∉ l) (h1 : .sch ∉ l) : GasWork s t := by
  have hk : t.kegs = s.kegs := h .kegs h0
  refine ⟨h .sch h1, fun d => ?_⟩
  rw [State.keg, State.keg, hk]
  exact KegGas.refl _ _

theorem GasWork.branch {s t u : State} {c : Prop} {_ : Decidable c} (h : GasWork s t) (g : GasWork s u) : GasWork s (if c then t else u) := by
  split
  · exact h
  · exact g

theorem GasWork.forAll {α : Type} {l : List α} {f : α → State → State} (hf : ∀ x u, GasWork u (f x u)) (s : State) : GasWork s (forAll l f s) := by
  induction l generalizing s with
  | nil => exact GasWork.refl s
  | cons x l ih => exact (hf x s).trans (ih _)

theorem GasWork.forAny {α : Type} {l : List α} {f : α → State → State} (hf : ∀ x u, GasWork u (f x u)) (s : State) : GasWork s (forAny l f s) := by
  obtain ⟨l', x, -, he⟩ := forAny_spec l f s
  rw [he]
  exact GasWork.trans (t := s.setFree x) (GasWork.refl s) (GasWork.forAll hf _)

theorem GasWork.modKeg {b : Bay} {f : Keg → Keg} {s : State} (h : KegGas (Machine.inCarb b s) (s.keg b) (f (s.keg b))) : GasWork s (s.modKeg b f) := by
  refine ⟨rfl, fun d => ?_⟩
  rw [keg_modKeg]
  split
  · rename_i e
    exact e ▸ h
  · exact KegGas.refl _ _

theorem write_gas (w : Owner) (o : Output) (v : Nat) (s : State) : GasWork s (write w o v s) :=
  GasWork.of_touches (write_touches (Touches.refl [.image] s) (by decide)) (by decide) (by decide)

/-! ## The manifold -/

theorem chargeMarked_gas (b : Bay) (s : State) : GasWork s (chargeMarked b s) := by
  unfold chargeMarked
  split
  · exact GasWork.modKeg ⟨_, _, _, rfl, Nat.le_refl _, .inl rfl, fun e => absurd e (by simp [*])⟩
  · exact GasWork.refl s

theorem chargeEnded_gas (b : Bay) (opened : Bool) (s : State) : GasWork s (chargeEnded b opened s) := by
  unfold chargeEnded
  split
  · refine GasWork.modKeg ⟨_, _, _, rfl, Nat.le_refl _, ?_, fun e => absurd e (by simp [*])⟩
    split
    · exact .inr rfl
    · exact .inl rfl
  · exact GasWork.refl s

theorem startOperation_gas (e : GasEntry) (s : State) : GasWork s (startOperation e s) := by
  have ht : ∀ n u, GasWork u (tellServed n u) := fun n u => by
    cases n with
    | charge b => exact chargeMarked_gas b u
    | purge _ _ | pour _ _ | check => exact GasWork.refl u
  have hm : ∀ (x : Nat) (f : Man → Man), GasWork s (write .man .regulator x (s.modMan f)) := fun x f =>
    GasWork.trans (t := s.modMan f) (GasWork.refl s) (write_gas _ _ _ _)
  exact (hm _ _).trans (ht _ _)

theorem serveQueue_gas (s : State) : GasWork s (serveQueue s) := by
  have he : ∀ e, GasWork s (serveEntry e s) := fun e => by
    have hs : GasWork s (startOperation e (s.modMan fun m => { m with queue := m.queue.erase e })) :=
      GasWork.trans (t := s.modMan _) (GasWork.refl s) (startOperation_gas e _)
    exact GasWork.branch hs hs
  refine GasWork.branch ?_ (GasWork.refl s)
  split
  · exact he _
  · exact GasWork.refl s

theorem becomeIdle_gas (s : State) : GasWork s (becomeIdle s) := serveQueue_gas (s.modMan fun m => { m with state := .idle })

theorem pourEnded_gas (y : Tap) (s : State) : GasWork s (pourEnded y s) := by
  have hidle : ∀ {c : Prop} {_ : Decidable c} (u : State), GasWork u (if c then becomeIdle (clearOp u) else u) := fun u =>
    GasWork.branch (becomeIdle_gas (clearOp u)) (GasWork.refl u)
  have hshut : ∀ {c : Prop} {_ : Decidable c} (b : Bay) (u : State), GasWork u (if c then u else write .man (.gasIn b) 0 u) := fun b u =>
    GasWork.branch (GasWork.refl u) (write_gas _ _ _ u)
  unfold pourEnded
  dsimp only
  split
  · split
    · exact GasWork.trans (t := (unqueued y s).modMan _) (GasWork.refl s) ((hshut _ _).trans (hidle _))
    · exact GasWork.refl s
  · exact GasWork.refl s

theorem chargesEnd_gas (b : Bay) (s : State) : GasWork s (chargesEnd b s) := by
  have hq : GasWork s (if s.man.queue.any fun e => e.need.same (.charge b) then
      chargeEnded b false (s.modMan fun m => { m with queue := m.queue.filter fun e => !e.need.same (.charge b) }) else s) :=
    GasWork.branch (chargeEnded_gas b false (s.modMan _)) (GasWork.refl s)
  have hw : ∀ {c : Prop} {_ : Decidable c} (u : State), GasWork u (clearOp (if c then write .man (.gasIn b) 0 u else u)) := fun u =>
    GasWork.trans (t := if _ then _ else _) (GasWork.branch (write_gas _ _ _ u) (GasWork.refl u)) (GasWork.refl _)
  unfold chargesEnd
  dsimp only
  split
  · exact hq.trans (GasWork.branch (((hw _).trans (chargeEnded_gas b _ _)).trans (becomeIdle_gas _)) (GasWork.refl _))
  · exact hq

/-! ## The taps -/

theorem raiseNeed_gas (serving : Bool) (e : GasEntry) (s : State) : GasWork s (raiseNeed serving e s).2 := by
  unfold raiseNeed
  split
  · exact GasWork.of_touches (joinPour_touches (Touches.refl [.image, .man, .taps] s) (by decide) (by decide) (by decide)) (by decide) (by decide)
  · exact startOperation_gas e s
  · exact GasWork.refl s
  · exact GasWork.refl s

theorem evalPurge_gas (serving : Bool) (y : Tap) (s : State) : GasWork s (evalPurge serving y s) := by
  have hr := raiseNeed_gas serving (purgeEntry y s) s
  refine GasWork.branch ?_ (GasWork.refl s)
  split
  all_goals
    rename_i u hu
    rw [hu] at hr
    exact hr

theorem pourGoneFrom_gas (y : Tap) (p : Pour) (mk : Byte → PourReport) (s : State) : GasWork s (pourGoneFrom y p mk s) := by
  have hsch : Touches [.kegs, .taps, .up, .atn] (s.modKeg p.bay fun k => { k with pours := k.pours - 1 }) (pourGoneFrom y p mk s) :=
    modTap_touches (handPourRecord_touches (Touches.refl _ _) (by decide) (by decide)) (by simp) (.inr fun _ => rfl)
  refine ⟨hsch .sch (by decide), fun d => ?_⟩
  rw [pourGoneFrom_keg]
  split
  · exact ⟨_, _, _, rfl, Nat.sub_le _ _, .inl rfl, fun _ => ⟨rfl, rfl⟩⟩
  · exact KegGas.refl _ _

theorem endPour_gas (reason : PourReason) (y : Tap) (s : State) : GasWork s (endPour reason y s) := by
  cases h : (s.tapRec y).pour with
  | none =>
    rw [endPour_none h]
    exact GasWork.refl s
  | some p =>
    have hv : GasWork s (noticed y p s) := (GasWork.branch (write_gas _ _ _ s) (GasWork.refl s)).trans (pourEnded_gas y _)
    have hg : ∀ u, GasWork u (pourGoneFrom y p (pourReport y p reason) u) := pourGoneFrom_gas y p _
    have ha : ∀ u, GasWork u (afterNotice reason y p u) := fun u =>
      GasWork.branch ((hg u).trans (GasWork.of_touches (startBlink_touches (Touches.refl [.taps] _) (by decide)) (by decide) (by decide))) (hg u)
    have hi : ∀ u, GasWork u (tapIdle y u) := fun u =>
      GasWork.trans (t := if _ then _ else _) (GasWork.branch (serveQueue_gas u) (GasWork.refl u)) (evalPurge_gas true y _)
    rw [endPour_eq h, pourEndCore_eq]
    exact GasWork.branch ((hv.trans (ha _)).trans (hi _)) (hv.trans (ha _))

theorem endPoursFrom_gas (reason : PourReason) (b : Bay) (s : State) : GasWork s (endPoursFrom reason b s) := GasWork.forAny (fun y => endPour_gas reason y) s

end Sys2Proof.Proofs
end

section
/-! PROOFS. A keg that enters a phase: the change itself, coming under control, leaving it, and the halt of a blind one (R55, R56, R63, R64). -/

namespace Sys2Proof.Proofs

open Sys2Proof.Machine Sys2Proof.Safety Sys2Proof.Claims

/-! ## One keg record -/

theorem keg_modKeg_same (b : Bay) (f : Keg → Keg) (s : State) : (s.modKeg b f).keg b = f (s.keg b) := by rw [keg_modKeg, if_pos rfl]

theorem keg_modKeg_other {b d : Bay} (h : d ≠ b) (f : Keg → Keg) (s : State) : (s.modKeg b f).keg d = s.keg d := by rw [keg_modKeg, if_neg h]

theorem modKeg_congr {b : Bay} {f g : Keg → Keg} {s : State} (h : f (s.keg b) = g (s.keg b)) : s.modKeg b f = s.modKeg b g := by
  show { s with kegs := upd s.kegs b f } = { s with kegs := upd s.kegs b g }
  rw [upd_eq_const h, upd_eq_const (f := g) rfl]

theorem modKeg_modKeg (b : Bay) (f g : Keg → Keg) (s : State) : (s.modKeg b f).modKeg b g = s.modKeg b fun k => g (f k) := by
  show { s with kegs := upd (upd s.kegs b f) b g } = _
  rw [upd_upd]
  rfl

theorem keg_of_kegs {s t : State} (h : t.kegs = s.kegs) (b : Bay) : t.keg b = s.keg b := by rw [State.keg, h]

/-- R72, R73. The phase's own vent control writes the phase vent state and the buckets alone. -/
theorem ventEval_eq (k : Keg) : k.ventEval = { k with ventOpen := k.ventEval.ventOpen, buckets := k.ventEval.buckets } := by
  unfold Keg.ventEval Keg.spund Keg.serveVent
  repeat' split
  all_goals rfl

/-! ## A phase that changes (R3, R174) -/

theorem changePhase_shows (b : Bay) (f : Keg → Keg) (s : State) : ShowsFrom (s.modKeg b f) (changePhase b f s) := passing_shows _ _ _

theorem ShowsFrom.kegs {s t : State} (h : ShowsFrom s t) : t.kegs = s.kegs := by
  obtain ⟨_, _, rfl⟩ := h
  rfl

theorem ShowsFrom.sch {s t : State} (h : ShowsFrom s t) : t.sch = s.sch := by
  obtain ⟨_, _, rfl⟩ := h
  rfl

theorem ShowsFrom.man {s t : State} (h : ShowsFrom s t) : t.man = s.man := by
  obtain ⟨_, _, rfl⟩ := h
  rfl

theorem ShowsFrom.atn {s t : State} (h : ShowsFrom s t) : t.atn = s.atn := by
  obtain ⟨_, _, rfl⟩ := h
  rfl

theorem ShowsFrom.rte {s t : State} (h : ShowsFrom s t) : t.rte = s.rte := by
  obtain ⟨_, _, rfl⟩ := h
  rfl

theorem ShowsFrom.nodes {s t : State} (h : ShowsFrom s t) : t.blc.nodes = s.blc.nodes := by
  obtain ⟨_, _, rfl⟩ := h
  rfl

theorem changePhase_keg (b d : Bay) (f : Keg → Keg) (s : State) : (changePhase b f s).keg d = if d = b then f (s.keg b) else s.keg d := by
  rw [keg_of_kegs (changePhase_shows b f s).kegs, keg_modKeg]

theorem changePhase_keg_same (b : Bay) (f : Keg → Keg) (s : State) : (changePhase b f s).keg b = f (s.keg b) := by rw [changePhase_keg, if_pos rfl]

theorem changePhase_sch (b : Bay) (f : Keg → Keg) (s : State) : (changePhase b f s).sch = s.sch := (changePhase_shows b f s).sch

theorem changePhase_mgp (b : Bay) (f : Keg → Keg) (s : State) : (changePhase b f s).mgp = s.mgp := (changePhase_shows b f s).mgp

theorem changePhase_nodes (b : Bay) (f : Keg → Keg) (s : State) : (changePhase b f s).blc.nodes = s.blc.nodes := (changePhase_shows b f s).nodes

/-! ## Control (R55, R56) -/

/-- R55. The keg record that comes under control. -/
def controlledKeg (k : Keg) : Keg := { k with underControl := true, counted := false, ventOpen := false }.ventEval

/-- R56. The keg record that leaves control. -/
def freedKeg (k : Keg) : Keg := if k.underControl then { k with underControl := false, counted := false, ventOpen := false } else k

/-- R63, R64. The keg record that is halted from phase `ph`. -/
def haltedKeg (ph : ActivePhase) (reason : HaltReason) (k : Keg) : Keg :=
  freedKeg { k with phase := .halted, prior := some ph, haltReason := some reason }

theorem kegs_of_touches {l : List Part} {s t : State} (h : Touches l s t) (h0 : .kegs ∉ l) : t.kegs = s.kegs := h .kegs h0

theorem writeVent_kegs (b : Bay) (s : State) : (writeVent b s).kegs = s.kegs :=
  kegs_of_touches (writeVent_touches (Touches.refl [.image] s) (by decide)) (by decide)

theorem ventRestart_kegs (b : Bay) (s : State) : (ventRestart b s).kegs = upd s.kegs b fun k => { k with ventOpen := false }.ventEval := writeVent_kegs b _

theorem comeUnderControl_kegs (b : Bay) (ph : ActivePhase) (s : State) : (comeUnderControl b ph s).kegs = upd s.kegs b controlledKeg := by
  have hc : ∀ u, (thermoCreate b ph u).kegs = u.kegs := fun u =>
    kegs_of_touches (thermoCreate_touches (Touches.refl [.image, .chl, .free] u) (by decide) (by decide) (by decide)) (by decide)
  rw [comeUnderControl, hc, ventRestart_kegs, modKeg_kegs, upd_upd]
  rfl

theorem comeUnderControl_keg (b : Bay) (ph : ActivePhase) (s : State) : (comeUnderControl b ph s).keg b = controlledKeg (s.keg b) := by
  rw [State.keg, comeUnderControl_kegs, upd_get, if_pos rfl]

/-- A keg record that changes beside its chain has the step it had. -/
theorem inCarb_modKeg (b d : Bay) (f : Keg → Keg) (s : State) (hf : ∀ k, (f k).chain = k.chain) : inCarb d (s.modKeg b f) = inCarb d s := by
  refine inCarb_congr ?_ rfl
  rw [keg_modKeg]
  split
  · rename_i e
    rw [e, hf]
  · rfl

/-- The work on the manifold goes on beside a vent that is shut. -/
theorem GasWork.ventShut {s t : State} (h : GasWork s t) (b : Bay) :
    GasWork (s.modKeg b fun k => { k with ventOpen := false }) (t.modKeg b fun k => { k with ventOpen := false }) := by
  refine ⟨h.1, fun d => ?_⟩
  rw [inCarb_modKeg b d (fun k => { k with ventOpen := false }) s fun _ => rfl, keg_modKeg, keg_modKeg]
  split
  · rename_i e
    subst e
    obtain ⟨n, c, x, hk, hrest⟩ := h.2 d
    exact ⟨n, c, x, by rw [hk], hrest⟩
  · exact h.2 d

/-- R56. A keg that leaves control: its record, and what the end of its charges leaves of every keg. -/
theorem leaveControl_gas (b : Bay) (s : State) : GasWork (s.modKeg b freedKeg) (leaveControl b s) := by
  have hend : ∀ u, GasWork u (thermoEnd b u) := fun u =>
    GasWork.of_touches (thermoEnd_touches (Touches.refl [.image, .chl, .free] u) (by decide) (by decide) (by decide)) (by decide) (by decide)
  have hvent : ∀ u, GasWork u (writeVent b u) := fun u => GasWork.of_touches (writeVent_touches (Touches.refl [.image] u) (by decide)) (by decide) (by decide)
  unfold leaveControl
  split
  · rename_i hu
    have hf : s.modKeg b freedKeg = (s.modKeg b fun k => { k with underControl := false, counted := false }).modKeg b fun k => { k with ventOpen := false } := by
      rw [modKeg_modKeg]
      exact modKeg_congr (if_pos hu)
    rw [hf]
    exact (((hend _).trans (chargesEnd_gas b _)).ventShut b).trans (hvent _)
  · rename_i hu
    have hf : s.modKeg b freedKeg = s := modKeg_eq_self (if_neg hu)
    rw [hf]
    exact GasWork.refl s

theorem raise_gas (f : Flag) (i : Option Nat) (s : State) : GasWork s (raise f i s) :=
  GasWork.of_touches (raise_touches (Touches.refl [.up, .atn] s) (by decide) (by decide)) (by decide) (by decide)

/-- R63, R64. A keg that is halted: its record, and what the ends of its charges and of its pours leave of every keg. -/
theorem haltKeg_gas {b : Bay} {ph : ActivePhase} {reason : HaltReason} {s : State} (h : (s.keg b).phase = ph.phase) :
    GasWork (s.modKeg b (haltedKeg ph reason)) (haltKeg b reason s) := by
  rw [haltKeg_active h]
  have hl := leaveControl_gas b (haltedAs b ph reason s)
  rw [haltedAs, modKeg_modKeg] at hl
  exact hl.trans ((endPoursFrom_gas .halted b _).trans (raise_gas _ _ _))

/-! ## Blind kegs (R63) -/

theorem blindReason_eq (b : Bay) (s : State) [Decidable (Blind b s)] :
    blindReason b s = if Blind b s then some (if (s.node (bayNode b)).state = .lost then .node else .sensor) else none := by
  unfold blindReason
  by_cases hn : (s.node (bayNode b)).state = .lost
  · rw [if_pos hn, if_pos hn, if_pos (.inl hn)]
  · rw [if_neg hn, if_neg hn]
    refine if_congr ?_ rfl rfl
    rw [Bool.or_eq_true, Option.isNone_iff_eq_none, Option.isNone_iff_eq_none]
    exact (or_iff_right hn).symm

/-- The two states agree in what a keg's entry of a phase looks at: its bay node, what it senses, and the part state. -/
structure SeesAs (b : Bay) (s t : State) : Prop where
  node : (t.node (bayNode b)).state = (s.node (bayNode b)).state
  temp : (t.keg b).sensedTemp = (s.keg b).sensedTemp
  pressure : (t.keg b).sensedPressure = (s.keg b).sensedPressure
  part : t.mgp.part = s.mgp.part

theorem SeesAs.refl (b : Bay) (s : State) : SeesAs b s s := ⟨rfl, rfl, rfl, rfl⟩

theorem SeesAs.symm {b : Bay} {s t : State} (h : SeesAs b s t) : SeesAs b t s := ⟨h.node.symm, h.temp.symm, h.pressure.symm, h.part.symm⟩

theorem SeesAs.trans {b : Bay} {s t u : State} (h : SeesAs b s t) (g : SeesAs b t u) : SeesAs b s u :=
  ⟨g.node.trans h.node, g.temp.trans h.temp, g.pressure.trans h.pressure, g.part.trans h.part⟩

theorem SeesAs.of_touches {b : Bay} {l : List Part} {s t : State} (h : Touches l s t) (h0 : .nodes ∉ l) (h1 : .port ∉ l)
    (ht : (t.keg b).sensedTemp = (s.keg b).sensedTemp) (hp : (t.keg b).sensedPressure = (s.keg b).sensedPressure) : SeesAs b s t :=
  ⟨(undue_fields (undue_of_same (h .nodes h0) _)).2.2, ht, hp, part_of_same (h .port h1)⟩

theorem SeesAs.changePhase {b : Bay} {f : Keg → Keg} {s : State} (ht : (f (s.keg b)).sensedTemp = (s.keg b).sensedTemp)
    (hp : (f (s.keg b)).sensedPressure = (s.keg b).sensedPressure) : SeesAs b s (changePhase b f s) :=
  ⟨by rw [State.node, changePhase_nodes], by rwa [changePhase_keg_same], by rwa [changePhase_keg_same], by rw [changePhase_mgp]⟩

theorem Blind.congr {b : Bay} {s t : State} (h : SeesAs b s t) : Blind b t ↔ Blind b s := by
  unfold Blind
  rw [h.node, h.temp, h.pressure]

theorem flags_of_atn {s t : State} (h : t.atn = s.atn) : Same .flags s t := by
  intro i hi
  rw [h]
  exact ⟨hi, fun _ hn => hn⟩

theorem Enters.congr {b : Bay} {ph : ActivePhase} {s s' t t' : State} (h : Enters b ph s t) (hs : SeesAs b s s')
    (hk : t'.keg b = t.keg b) (hf : Same .flags t t') : Enters b ph s' t' := by
  unfold Enters at *
  rw [Blind.congr hs, hk, hs.node, hs.part]
  exact ⟨fun hb => (h.1 hb).imp_right (And.imp_right (And.imp_right (And.imp_left fun hr => raised_kept hr hf))), h.2⟩

/-! ## A keg that has entered SCHEDULED or SERVING (R55, R63, R64) -/

theorem active_phase (ph : ActivePhase) : ph.phase.active = some ph := by cases ph <;> rfl

theorem enterControl_blind {b : Bay} {ph : ActivePhase} {s : State} (h : (s.keg b).phase = ph.phase) (hb : Blind b s) :
    enterControl b s = haltKeg b (if (s.node (bayNode b)).state = .lost then .node else .sensor) s := by
  classical
  simp only [enterControl, h, active_phase, blindReason_eq, if_pos hb]

theorem enterControl_sighted {b : Bay} {ph : ActivePhase} {s : State} (h : (s.keg b).phase = ph.phase) (hb : ¬ Blind b s) :
    enterControl b s = if s.running ∧ (s.keg b).underControl = false then comeUnderControl b ph s else s := by
  classical
  simp only [enterControl, h, active_phase, blindReason_eq, if_neg hb]

theorem enterControl_inactive {b : Bay} {s : State} (h : (s.keg b).phase.active = none) : enterControl b s = s := by
  rw [enterControl, h]

/-- R55, R63, R64. What the entry of phase `ph` comes to. -/
theorem enterControl_enters {b : Bay} {ph : ActivePhase} {s : State} (h : (s.keg b).phase = ph.phase) : Enters b ph s (enterControl b s) := by
  refine ⟨fun hb => ?_, fun hb => ?_⟩
  · obtain ⟨h1, h2, h3, h4, h5, -⟩ := haltKeg_fallen (if (s.node (bayNode b)).state = .lost then .node else .sensor) h
    rw [enterControl_blind h hb]
    exact ⟨h1, h2, h4, h5, h3⟩
  · rw [enterControl_sighted h hb]
    split
    · rw [comeUnderControl_keg, controlledKeg, (ventEval_fields _).2.1, (ventEval_fields _).2.2.2.2]
      exact ⟨h, fun _ => rfl⟩
    · rename_i hr
      exact ⟨h, fun hrun => Bool.eq_true_of_not_eq_false fun hu => hr ⟨hrun, hu⟩⟩

/-- What the entry of a phase leaves of the keg that enters it: whatever control, the halt and the vent do not write. -/
def KegEntered (carb : Bool) (k k' : Keg) : Prop :=
  ∃ phase prior reason control counted vent buckets pours pending settle,
    k' = { k with phase := phase, prior := prior, haltReason := reason, underControl := control, counted := counted, ventOpen := vent, buckets := buckets,
                  pours := pours, chargePending := pending, settle := settle } ∧
    (settle = k.settle ∨ settle = some 0) ∧ (carb = false → pending = k.chargePending ∧ settle = k.settle)

theorem KegEntered.refl (carb : Bool) (k : Keg) : KegEntered carb k k := ⟨_, _, _, _, _, _, _, _, _, _, rfl, .inl rfl, fun _ => ⟨rfl, rfl⟩⟩

theorem KegEntered.controlled (carb : Bool) (k : Keg) : KegEntered carb k (controlledKeg k) := by
  rw [controlledKeg, ventEval_eq]
  exact ⟨_, _, _, _, _, _, _, _, _, _, rfl, .inl rfl, fun _ => ⟨rfl, rfl⟩⟩

theorem freed_eq (k : Keg) : ∃ control counted vent, freedKeg k = { k with underControl := control, counted := counted, ventOpen := vent } := by
  unfold freedKeg
  split
  · exact ⟨_, _, _, rfl⟩
  · exact ⟨_, _, _, rfl⟩

theorem KegEntered.halted {carb : Bool} {ph : ActivePhase} {reason : HaltReason} {k k' : Keg} (h : KegGas carb (haltedKeg ph reason k) k') :
    KegEntered carb k k' := by
  obtain ⟨n, c, x, hk, -, hx, hc⟩ := h
  obtain ⟨_, _, _, he⟩ := freed_eq { k with phase := .halted, prior := some ph, haltReason := some reason }
  rw [haltedKeg, he] at hk hx hc
  subst hk
  exact ⟨_, _, _, _, _, _, _, _, _, _, rfl, hx, hc⟩

theorem freed_chain (k : Keg) : (freedKeg k).chain = k.chain := by
  obtain ⟨_, _, _, he⟩ := freed_eq k
  rw [he]

/-- R55, R63, R64. The entry of a phase leaves the pool, and of the keg what `KegEntered` says; a keg that is not blind keeps its mark and its settle timer. -/
theorem enterControl_keg (b : Bay) (s : State) :
    (enterControl b s).sch = s.sch ∧ KegEntered (inCarb b s) (s.keg b) ((enterControl b s).keg b) ∧
    (¬ Blind b s → KegEntered false (s.keg b) ((enterControl b s).keg b)) := by
  have hsch : (enterControl b s).sch = s.sch :=
    enterControl_touches (l := [.image, .chl, .man, .kegs, .taps, .free, .phases, .up, .atn, .released]) (Touches.refl _ s) (by decide) (by decide) (by decide) (by decide)
      (by decide) (by decide) (by decide) (by decide) (by decide) (by decide) .sch (by decide)
  refine ⟨hsch, ?_⟩
  rcases ha : (s.keg b).phase.active with _ | ph
  · rw [enterControl_inactive ha]
    exact ⟨KegEntered.refl _ _, fun _ => KegEntered.refl _ _⟩
  · have h := active_eq_some ha
    by_cases hb : Blind b s
    · refine ⟨?_, fun hn => absurd hb hn⟩
      rw [enterControl_blind h hb]
      have hg := (haltKeg_gas (reason := if (s.node (bayNode b)).state = .lost then .node else .sensor) h).2 b
      rw [keg_modKeg_same, inCarb_modKeg] at hg
      · exact KegEntered.halted hg
      · exact fun _ => freed_chain _
    · rw [enterControl_sighted h hb]
      split
      · rw [comeUnderControl_keg]
        exact ⟨KegEntered.controlled _ _, fun _ => KegEntered.controlled _ _⟩
      · exact ⟨KegEntered.refl _ _, fun _ => KegEntered.refl _ _⟩

/-- An entry that has been made already is not made again. -/
theorem enterControl_entered {b : Bay} {s : State} (h : ∀ ph : ActivePhase, (s.keg b).phase = ph.phase → ¬ Blind b s ∧ (s.mgp.part = .running → (s.keg b).underControl = true)) :
    enterControl b s = s := by
  rcases ha : (s.keg b).phase.active with _ | ph
  · exact enterControl_inactive ha
  · obtain ⟨hb, hu⟩ := h ph (active_eq_some ha)
    rw [enterControl_sighted (active_eq_some ha) hb]
    exact if_neg fun ⟨hrun, hno⟩ => Bool.eq_false_iff.1 hno (hu hrun)

theorem enterControl_other {b d : Bay} (hd : d ≠ b) (s : State) : ((enterControl b s).keg d).phase = (s.keg d).phase := by
  rcases ha : (s.keg b).phase.active with _ | ph
  · rw [enterControl_inactive ha]
  · have h := active_eq_some ha
    by_cases hb : Blind b s
    · rw [enterControl_blind h hb]
      exact haltKeg_other _ s hd
    · rw [enterControl_sighted h hb]
      split
      · rw [keg_of_kegs (t := comeUnderControl b ph s) (s := s.modKeg b controlledKeg) (comeUnderControl_kegs b ph s), keg_modKeg_other hd]
      · rfl

end Sys2Proof.Proofs
end

section
/-! PROOFS. A new pressure of a keg: relief, the vent, and the CHARGE that it raises (R54, R70 to R74, R92, R125, R127). -/

namespace Sys2Proof.Proofs

open Sys2Proof.Machine Sys2Proof.Safety Sys2Proof.Claims

/-! ## Overpressure relief and the vent (R70 to R73) -/

/-- R71. Overpressure relief of a keg at pressure `p`. -/
def reliefAt (p : Int) (k : Keg) : Bool :=
  if k.phase = .vacant then k.relief else if k.maxPressure < p then true else if p ≤ k.maxPressure - 200 then false else k.relief

theorem raise_kegs (f : Flag) (i : Option Nat) (s : State) : (raise f i s).kegs = s.kegs := (raise_sends f i s).kegs

theorem passing_modKeg_kegs (l : List Output) (b : Bay) (f : Keg → Keg) (s : State) : (passing l (·.modKeg b f) s).kegs = upd s.kegs b f :=
  (passing_shows l s (s.modKeg b f)).kegs

/-- R71. The keg record with overpressure relief as it is set. -/
def withRelief (x : Bool) (k : Keg) : Keg := { k with relief := x }

section
variable {b : Bay} {p : Int} {s : State}

theorem reliefEval_sensed (h : (s.keg b).sensedPressure = some p) : reliefEval b s =
    if (s.keg b).phase = .vacant then s
    else if !(s.keg b).relief && decide ((s.keg b).maxPressure < p) then
      writeVent b (raise .overpressure (some (bayNum b)) (passing [.vent b] (·.modKeg b (withRelief true)) s))
    else if (s.keg b).relief && decide (p ≤ (s.keg b).maxPressure - 200) then writeVent b (passing [.vent b] (·.modKeg b (withRelief false)) s)
    else s := by
  unfold reliefEval
  dsimp only
  split
  · rename_i q hq
    cases h.symm.trans hq
    rfl
  · rename_i hq
    cases h.symm.trans hq

theorem reliefEval_opens (h : (s.keg b).sensedPressure = some p) (hv : (s.keg b).phase ≠ .vacant) (hr : (s.keg b).relief = false) (hp : (s.keg b).maxPressure < p) :
    reliefEval b s = writeVent b (raise .overpressure (some (bayNum b)) (passing [.vent b] (·.modKeg b (withRelief true)) s)) := by
  rw [reliefEval_sensed h, if_neg hv, hr, decide_eq_true hp]
  rfl

theorem reliefEval_closes (h : (s.keg b).sensedPressure = some p) (hv : (s.keg b).phase ≠ .vacant) (hr : (s.keg b).relief = true)
    (hp : p ≤ (s.keg b).maxPressure - 200) : reliefEval b s = writeVent b (passing [.vent b] (·.modKeg b (withRelief false)) s) := by
  rw [reliefEval_sensed h, if_neg hv, hr, decide_eq_true hp]
  rfl

theorem reliefEval_keeps (h : (s.keg b).sensedPressure = some p) (hk : reliefAt p (s.keg b) = (s.keg b).relief) : reliefEval b s = s := by
  rw [reliefEval_sensed h]
  by_cases hv : (s.keg b).phase = .vacant
  · exact if_pos hv
  rw [reliefAt, if_neg hv] at hk
  rw [if_neg hv]
  cases hr : (s.keg b).relief
  · have hover : ¬ (s.keg b).maxPressure < p := fun hover => by rw [if_pos hover, hr] at hk; cases hk
    rw [decide_eq_false hover]
    rfl
  · have hlow : ¬ p ≤ (s.keg b).maxPressure - 200 := fun hlow => by rw [if_neg (by omega), if_pos hlow, hr] at hk; cases hk
    rw [decide_eq_false hlow]
    rfl

theorem reliefEval_kegs (h : (s.keg b).sensedPressure = some p) :
    (reliefEval b s).kegs = upd s.kegs b fun k => withRelief (reliefAt p k) k := by
  have hset : ∀ x : Bool, reliefAt p (s.keg b) = x → (upd s.kegs b (withRelief x)) = upd s.kegs b fun k => withRelief (reliefAt p k) k :=
    fun x hx => (upd_eq_const (a := withRelief x (s.keg b)) rfl).trans (upd_eq_const (congrArg (fun y => withRelief y (s.keg b)) hx)).symm
  by_cases hk : reliefAt p (s.keg b) = (s.keg b).relief
  · rw [reliefEval_keeps h hk]
    exact (upd_eq_self (congrArg (fun y => withRelief y (s.keg b)) hk)).symm
  have hv : (s.keg b).phase ≠ .vacant := fun hv => hk (if_pos hv)
  by_cases hover : (s.keg b).maxPressure < p
  · have hx : reliefAt p (s.keg b) = true := by rw [reliefAt, if_neg hv, if_pos hover]
    rw [reliefEval_opens h hv (Bool.eq_false_iff.2 fun hr => hk (hx.trans hr.symm)) hover, writeVent_kegs, raise_kegs, passing_modKeg_kegs]
    exact hset _ hx
  · have hlow : p ≤ (s.keg b).maxPressure - 200 := by
      by_contra hlow
      exact hk (by rw [reliefAt, if_neg hv, if_neg hover, if_neg hlow])
    have hx : reliefAt p (s.keg b) = false := by rw [reliefAt, if_neg hv, if_neg hover, if_pos hlow]
    rw [reliefEval_closes h hv (Bool.eq_true_of_not_eq_false fun hr => hk (hx.trans hr.symm)) hlow, writeVent_kegs, passing_modKeg_kegs]
    exact hset _ hx

end

theorem ventStep_kegs (b : Bay) (s : State) : (ventStep b s).kegs = upd s.kegs b Keg.ventEval := writeVent_kegs b _

/-- R70. The vent shows what the KEG commands while it owns it. -/
theorem writeVent_out {b : Bay} {s : State} (h : owner (.vent b) s = some .keg) :
    (writeVent b s).out (.vent b) = if (s.keg b).relief = true ∨ (s.keg b).ventOpen = true then 1 else 0 := by
  rw [writeVent, write_owned h, commandOut_out, if_pos rfl]
  exact if_congr (Bool.or_eq_true _ _).to_iff rfl rfl

theorem ventEval_uncontrolled {k : Keg} (h : k.underControl = false) : k.ventEval = k := by
  rw [Keg.ventEval, h]
  rfl

theorem ventEval_scheduled {k : Keg} (hu : k.underControl = true) (hp : k.phase = .scheduled) : k.ventEval = k.spund := by
  rw [Keg.ventEval, if_pos hu, hp]

theorem ventEval_serving {k : Keg} (hu : k.underControl = true) (hp : k.phase = .serving) : k.ventEval = k.serveVent := by
  rw [Keg.ventEval, if_pos hu, hp]

/-- R72. Spunding, with its openings counted. -/
theorem ventEval_spunds {k : Keg} {l p : Int} (hu : k.underControl = true) (hp : k.phase = .scheduled) (hl : k.ventLimit = some l) (hs : k.sensedPressure = some p) :
    k.ventEval.ventOpen = (if l < p then true else if p ≤ l - 100 then false else k.ventOpen) ∧
    k.ventEval.buckets = if k.ventOpen = false ∧ l < p then upd k.buckets 5 (fun n => min 255 (n + 1)) else k.buckets := by
  have he : k.ventEval = if !k.ventOpen && decide (l < p) then { k with ventOpen := true, buckets := countOpening k.buckets }
      else if k.ventOpen && decide (p ≤ l - 100) then { k with ventOpen := false } else k := by
    rw [ventEval_scheduled hu hp]
    unfold Keg.spund
    split
    · rename_i hn
      cases hl.symm.trans hn
    · rename_i l' p' hl' hs'
      cases hl.symm.trans hl'
      cases hs.symm.trans hs'
      rfl
    · rename_i hn
      cases hs.symm.trans hn
  rw [he]
  by_cases hover : l < p
  · have hlow : ¬ p ≤ l - 100 := by omega
    cases ho : k.ventOpen with
    | false => simp [hover, countOpening]
    | true => simp [hover, hlow, ho]
  · cases ho : k.ventOpen with
    | false => simp [hover, ho]
    | true => by_cases hlow : p ≤ l - 100 <;> simp [hover, hlow, ho]

/-- R73. Serving relief. -/
theorem ventEval_serves {k : Keg} {sp p : Int} (hu : k.underControl = true) (hp : k.phase = .serving) (hl : k.servePressure = some sp) (hs : k.sensedPressure = some p) :
    k.ventEval.ventOpen = (if sp + 300 < p then true else if p ≤ sp + 200 then false else k.ventOpen) ∧ k.ventEval.buckets = k.buckets := by
  have he : k.ventEval = if !k.ventOpen && decide (sp + 300 < p) then { k with ventOpen := true }
      else if k.ventOpen && decide (p ≤ sp + 200) then { k with ventOpen := false } else k := by
    rw [ventEval_serving hu hp]
    unfold Keg.serveVent
    split
    · rename_i sp' p' hl' hs'
      cases hl.symm.trans hl'
      cases hs.symm.trans hs'
      rfl
    · rename_i hn
      exact absurd hs (hn sp p hl)
  rw [he]
  by_cases hover : sp + 300 < p
  · have hlow : ¬ p ≤ sp + 200 := by omega
    cases ho : k.ventOpen with
    | false => simp [hover]
    | true => simp [hover, hlow, ho]
  · cases ho : k.ventOpen with
    | false => simp [hover, ho]
    | true => by_cases hlow : p ≤ sp + 200 <;> simp [hover, hlow, ho]

/-! ## The CHARGE (R74, R92, R125, R127) -/

theorem chargesAt_iff (b : Bay) (target : Int) (s : State) : ChargesAt b target s ↔ chargePressure b s = some target := by
  unfold ChargesAt chargePressure
  dsimp only
  cases hu : (s.keg b).underControl
  · simp
  · cases hp : (s.keg b).phase
    case scheduled =>
      rcases hc : currentStep b s with _ | x
      · simp
      · cases x <;> simp
    all_goals simp

theorem same_charge (n : GasNeed) (b : Bay) : n.same (.charge b) = true ↔ n = .charge b := by
  cases n <;> simp [GasNeed.same]

/-- R125, row 4. -/
theorem alreadyHeld_charge (b : Bay) (s : State) : alreadyHeld (.charge b) s = true ↔
    (∃ e ∈ s.man.queue, e.need = .charge b) ∨ ∃ op, s.man.op = some op ∧ op.need = .charge b := by
  unfold alreadyHeld
  rw [Bool.or_eq_true, List.any_eq_true]
  refine or_congr (exists_congr fun e => and_congr_right fun _ => same_charge _ _) ?_
  rcases s.man.op with _ | op
  · simp
  · simp [same_charge]

/-- R125, Table 7-4: the answer to a CHARGE. -/
theorem answerNeed_charge (b : Bay) (p : Int) (s : State) : answerNeed true { need := .charge b, pressure := p } s =
    if s.man.state = .down ∨ s.man.state = .lockout ∨ s.man.supplyLow = true then .unqueued
    else if alreadyHeld (.charge b) s then .alreadyHeld
    else if s.mgp.part = .running ∧ s.man.state = .idle then .inService
    else if 8 ≤ s.man.queue.length then .unqueued else .queued := by
  have hj : mayJoin { need := .charge b, pressure := p } s = false := by
    unfold mayJoin
    split <;> rfl
  unfold answerNeed
  rw [hj]
  by_cases hd : s.man.state = .down
  · rw [if_pos hd, if_pos (.inl hd)]
    rfl
  by_cases hl : s.man.state = .lockout
  · rw [if_neg hd, if_pos hl, if_pos (.inr (.inl hl))]
    rfl
  by_cases hs : s.man.supplyLow = true
  · rw [if_neg hd, if_neg hl, if_pos ⟨rfl, hs⟩, if_pos (.inr (.inr hs))]
  rw [if_neg hd, if_neg hl, if_neg fun h => hs h.2, if_neg (c := s.man.state = .down ∨ _) (not_or.2 ⟨hd, not_or.2 ⟨hl, hs⟩⟩)]
  simp [GasNeed.isPour, eligible, turnedAway, Config.gasQueueLimit]

section
variable {b : Bay} {p : Int} {s : State}

theorem raiseCharge_untaken (h : answerNeed true { need := .charge b, pressure := p } s = .unqueued ∨ answerNeed true { need := .charge b, pressure := p } s = .alreadyHeld) :
    raiseCharge b p s = s := by
  unfold raiseCharge raiseNeed
  rcases h with h | h <;> rw [h]

theorem raiseCharge_queued (h : answerNeed true { need := .charge b, pressure := p } s = .queued) :
    raiseCharge b p s = chargeMarked b (s.modMan fun m => { m with queue := m.queue ++ [{ need := .charge b, pressure := p }] }) := by
  unfold raiseCharge raiseNeed
  rw [h]

theorem raiseCharge_served (h : answerNeed true { need := .charge b, pressure := p } s = .inService) :
    raiseCharge b p s = chargeMarked b (write .man .regulator p.toNat (s.modMan fun m => { m with op := some (settlingOp (.charge b) p []), state := .busy })) := by
  unfold raiseCharge raiseNeed
  rw [h]
  rfl

end

/-- R92. The mark of a CHARGE that has been taken. -/
def markedKeg (carb : Bool) (k : Keg) : Keg := { k with chargePending := if carb then true else k.chargePending }

theorem chargeMarked_eq (b : Bay) (s : State) : chargeMarked b s = s.modKeg b (markedKeg (inCarb b s)) := by
  unfold chargeMarked
  split
  · rename_i h
    exact modKeg_congr (by rw [markedKeg, h]; rfl)
  · rename_i h
    exact (modKeg_eq_self (by rw [markedKeg, Bool.eq_false_iff.2 h]; rfl)).symm

theorem write_kegs (w : Owner) (o : Output) (v : Nat) (s : State) : (write w o v s).kegs = s.kegs := (write_shows w o v s).kegs

/-- What becomes of a CHARGE that is raised at `target`, `s` being the state before and `t` the one after (R125, R127). -/
structure ChargeRaised (b : Bay) (target : Int) (s t : State) : Prop where
  keg : t.keg b = s.keg b ∨ t.keg b = markedKeg (inCarb b s) (s.keg b)
  out : ∀ o : Output, o ≠ .regulator → t.out o = s.out o
  part : t.mgp.part = s.mgp.part
  untaken : (s.man.state = .down ∨ s.man.state = .lockout ∨ s.man.supplyLow = true) ∨ alreadyHeld (.charge b) s = true → t = s
  served : ¬ (s.man.state = .down ∨ s.man.state = .lockout ∨ s.man.supplyLow = true) → ¬ alreadyHeld (.charge b) s = true →
    s.mgp.part = .running ∧ s.man.state = .idle →
    t.man = { s.man with state := .busy, op := some (settlingOp (.charge b) target []) } ∧ t.out .regulator = target.toNat ∧
      t.keg b = markedKeg (inCarb b s) (s.keg b)
  queued : ¬ (s.man.state = .down ∨ s.man.state = .lockout ∨ s.man.supplyLow = true) → ¬ alreadyHeld (.charge b) s = true →
    ¬ (s.mgp.part = .running ∧ s.man.state = .idle) → s.man.queue.length < 8 →
    t.man = { s.man with queue := s.man.queue ++ [{ need := .charge b, pressure := target }] } ∧ t.keg b = markedKeg (inCarb b s) (s.keg b)
  full : ¬ (s.man.state = .down ∨ s.man.state = .lockout ∨ s.man.supplyLow = true) → ¬ alreadyHeld (.charge b) s = true →
    ¬ (s.mgp.part = .running ∧ s.man.state = .idle) → 8 ≤ s.man.queue.length → t = s

theorem raiseCharge_raised (b : Bay) (target : Int) (s : State) : ChargeRaised b target s (raiseCharge b target s) := by
  have ha := answerNeed_charge b target s
  by_cases hu : (s.man.state = .down ∨ s.man.state = .lockout ∨ s.man.supplyLow = true) ∨ alreadyHeld (.charge b) s = true
  · have hr : raiseCharge b target s = s := raiseCharge_untaken (by
      rw [ha]
      split
      · exact .inl rfl
      · rename_i hn
        rw [if_pos (hu.resolve_left hn)]
        exact .inr rfl)
    rw [hr]
    exact ⟨.inl rfl, fun _ _ => rfl, rfl, fun _ => rfl, fun h1 h2 => absurd hu (not_or.2 ⟨h1, h2⟩), fun h1 h2 => absurd hu (not_or.2 ⟨h1, h2⟩),
      fun h1 h2 => absurd hu (not_or.2 ⟨h1, h2⟩)⟩
  obtain ⟨h1, h2⟩ := not_or.1 hu
  rw [if_neg h1, if_neg h2] at ha
  by_cases hs : s.mgp.part = .running ∧ s.man.state = .idle
  · rw [if_pos hs] at ha
    have hm := raiseCharge_served ha
    rw [chargeMarked_eq] at hm
    have hk : (raiseCharge b target s).keg b = markedKeg (inCarb b s) (s.keg b) := by
      rw [hm, keg_modKeg_same, keg_of_kegs (write_kegs _ _ _ _), (write_gas _ _ _ _).inCarb]
      rfl
    refine ⟨.inr hk, fun o ho => ?_, ?_, fun h => absurd h hu, fun _ _ _ => ⟨?_, ?_, hk⟩, fun _ _ hn => absurd hs hn, fun _ _ hn => absurd hs hn⟩
    · rw [hm]
      exact write_out_other ho
    · rw [hm]
      exact congrArg Mgp.part (write_shows _ _ _ _).mgp
    · rw [hm]
      exact write_man _ _ _ _
    · rw [hm]
      exact write_man_out (regulator_owner hs.1)
  rw [if_neg hs] at ha
  by_cases hq : 8 ≤ s.man.queue.length
  · have hr : raiseCharge b target s = s := raiseCharge_untaken (.inl (by rw [ha, if_pos hq]))
    rw [hr]
    exact ⟨.inl rfl, fun _ _ => rfl, rfl, fun _ => rfl, fun _ _ h => absurd h hs, fun _ _ _ h => absurd hq (Nat.not_le.2 h), fun _ _ _ _ => rfl⟩
  · have hm := raiseCharge_queued (ha.trans (if_neg hq))
    rw [chargeMarked_eq] at hm
    have hk : (raiseCharge b target s).keg b = markedKeg (inCarb b s) (s.keg b) := by
      rw [hm, keg_modKeg_same]
      rfl
    rw [hm] at *
    exact ⟨.inr hk, fun _ _ => rfl, rfl, fun h => absurd h hu, fun _ _ h => absurd h hs, fun _ _ _ _ => ⟨rfl, hk⟩, fun _ _ _ h => absurd h hq⟩

end Sys2Proof.Proofs
end

section
/-! PROOFS. A new value of a keg's pressure slot, clause by clause (R54, R70 to R74, R92, R125, R127). -/

namespace Sys2Proof.Proofs

open Sys2Proof.Machine Sys2Proof.Safety Sys2Proof.Claims

/-! ## Relief and the vent at the new pressure -/

/-- R54, R70 to R73. The keg record at the new pressure `p`. -/
def pressedKeg (p : Int) (k : Keg) : Keg := (withRelief (reliefAt p k) { k with sensedPressure := some p }).ventEval

/-- R54, R70 to R73. The state once relief and the vent have taken the new pressure. -/
def vented (b : Bay) (p : Int) (s : State) : State := ventStep b (reliefEval b (s.modKeg b fun k => { k with sensedPressure := some p }))

theorem pressureValue_eq (b : Bay) (p : Int) (s : State) : pressureValue b p s = chargeTest b p (vented b p s) := rfl

theorem vented_keg (b : Bay) (p : Int) (s : State) : (vented b p s).keg b = pressedKeg p (s.keg b) := by
  have hs : ((s.modKeg b fun k => { k with sensedPressure := some p }).keg b).sensedPressure = some p := by rw [keg_modKeg_same]
  rw [vented, State.keg, ventStep_kegs, upd_get, if_pos rfl, reliefEval_kegs hs, upd_get, if_pos rfl, modKeg_kegs, upd_get, if_pos rfl]
  rfl

theorem vented_touches (b : Bay) (p : Int) (s : State) : Touches [.image, .kegs, .up, .atn] s (vented b p s) :=
  ventStep_touches (reliefEval_touches (modKeg_touches (Touches.refl _ s) (by decide) (.inr fun _ => rfl) (.inr fun _ => rfl) (.inr fun _ => ⟨rfl, rfl⟩)
    (.inr fun _ => ⟨rfl, .inl⟩) (.inr fun _ h => h)) (by decide) (by decide) (by decide) (by decide)) (by decide) (by decide)

theorem vented_man (b : Bay) (p : Int) (s : State) : (vented b p s).man = s.man := vented_touches b p s .man (by decide)

theorem vented_part (b : Bay) (p : Int) (s : State) : (vented b p s).mgp.part = s.mgp.part := part_of_same (vented_touches b p s .port (by decide))

/-- What the new pressure leaves of the keg: whatever relief and the vent do not write. -/
theorem pressedKeg_eq (p : Int) (k : Keg) : pressedKeg p k =
    { k with sensedPressure := some p, relief := reliefAt p k, ventOpen := (pressedKeg p k).ventOpen, buckets := (pressedKeg p k).buckets } := ventEval_eq _

theorem vented_currentStep (b : Bay) (p : Int) (s : State) : currentStep b (vented b p s) = currentStep b s :=
  currentStep_congr (by rw [vented_keg, pressedKeg_eq]) (vented_touches b p s .sch (by decide))

theorem vented_inCarb (b : Bay) (p : Int) (s : State) : inCarb b (vented b p s) = inCarb b s :=
  inCarb_congr (by rw [vented_keg, pressedKeg_eq]) (vented_touches b p s .sch (by decide))

theorem chargePressure_congr {b : Bay} {s t : State} (hu : (t.keg b).underControl = (s.keg b).underControl) (hp : (t.keg b).phase = (s.keg b).phase)
    (hs : (t.keg b).servePressure = (s.keg b).servePressure) (hc : currentStep b t = currentStep b s) : chargePressure b t = chargePressure b s := by
  unfold chargePressure
  dsimp only
  rw [hu, hp, hs, hc]

theorem vented_chargePressure (b : Bay) (p : Int) (s : State) : chargePressure b (vented b p s) = chargePressure b s := by
  refine chargePressure_congr ?_ ?_ ?_ (vented_currentStep b p s)
  all_goals rw [vented_keg, pressedKeg_eq]

theorem ventOwner_congr {b : Bay} {s t : State} (hm : t.mgp.part = s.mgp.part) (hp : (t.keg b).phase = (s.keg b).phase) (hr : (t.keg b).relief = (s.keg b).relief) :
    owner (.vent b) t = owner (.vent b) s := by
  refine if_congr ?_ rfl rfl
  show (t.mgp.part = .running ∧ _) ∨ _ ↔ (s.mgp.part = .running ∧ _) ∨ _
  rw [hm, hp, hr]

theorem vented_vent {b : Bay} {p : Int} {s : State} (h : owner (.vent b) (vented b p s) = some .keg) :
    (vented b p s).out (.vent b) = if (pressedKeg p (s.keg b)).relief = true ∨ (pressedKeg p (s.keg b)).ventOpen = true then 1 else 0 := by
  rw [← vented_keg]
  have hk : ∀ u : State, (writeVent b u).keg b = u.keg b := fun u => keg_of_kegs (writeVent_kegs b u) b
  have ho : ∀ u : State, owner (.vent b) (writeVent b u) = owner (.vent b) u := fun u => (write_shows _ _ _ u).owner _
  unfold vented ventStep at *
  rw [ho] at h
  rw [hk]
  exact writeVent_out h

/-! ## The CHARGE at the new pressure (R74, R92) -/

section
variable {b : Bay} {p : Int} {s : State}

theorem chargeTest_none (h : ∀ target, ChargesAt b target s → target - 100 ≤ p) : pressureValue b p s = vented b p s := by
  rw [pressureValue_eq, chargeTest, vented_chargePressure]
  split
  · rename_i target ht
    exact if_neg (Int.not_lt.2 (h target ((chargesAt_iff b target s).2 ht)))
  · rfl

theorem chargeTest_some {target : Int} (h : ChargesAt b target s) (hp : p < target - 100) :
    ChargeRaised b target (vented b p s) (pressureValue b p s) := by
  rw [pressureValue_eq, chargeTest, vented_chargePressure, (chargesAt_iff b target s).1 h]
  simp only [if_pos hp]
  exact raiseCharge_raised b target _

/-- Either no CHARGE is raised, or one is. -/
theorem pressureValue_cases (b : Bay) (p : Int) (s : State) :
    pressureValue b p s = vented b p s ∨ ∃ target, ChargeRaised b target (vented b p s) (pressureValue b p s) := by
  by_cases h : ∀ target, ChargesAt b target s → target - 100 ≤ p
  · exact .inl (chargeTest_none h)
  · push Not at h
    obtain ⟨target, ht, hp⟩ := h
    exact .inr ⟨target, chargeTest_some ht hp⟩

end

/-- R54, R70 to R73. What the keg and its vent have become, its charge-pending mark apart. -/
theorem pressureValue_keg (b : Bay) (p : Int) (s : State) :
    (∃ c, (pressureValue b p s).keg b = { pressedKeg p (s.keg b) with chargePending := c }) ∧
    owner (.vent b) (pressureValue b p s) = owner (.vent b) (vented b p s) ∧ (pressureValue b p s).out (.vent b) = (vented b p s).out (.vent b) := by
  rcases pressureValue_cases b p s with h | ⟨target, hc⟩
  · rw [h, vented_keg]
    exact ⟨⟨_, rfl⟩, rfl, rfl⟩
  · have hk : ∃ c, (pressureValue b p s).keg b = { (vented b p s).keg b with chargePending := c } := by
      rcases hc.keg with e | e
      · exact ⟨_, e⟩
      · exact ⟨_, e⟩
    refine ⟨vented_keg b p s ▸ hk, ?_, hc.out _ (by simp)⟩
    obtain ⟨c, hk⟩ := hk
    exact ventOwner_congr hc.part (by rw [hk]) (by rw [hk])

/-- Settles O38: relief and the vent at the new pressure, and then the CHARGE by the answer of the manifold. -/
theorem aPressureValueDrivesTheVent : Obligations.APressureValueDrivesTheVent := by
  intro b p s k t
  obtain ⟨⟨c, hk⟩, howner, hout⟩ := pressureValue_keg b p s
  have hrelief : (pressedKeg p k).relief = reliefAt p k := by rw [pressedKeg_eq]
  have hsettle : (pressedKeg p k).settle = k.settle := by rw [pressedKeg_eq]
  have hmark : (pressedKeg p k).chargePending = k.chargePending := by rw [pressedKeg_eq]
  have hquiet : ∀ u : State, u = vented b p s → NoCharge b s u := fun u hu => by
    rw [hu]
    exact ⟨vented_man b p s, by rw [vented_keg, hmark]⟩
  refine ⟨?_, ?_, fun hu => ?_, fun l hu hp hl => ?_, fun sp hu hp hl => ?_, fun ho => ?_, ?_, fun h => hquiet _ (chargeTest_none h), fun target hat hlow => ?_⟩
  · show ((pressureValue b p s).keg b).sensedPressure = _
    rw [hk, pressedKeg_eq]
  · show ((pressureValue b p s).keg b).relief = _
    rw [hk]
    exact hrelief
  · show ((pressureValue b p s).keg b).ventOpen = _ ∧ ((pressureValue b p s).keg b).buckets = _
    have he : pressedKeg p k = withRelief (reliefAt p k) { k with sensedPressure := some p } := ventEval_uncontrolled hu
    rw [hk, he]
    exact ⟨rfl, rfl⟩
  · show ((pressureValue b p s).keg b).ventOpen = _ ∧ ((pressureValue b p s).keg b).buckets = _
    rw [hk]
    exact ventEval_spunds (k := withRelief (reliefAt p k) { k with sensedPressure := some p }) hu hp hl rfl
  · show ((pressureValue b p s).keg b).ventOpen = _ ∧ ((pressureValue b p s).keg b).buckets = _
    rw [hk]
    exact ventEval_serves (k := withRelief (reliefAt p k) { k with sensedPressure := some p }) hu hp hl rfl
  · show (pressureValue b p s).out (.vent b) = if ((pressureValue b p s).keg b).relief = true ∨ ((pressureValue b p s).keg b).ventOpen = true then 1 else 0
    rw [hout, vented_vent (howner.symm.trans ho), hk]
  · show ((pressureValue b p s).keg b).settle = _
    rw [hk]
    exact hsettle
  · have hc := chargeTest_some hat hlow
    have hheld := alreadyHeld_charge b (vented b p s)
    obtain ⟨-, -, -, huntaken, hserved, hqueued, hfull⟩ := hc
    rw [vented_man] at huntaken hserved hqueued hfull hheld
    rw [vented_part] at hserved hqueued hfull
    rw [vented_inCarb, vented_keg] at hserved hqueued
    rw [hheld] at huntaken hserved hqueued hfull
    have hmarked : ∀ u : State, u.keg b = markedKeg (inCarb b s) (pressedKeg p (s.keg b)) →
        (u.keg b).chargePending = if inCarb b s = true then true else k.chargePending := fun u hu => by
      rw [hu, ← hmark]
      rfl
    refine ⟨fun h => hquiet _ (huntaken h), fun h1 h2 h3 => ?_, fun h1 h2 h3 h4 => ?_, fun h1 h2 h3 h4 => hquiet _ (hfull h1 h2 h3 h4)⟩
    · obtain ⟨hman, hreg, hkeg⟩ := hserved h1 h2 h3
      exact ⟨hman, hreg, hmarked _ hkeg⟩
    · obtain ⟨hman, hkeg⟩ := hqueued h1 h2 h3 h4
      exact ⟨hman, hmarked _ hkeg⟩

end Sys2Proof.Proofs
end

section
/-! PROOFS. KEG_LOAD and KEG_SERVE: how a keg's request is answered, the record that is loaded, and the keg that serves (R48, R54, R55, R57, R59, R63). -/

namespace Sys2Proof.Proofs

open Sys2Proof.Machine Sys2Proof.Safety Sys2Proof.Claims

/-! ## How a keg's request is answered (R171) -/

theorem withBay_bayNum (b : Bay) (h : Bay → State → Answer × State) (s : State) : withBay (bayNum b) h s = h b s := by
  rw [withBay, bayOf_bayNum]
  rfl

theorem require_met {ok : Bool} {st : Status} {next : State → Answer × State} {s : State} (h : ok = true) : require ok st next s = next s := if_pos h

theorem require_unmet {ok : Bool} {st : Status} {next : State → Answer × State} {s : State} (h : ¬ ok = true) :
    require ok st next s = ({ status := st, result := .nothing }, s) := if_neg h

theorem within_iff (lo hi v : Int) : within lo hi v = true ↔ lo ≤ v ∧ v ≤ hi := decide_eq_true_iff

theorem answered_kegs (tag : Byte) (r : Request) (a : Answer) (u : State) : (respond tag r a (finish u)).kegs = u.kegs :=
  kegs_of_touches (answered_touches tag r a u) (by decide)

theorem answered_keg (tag : Byte) (r : Request) (a : Answer) (u : State) (b : Bay) : (respond tag r a (finish u)).keg b = u.keg b :=
  keg_of_kegs (answered_kegs tag r a u) b

theorem answered_sch (tag : Byte) (r : Request) (a : Answer) (u : State) : (respond tag r a (finish u)).sch = u.sch :=
  answered_touches tag r a u .sch (by decide)

theorem answered_atn (tag : Byte) (r : Request) (a : Answer) (u : State) : (respond tag r a (finish u)).atn = u.atn :=
  answered_touches tag r a u .atn (by decide)

theorem answered_out (tag : Byte) (r : Request) (a : Answer) (u : State) {o : Output} (h : Output.unshown o = true) :
    (respond tag r a (finish u)).out o = u.out o := finish_out h u

/-! ## The routed test (R48) -/

theorem fed_iff (d : Dest) (s : State) : fed d s = true ↔ Fed d s := by
  simp only [fed, Fed, allChans, List.any_eq_true, List.mem_finRange, true_and, Bool.and_eq_true, decide_eq_true_eq]

theorem tempRouted_iff (b : Bay) (m : SenseMode) (s : State) : tempRouted b m s = true ↔ TempRouted b m s := by
  cases m
  · exact fed_iff _ s
  · exact fed_iff _ s
  · exact (Bool.or_eq_true _ _).to_iff.trans (or_congr (fed_iff _ s) (fed_iff _ s))

theorem kegRouted_iff (b : Bay) (s : State) : kegRouted b s = true ↔ Routed b s :=
  (Bool.and_eq_true _ _).to_iff.trans (and_congr (tempRouted_iff b _ s) (fed_iff _ s))

/-! ## The derived control temperature (R50) -/

theorem thermoTemp_gas (b : Bay) (v : Int) (s : State) : GasWork s (thermoTemp b v s) := GasWork.of_touches (thermoTemp_alone b v s) (by decide) (by decide)

/-- R50. A new control temperature: what the keg senses, and what the ends of its pours leave of every keg. -/
theorem controlValue_gas (b : Bay) (x : ControlTemp) (s : State) : GasWork (sensesTemp b (some x) s) (controlValue b x s) := by
  rw [controlValue_eq]
  exact GasWork.branch ((thermoTemp_gas b _ _).trans (endPoursFrom_gas _ b _)) (thermoTemp_gas b _ _)

/-- R49, R50. A keg that is neither VACANT nor SCHEDULED nor SERVING, and senses no control temperature yet, comes to sense the one that its slots give. -/
theorem deliverControl_first {b : Bay} {s : State} (hv : (s.keg b).phase ≠ .vacant) (ha : (s.keg b).phase.active = none) (hn : (s.keg b).sensedTemp = none) :
    GasWork (sensesTemp b (controlTemp b s) s) (deliverControl b true s) := by
  rcases hc : controlTemp b s with _ | x
  · have hsame : sensesTemp b none s = s := modKeg_eq_self (b := b) (by rw [← hn])
    rw [hsame, deliverControl_unavailable hv hc]
    refine GasWork.branch (GasWork.refl s) ?_
    have hsame' : sensesTemp b none (told b none s) = told b none s := modKeg_eq_self (b := b) (by show { s.keg b with sensedTemp := none } = s.keg b; rw [← hn])
    rw [controlLost_eq, hsame', haltKeg_inactive]
    · exact GasWork.refl s
    · intro ph hp
      rw [show ((told b none s).keg b).phase = (s.keg b).phase from rfl] at hp
      rw [hp, active_phase] at ha
      cases ha
  · rw [deliverControl_available hv hc, if_pos rfl]
    exact controlValue_gas b x (told b (some x) s)

/-! ## KEG_LOAD (R57) -/

section
variable (tag : Byte) (b : Bay) (s : State)

theorem kegLoad_handler (v : Int) (m : Option SenseMode) : handlerOf (.kegLoad (.params { bay := bayNum b, volume := v, mode := m })) s =
    require (decide ((s.keg b).phase = .vacant)) .notAvailable
      (require (within 0 20000 v) .badValue (withNumber m fun mode s => okay (loadKeg b v.toNat mode s))) s := withBay_bayNum b _ s

end

/-- R57, Table 4-1. The keg record that KEG_LOAD leaves; and what it leaves of the other kegs. -/
theorem loadKeg_kegs (b : Bay) (v : Nat) (m : SenseMode) (s : State) :
    (loadKeg b v m s).keg b =
      { Keg.loadedWith v m (slotValue (.kegPress b) s) with sensedTemp := senseTemp m s.rte.slots[destIdx (.kegCore b)] s.rte.slots[destIdx (.kegWall b)] } ∧
    ∀ d : Bay, d ≠ b → ∃ carb, KegGas carb (s.keg d) ((loadKeg b v m s).keg d) := by
  let u := changePhase b (fun _ => Keg.loadedWith v m (slotValue (.kegPress b) s)) s
  have hu : u.keg b = Keg.loadedWith v m (slotValue (.kegPress b) s) := changePhase_keg_same _ _ _
  have hrte : u.rte = s.rte := (changePhase_shows b _ s).rte
  have hv : (u.keg b).phase ≠ .vacant := by rw [hu]; exact fun h => by cases h
  have hg : GasWork (sensesTemp b (controlTemp b u) u) (loadKeg b v m s) := deliverControl_first hv (by rw [hu]; rfl) (by rw [hu]; rfl)
  have hx : controlTemp b u = senseTemp m s.rte.slots[destIdx (.kegCore b)] s.rte.slots[destIdx (.kegWall b)] := by
    rw [controlTemp_eq hv, hu, hrte]
    rfl
  refine ⟨?_, fun d hd => ⟨inCarb d (sensesTemp b (controlTemp b u) u), ?_⟩⟩
  · have hc : inCarb b (sensesTemp b (controlTemp b u) u) = false := inCarb_empty (by rw [sensesTemp_keg, hu]; rfl)
    obtain ⟨n, c, y, hk, hn, -, hmark⟩ := hg.2 b
    rw [sensesTemp_keg, hu] at hk hn hmark
    obtain ⟨rfl, rfl⟩ := hmark hc
    rw [Nat.le_zero.1 hn, hx] at hk
    exact hk
  · have hk := hg.2 d
    rwa [show (sensesTemp b (controlTemp b u) u).keg d = s.keg d from (keg_modKeg_other hd _ u).trans (by rw [changePhase_keg, if_neg hd])] at hk

/-- Settles O33: the two refusals, and the record of Table 4-1. -/
theorem kegLoadMakesAStandbyKeg : Obligations.KegLoadMakesAStandbyKeg := by
  refine fun tag b s => ⟨fun v m hp ht => exec_refused ht (by decide) ?_, fun v m hp hbad ht => exec_refused ht (by decide) ?_, fun v m hp hv => ?_⟩
  · rw [kegLoad_handler]
    exact require_unmet (by simpa using hp)
  · rw [kegLoad_handler, require_met (decide_eq_true hp)]
    by_cases hw : within 0 20000 v = true
    · rw [require_met hw]
      have hm : m = none := by
        rw [within_iff] at hw
        exact (hbad.resolve_left (by omega)).resolve_left (by omega)
      rw [hm]
      rfl
    · exact require_unmet hw
  · refine carriedOut_beside_port (u := loadKeg b v m s) rfl rfl ?_ ?_ (by decide) ?_
    · rw [kegLoad_handler, require_met (decide_eq_true hp), require_met ((within_iff _ _ _).2 (by omega))]
      rfl
    · apply loadKeg_touches (Touches.refl _ s) (hv := hp) <;> decide
    · obtain ⟨hk, ho⟩ := loadKeg_kegs b v m s
      refine ⟨fun d hd => ?_, ?_, ?_⟩
      · obtain ⟨_, n, c, x, hd, -⟩ := ho d hd
        rw [answered_keg, hd]
        exact ⟨rfl, rfl, rfl⟩
      · rw [answered_keg, hk]
      · rw [answered_keg, hk]
        rfl

/-! ## KEG_SERVE (R59) -/

/-- R59. The keg record that enters SERVING. -/
def servingKeg (temperature pressure : Int) (k : Keg) : Keg :=
  { k with serveTemp := some temperature, servePressure := some pressure, setpoint := some temperature, ventLimit := none, phase := .serving }

theorem serveKeg_eq (b : Bay) (temperature pressure : Int) (s : State) :
    serveKeg b temperature pressure s = enterControl b (changePhase b (servingKeg temperature pressure) s) := rfl

theorem kegServe_handler (b : Bay) (temperature pressure : Int) (s : State) :
    handlerOf (.kegServe (.params { bay := bayNum b, temperature := temperature, pressure := pressure })) s =
    require (decide (((s.keg b).phase = .standby ∨ (s.keg b).phase = .spent) ∧ 0 < (s.keg b).remaining)) .notAvailable
      (require (within (-200) 2500 temperature && within 300 2500 pressure) .badValue
        (require (kegRouted b s) .badRoute fun s => okay (serveKeg b temperature pressure s))) s := withBay_bayNum b _ s

/-- A phase that a keg enters beside what it senses: it is entered as from the state before. -/
theorem changePhase_enters {b : Bay} {ph : ActivePhase} {f : Keg → Keg} {s t : State} (ht : ∀ k, (f k).sensedTemp = k.sensedTemp)
    (hp : ∀ k, (f k).sensedPressure = k.sensedPressure) (h : Enters b ph (changePhase b f s) t) : Enters b ph s t :=
  Enters.congr h (SeesAs.changePhase (ht _) (hp _)).symm rfl (flags_of_atn rfl)

theorem serveKeg_enters (b : Bay) (temperature pressure : Int) (s : State) : Enters b .serving s (serveKeg b temperature pressure s) :=
  changePhase_enters (f := servingKeg temperature pressure) (fun _ => rfl) (fun _ => rfl) (enterControl_enters (by rw [changePhase_keg_same]; rfl))

/-- Settles O34: the three refusals in order, and the keg that enters SERVING. -/
theorem kegServeMakesAServingKeg : Obligations.KegServeMakesAServingKeg := by
  intro tag b temperature pressure s r available legal
  have hlegal : (within (-200) 2500 temperature && within 300 2500 pressure) = true ↔ legal := by
    rw [Bool.and_eq_true, within_iff, within_iff, and_assoc]
  have hh : handlerOf r s = _ := kegServe_handler b temperature pressure s
  refine ⟨fun ha ht => exec_refused ht (by decide) ?_, fun ha hl ht => exec_refused ht (by decide) ?_, fun ha hl hr ht => exec_refused ht (by decide) ?_, fun ha hl hr => ?_⟩
  · rw [hh]
    exact require_unmet (by rwa [decide_eq_true_iff])
  · rw [hh, require_met (decide_eq_true ha)]
    exact require_unmet (hlegal.not.2 hl)
  · rw [hh, require_met (decide_eq_true ha), require_met (hlegal.2 hl)]
    exact require_unmet ((kegRouted_iff b s).not.2 hr)
  · refine carriedOut_beside_port (u := serveKeg b temperature pressure s) rfl rfl ?_ ?_ (by decide) ?_
    · rw [hh, require_met (decide_eq_true ha), require_met (hlegal.2 hl), require_met ((kegRouted_iff b s).2 hr)]
      rfl
    · apply serveKeg_touches (Touches.refl _ s) <;> decide
    · obtain ⟨_, _, _, _, _, _, _, _, _, _, hk, -⟩ := (enterControl_keg b (changePhase b (servingKeg temperature pressure) s)).2.1
      rw [← serveKeg_eq, changePhase_keg_same] at hk
      have henters := Enters.congr (serveKeg_enters b temperature pressure s) (SeesAs.refl b s)
        (answered_keg tag r { status := .ok, result := .nothing } _ b) (flags_of_atn (answered_atn _ _ _ _))
      refine ⟨?_, ?_, ?_, ?_, henters, fun d hd => ?_⟩
      · rw [answered_keg, hk]
        rfl
      · rw [answered_keg, hk]
        rfl
      · rw [answered_keg, hk]
        rfl
      · rw [answered_keg, hk]
        rfl
      · rw [answered_keg, serveKeg_eq, enterControl_other hd, changePhase_keg, if_neg hd]

end Sys2Proof.Proofs
end

section
/-! PROOFS. KEG_ABORT and KEG_REMOVE: the end of control, the chain that returns, the outputs that pass, and the record that is left (R61, R62, R85). -/

namespace Sys2Proof.Proofs

open Sys2Proof.Machine Sys2Proof.Safety Sys2Proof.Claims

/-! ## The chain that returns (R85) -/

section
variable (b : Bay) (s : State)

theorem leaveControl_keg : ∃ carb, KegGas carb (freedKeg (s.keg b)) ((leaveControl b s).keg b) := by
  have hg := (leaveControl_gas b s).2 b
  rw [keg_modKeg_same] at hg
  exact ⟨_, hg⟩

theorem leaveControl_sch : (leaveControl b s).sch = s.sch := (leaveControl_gas b s).1

/-- R56. What the end of control leaves of the keg: its phase, relief, chain and pressure. -/
theorem leaveControl_keeps : ((leaveControl b s).keg b).phase = (s.keg b).phase ∧ ((leaveControl b s).keg b).relief = (s.keg b).relief ∧
    ((leaveControl b s).keg b).chain = (s.keg b).chain ∧ ((leaveControl b s).keg b).sensedPressure = (s.keg b).sensedPressure := by
  obtain ⟨_, _, _, _, hk, -⟩ := leaveControl_keg b s
  obtain ⟨_, _, _, he⟩ := freed_eq (s.keg b)
  rw [hk, he]
  exact ⟨rfl, rfl, rfl, rfl⟩

theorem returnChain_keg : (returnChain b s).keg b = { s.keg b with chain := [] } := keg_modKeg_same b _ s

theorem returnChain_sch : (returnChain b s).sch = { pool := freeEntries (s.keg b).chain s.sch.pool, freeList := s.sch.freeList ++ (s.keg b).chain } := rfl

/-- A keg that leaves control and gives its chain back has returned it, whatever follows beside the pool and the chain. -/
theorem returnedTo_of_left {t : State} (hs : t.sch = (returnChain b (leaveControl b s)).sch) (hc : (t.keg b).chain = []) :
    ReturnedTo b (s.keg b).chain [] s t := by
  rw [returnChain_sch, leaveControl_sch, (leaveControl_keeps b s).2.2.1] at hs
  refine ⟨by rw [hs], hc, fun i hi => ?_⟩
  rw [hs]
  exact (freeEntries_get _ _ i).trans (if_pos hi)

end

/-! ## KEG_ABORT (R61) -/

/-- R61. The keg record of an abort. -/
def abortedKeg (k : Keg) : Keg := { k.clearTimers with phase := .standby, ventLimit := none, prior := none, haltReason := none }

section
variable (b : Bay) (s : State)

theorem abortKeg_eq : abortKeg b s = changePhase b abortedKeg (returnChain b (leaveControl b s)) := rfl

theorem abortKeg_keg : (abortKeg b s).keg b = abortedKeg { (leaveControl b s).keg b with chain := [] } := by
  rw [abortKeg_eq, changePhase_keg_same, returnChain_keg]

theorem kegAbort_handler : handlerOf (.kegAbort (.params { bay := bayNum b })) s =
    require (decide ((s.keg b).phase = .scheduled ∨ (s.keg b).phase = .serving ∨ (s.keg b).phase = .halted)) .notAvailable
      (require (decide ((s.keg b).pours = 0)) .busy fun s => okay (abortKeg b s)) s := withBay_bayNum b _ s

theorem kegRemove_handler : handlerOf (.kegRemove (.params { bay := bayNum b })) s =
    require (decide ((s.keg b).pours = 0)) .busy (fun s => okay (removeKeg b s)) s := withBay_bayNum b _ s

end

/-- R3. In RUNNING the keg of a phase that owns its bay owns the three outputs. -/
theorem owner_kegOutputs {b : Bay} {s : State} {o : Output} (ho : o ∈ kegOutputs b) (hr : s.mgp.part = .running) (hp : (s.keg b).phase.ownsBay = true) :
    owner o s = some .keg := by
  simp only [kegOutputs, List.mem_cons, List.not_mem_nil, or_false] at ho
  rcases ho with rfl | rfl | rfl
  · exact if_pos ⟨hr, hp⟩
  · exact if_pos ⟨hr, hp⟩
  · exact if_pos (.inl ⟨hr, hp⟩)

/-- R3. The keg of a phase that does not own its bay owns none of the three outputs, its relief being closed. -/
theorem owner_kegOutputs_none {b : Bay} {s : State} {o : Output} (ho : o ∈ kegOutputs b) (hp : (s.keg b).phase.ownsBay = false) (hr : (s.keg b).relief = false) :
    owner o s = none := by
  have hb : ¬ (s.running ∧ (s.keg b).phase.ownsBay = true) := fun h => Bool.eq_false_iff.1 hp h.2
  simp only [kegOutputs, List.mem_cons, List.not_mem_nil, or_false] at ho
  rcases ho with rfl | rfl | rfl
  · exact if_neg hb
  · exact if_neg hb
  · exact if_neg fun h => h.elim hb fun h => Bool.eq_false_iff.1 hr h.1

theorem kegOutputs_nodup (b : Bay) : (kegOutputs b).Nodup := by simp [kegOutputs]

/-- R3, R174. A keg that gives up its bay leaves the three outputs OFF. -/
theorem changePhase_out_off {b : Bay} {f : Keg → Keg} {s : State} {o : Output} (ho : o ∈ kegOutputs b) (hr : s.mgp.part = .running)
    (hp : (s.keg b).phase.ownsBay = true) (hf : (f (s.keg b)).phase.ownsBay = false) (hc : (f (s.keg b)).relief = false) : (changePhase b f s).out o = 0 := by
  refine (passing_out (kegOutputs_nodup b) s (s.modKeg b f) o).trans (if_pos ⟨ho, ?_⟩)
  rw [owner_kegOutputs ho hr hp, owner_kegOutputs_none ho]
  · exact Bool.false_ne_true
  · rwa [keg_modKeg_same]
  · rwa [keg_modKeg_same]

/-- R61, R174. The bay outputs of a keg that is aborted in RUNNING. -/
theorem abortKeg_out {b : Bay} {s : State} {o : Output} (ho : o ∈ kegOutputs b) (hr : s.mgp.part = .running) (hp : (s.keg b).phase.ownsBay = true)
    (hc : (s.keg b).relief = false) : (abortKeg b s).out o = 0 := by
  obtain ⟨hphase, hrelief, -, -⟩ := leaveControl_keeps b s
  have hm : (leaveControl b s).mgp.part = s.mgp.part :=
    part_of_same (leaveControl_touches (Touches.refl [.image, .chl, .man, .kegs, .taps, .free] s) (by decide) (by decide) (by decide) (by decide) (by decide) (by decide) .port (by decide))
  refine changePhase_out_off ho (hm.trans hr) ?_ rfl ?_
  · rw [returnChain_keg]
    exact hphase ▸ hp
  · rw [returnChain_keg]
    exact hrelief.trans hc

/-! ## KEG_REMOVE (R62) -/

/-- R62. The keg record of a removal. -/
def removedKeg (k : Keg) : Keg := { Keg.reset with sensedPressure := k.sensedPressure }

/-- R62. The state in which the keg's phase changes to VACANT: control, chain and relief have ended. -/
def unrelieved (b : Bay) (s : State) : State :=
  writeVent b (passing [.vent b] (·.modKeg b fun k => { k with relief := false }) (returnChain b (leaveControl b s)))

section
variable {b : Bay} {s : State}

theorem removeKeg_eq (h : (s.keg b).phase ≠ .vacant) :
    removeKeg b s = (changePhase b removedKeg (unrelieved b s)).modRte fun r => { r with lastControl := upd r.lastControl b fun _ => none } := if_neg h

theorem unrelieved_keg : (unrelieved b s).keg b = { (leaveControl b s).keg b with chain := [], relief := false } := by
  rw [unrelieved, State.keg, writeVent_kegs, passing_modKeg_kegs, upd_get, if_pos rfl]
  exact congrArg (fun k : Keg => { k with relief := false }) (returnChain_keg b _)

theorem unrelieved_sch : (unrelieved b s).sch = (returnChain b (leaveControl b s)).sch :=
  (write_shows _ _ _ _).sch.trans (passing_shows _ _ _).sch

theorem removeKeg_keg (h : (s.keg b).phase ≠ .vacant) : (removeKeg b s).keg b = { Keg.reset with sensedPressure := (s.keg b).sensedPressure } := by
  have hk : (removeKeg b s).keg b = removedKeg ((unrelieved b s).keg b) := by
    rw [removeKeg_eq h]
    exact changePhase_keg_same b _ _
  rw [hk, unrelieved_keg, removedKeg, (leaveControl_keeps b s).2.2.2]

theorem removeKeg_sch (h : (s.keg b).phase ≠ .vacant) : (removeKeg b s).sch = (returnChain b (leaveControl b s)).sch := by
  rw [removeKeg_eq h]
  exact (changePhase_sch b _ _).trans unrelieved_sch

theorem removeKeg_lastControl (h : (s.keg b).phase ≠ .vacant) : (removeKeg b s).rte.lastControl[b] = none := by
  rw [removeKeg_eq h]
  exact (upd_get _ _ _ _).trans (if_pos rfl)

end

/-- Settles O36: the refusals in order; and of both requests the chain that returns, the record, and the outputs. -/
theorem abortAndRemoveReturnTheChain : Obligations.AbortAndRemoveReturnTheChain := by
  intro tag b s abort remove abortable
  have ha : handlerOf abort s = _ := kegAbort_handler b s
  have hr : handlerOf remove s = _ := kegRemove_handler b s
  refine ⟨fun hp ht => exec_refused ht (by decide) ?_, fun hp hn ht => exec_refused ht (by decide) ?_, fun hp hn => ?_,
    fun hn ht => exec_refused ht (by decide) ?_, fun hn hv => ?_, fun hn hv => ?_⟩
  · rw [ha]
    exact require_unmet (by rwa [decide_eq_true_iff])
  · rw [ha, require_met (decide_eq_true hp)]
    exact require_unmet (by simpa using Nat.ne_of_gt hn)
  · refine carriedOut_beside_port (u := abortKeg b s) rfl rfl ?_ ?_ (by decide) ?_
    · rw [ha, require_met (decide_eq_true hp), require_met (decide_eq_true hn)]
      rfl
    · apply abortKeg_touches (Touches.refl _ s) <;> decide
    · have howns : (s.keg b).phase.ownsBay = true := by rcases hp with hp | hp | hp <;> rw [hp] <;> rfl
      have hout : ∀ o ∈ kegOutputs b, Output.unshown o = true → (s.keg b).relief = false → s.mgp.part = .running →
          (respond tag abort { status := .ok, result := .nothing } (finish (abortKeg b s))).out o = 0 :=
        fun o ho hu hc hrun => (answered_out tag abort _ _ hu).trans (abortKeg_out ho hrun howns hc)
      refine ⟨returnedTo_of_left b s ((answered_sch _ _ _ _).trans (changePhase_sch b _ _)) ?_, ?_⟩
      · rw [answered_keg, abortKeg_keg]
        rfl
      · rw [answered_keg, abortKeg_keg]
        refine ⟨rfl, rfl, rfl, rfl, leaveControl_underControl b s, rfl, fun hc hrun => ⟨hout _ ?_ rfl hc hrun, hout _ ?_ rfl hc hrun, hout _ ?_ rfl hc hrun⟩⟩
        all_goals simp [kegOutputs]
  · rw [hr]
    exact require_unmet (by simpa using Nat.ne_of_gt hn)
  · refine carriedOut_beside_port (u := s) rfl rfl ?_ (Touches.refl _ s) (by decide) (answered_kegs _ _ _ _)
    rw [hr, require_met (decide_eq_true hn)]
    exact congrArg okay (if_pos hv)
  · refine carriedOut_beside_port (u := removeKeg b s) rfl rfl ?_ ?_ (by decide) ⟨returnedTo_of_left b s ((answered_sch _ _ _ _).trans (removeKeg_sch hv)) ?_, ?_, ?_⟩
    · rw [hr, require_met (decide_eq_true hn)]
      rfl
    · apply removeKeg_touches (Touches.refl _ s) <;> decide
    · rw [answered_keg, removeKeg_keg hv]
      rfl
    · rw [answered_rte]
      exact removeKeg_lastControl hv
    · rw [answered_keg, removeKeg_keg hv]
      rfl

end Sys2Proof.Proofs
end

section
/-! PROOFS. KEG_RESUME, KEG_VOLUME and KEG_LIMITS (R65, R68, R69, R71). -/

namespace Sys2Proof.Proofs

open Sys2Proof.Machine Sys2Proof.Safety Sys2Proof.Claims

/-! ## KEG_RESUME (R65) -/

/-- R65. The keg record that is back in its prior phase. -/
def resumedKeg (k : Keg) : Keg :=
  { k with phase := (match k.prior with | some p => p.phase | none => k.phase), prior := none, haltReason := none }

/-- A keg that is not blind enters its phase beside its control and its vent alone. -/
theorem enterControl_sighted_keg {b : Bay} {ph : ActivePhase} {s : State} (h : (s.keg b).phase = ph.phase) (hb : ¬ Blind b s) :
    ∃ control counted vent buckets, (enterControl b s).keg b =
      { s.keg b with underControl := control, counted := counted, ventOpen := vent, buckets := buckets } := by
  rw [enterControl_sighted h hb]
  split
  · rw [comeUnderControl_keg, controlledKeg, ventEval_eq]
    exact ⟨_, _, _, _, rfl⟩
  · exact ⟨_, _, _, _, rfl⟩

section
variable {b : Bay} {s : State}

theorem resumeKeg_eq : resumeKeg b s = enterControl b (changePhase b resumedKeg s) := rfl

theorem kegResume_handler : handlerOf (.kegResume (.params { bay := bayNum b })) s =
    require (decide ((s.keg b).phase = .halted)) .notAvailable (fun s =>
      match unmetCondition b s with
      | some c => refuseWith .notAvailable (.unmet c) s
      | none => okay (resumeKeg b s)) s := withBay_bayNum b _ s

theorem kegResume_unmet {c : ResumeCondition} (hp : (s.keg b).phase = .halted) (hc : unmetCondition b s = some c) :
    handlerOf (.kegResume (.params { bay := bayNum b })) s = ({ status := .notAvailable, result := .unmet c }, s) := by
  rw [kegResume_handler, require_met (decide_eq_true hp), hc]
  rfl

theorem kegResume_met (hp : (s.keg b).phase = .halted) (hc : unmetCondition b s = none) :
    handlerOf (.kegResume (.params { bay := bayNum b })) s = ({ status := .ok, result := .nothing }, resumeKeg b s) := by
  rw [kegResume_handler, require_met (decide_eq_true hp), hc]
  rfl

theorem unmetCondition_node (h : (s.node (bayNode b)).state ≠ .online) : unmetCondition b s = some .node := if_pos h

theorem unmetCondition_temperature (h : (s.node (bayNode b)).state = .online) (ht : (s.keg b).sensedTemp = none) :
    unmetCondition b s = some .controlTemperature := by
  rw [unmetCondition, if_neg (not_not_intro h), ht]
  rfl

theorem unmetCondition_pressure (h : (s.node (bayNode b)).state = .online) (ht : (s.keg b).sensedTemp ≠ none) (hp : (s.keg b).sensedPressure = none) :
    unmetCondition b s = some .pressure := by
  rw [unmetCondition, if_neg (not_not_intro h), if_neg (mt Option.isNone_iff_eq_none.1 ht), hp]
  rfl

theorem unmetCondition_none (h : (s.node (bayNode b)).state = .online) (ht : (s.keg b).sensedTemp ≠ none) (hp : (s.keg b).sensedPressure ≠ none) :
    unmetCondition b s = none := by
  rw [unmetCondition, if_neg (not_not_intro h), if_neg (mt Option.isNone_iff_eq_none.1 ht), if_neg (mt Option.isNone_iff_eq_none.1 hp)]

theorem not_blind (h : (s.node (bayNode b)).state = .online) (ht : (s.keg b).sensedTemp ≠ none) (hp : (s.keg b).sensedPressure ≠ none) : ¬ Blind b s := by
  rintro (hn | hn | hn)
  · rw [h] at hn
    cases hn
  · exact ht hn
  · exact hp hn

/-- R65. What KEG_RESUME makes of a keg that can see. -/
theorem resumeKeg_sighted {ph : ActivePhase} (hb : ¬ Blind b s) (hp : (s.keg b).prior = some ph) :
    (∃ control counted vent buckets, (resumeKeg b s).keg b = { s.keg b with
      phase := ph.phase, prior := none, haltReason := none, underControl := control, counted := counted, ventOpen := vent, buckets := buckets }) ∧
    (s.mgp.part = .running → ((resumeKeg b s).keg b).underControl = true) := by
  have hk : (changePhase b resumedKeg s).keg b = { s.keg b with phase := ph.phase, prior := none, haltReason := none } := by
    rw [changePhase_keg_same, resumedKeg, hp]
  have hphase : ((changePhase b resumedKeg s).keg b).phase = ph.phase := by rw [hk]
  have hb' : ¬ Blind b (changePhase b resumedKeg s) := (Blind.congr (SeesAs.changePhase rfl rfl)).not.2 hb
  obtain ⟨control, counted, vent, buckets, he⟩ := enterControl_sighted_keg hphase hb'
  refine ⟨⟨control, counted, vent, buckets, ?_⟩, fun hr => ((enterControl_enters hphase).2 hb').2 ?_⟩
  · rw [resumeKeg_eq, he, hk]
  · rwa [changePhase_mgp]

end

/-! ## KEG_VOLUME (R68) -/

theorem kegVolume_handler (b : Bay) (v : Int) (s : State) : handlerOf (.kegVolume (.params { bay := bayNum b, volume := v })) s =
    require (decide ((s.keg b).phase ≠ .vacant)) .notAvailable
      (require (within 0 20000 v) .badValue
        (require (decide ((s.keg b).pours = 0)) .busy fun s =>
          okay (s.modKeg b fun k => { k with loaded := v.toNat, remaining := v.toNat }))) s := withBay_bayNum b _ s

theorem volume_touches (b : Bay) (v : Nat) (s : State) : Touches [.kegs, .volumes] s (s.modKeg b fun k => { k with loaded := v, remaining := v }) :=
  modKeg_touches (Touches.refl _ s) (by decide) (.inr fun _ => rfl) (.inr fun _ => rfl) (.inl (by decide)) (.inr fun _ => ⟨rfl, .inl⟩)
    (.inr fun k hk => by unfold KegOk at *; simp_all)

/-! ## KEG_LIMITS (R69, R71) -/

theorem KegGas.entered {carb : Bool} {k k' : Keg} (h : KegGas carb k k') : KegEntered carb k k' := by
  obtain ⟨_, _, _, hk, -, hx, hc⟩ := h
  exact ⟨_, _, _, _, _, _, _, _, _, _, hk, hx, hc⟩

theorem phase_ne_of_inactive {p : Phase} (h : p.active = none) (ph : ActivePhase) : p ≠ ph.phase := by
  rintro rfl
  rw [active_phase] at h
  cases h

/-- R64. What a halt leaves of the keg, and its phase that is not VACANT. -/
theorem haltKeg_keg (b : Bay) (reason : HaltReason) (s : State) : ∃ carb, KegEntered carb (s.keg b) ((haltKeg b reason s).keg b) ∧
    ((s.keg b).phase ≠ .vacant → ((haltKeg b reason s).keg b).phase ≠ .vacant) := by
  rcases ha : (s.keg b).phase.active with _ | ph
  · rw [haltKeg_inactive (phase_ne_of_inactive ha)]
    exact ⟨false, KegEntered.refl _ _, id⟩
  · have h := active_eq_some ha
    have hg := (haltKeg_gas (reason := reason) h).2 b
    rw [keg_modKeg_same] at hg
    refine ⟨_, KegEntered.halted hg, fun _ => ?_⟩
    rw [(haltKeg_fallen reason h).1]
    exact fun h => by cases h

/-- R50, R63. What a fresh derivation of the control temperature leaves of the keg, in whatever phase it is. -/
theorem deliverControl_keg {b : Bay} {s : State} (hv : (s.keg b).phase ≠ .vacant) :
    ∃ x carb, KegEntered carb { s.keg b with sensedTemp := x } ((deliverControl b true s).keg b) ∧ ((deliverControl b true s).keg b).phase ≠ .vacant := by
  rcases hc : controlTemp b s with _ | x
  · rw [deliverControl_unavailable hv hc]
    split
    · exact ⟨_, false, KegEntered.refl _ _, hv⟩
    · obtain ⟨carb, hk, hp⟩ := haltKeg_keg b .sensor (sensesTemp b none (told b none s))
      rw [controlLost_eq]
      rw [sensesTemp_keg] at hk hp
      exact ⟨none, carb, hk, hp hv⟩
  · rw [deliverControl_available hv hc, if_pos rfl]
    have hg := (controlValue_gas b x (told b (some x) s)).2 b
    rw [sensesTemp_keg] at hg
    refine ⟨_, _, hg.entered, ?_⟩
    obtain ⟨_, _, _, hk, -⟩ := hg
    rw [hk]
    exact hv

/-- R69. The state in which relief is evaluated: the limits are taken, and a changed mode is derived afresh. -/
def limited (b : Bay) (band : Int) (mode : SenseMode) (maxPressure : Int) (s : State) : State :=
  if (s.keg b).mode ≠ mode then deliverControl b true (s.modKeg b fun k => { k with band := band, mode := mode, maxPressure := maxPressure })
  else s.modKeg b fun k => { k with band := band, mode := mode, maxPressure := maxPressure }

section
variable {b : Bay} {band maxP : Int} {m : SenseMode} {s : State}

theorem limitKeg_eq : limitKeg b band m maxP s = thermoBand b band (reliefEval b (limited b band m maxP s)) := by
  unfold limitKeg limited
  dsimp only
  rw [apply_ite (reliefEval b), apply_ite (reliefEval b)]
  simp only [decide_eq_true_eq]

theorem kegLimits_handler : handlerOf (.kegLimits (.params { bay := bayNum b, band := band, mode := some m, maxPressure := maxP })) s =
    require (decide ((s.keg b).phase ≠ .vacant)) .notAvailable
      (require (within 10 300 band && within 500 4000 maxP) .badValue fun s =>
        require ((s.keg b).phase.active.isNone || tempRouted b m s) .badRoute (fun s => okay (limitKeg b band m maxP s)) s) s := withBay_bayNum b _ s

theorem limited_keg (hv : (s.keg b).phase ≠ .vacant) : ((limited b band m maxP s).keg b).band = band ∧ ((limited b band m maxP s).keg b).mode = m ∧
    ((limited b band m maxP s).keg b).maxPressure = maxP ∧ ((limited b band m maxP s).keg b).relief = (s.keg b).relief ∧
    ((limited b band m maxP s).keg b).sensedPressure = (s.keg b).sensedPressure ∧ ((limited b band m maxP s).keg b).phase ≠ .vacant := by
  have hset : (s.modKeg b fun k => { k with band := band, mode := m, maxPressure := maxP }).keg b =
      { s.keg b with band := band, mode := m, maxPressure := maxP } := keg_modKeg_same b _ s
  unfold limited
  split
  · obtain ⟨x, _, ⟨_, _, _, _, _, _, _, _, _, _, hk, -⟩, hp⟩ := deliverControl_keg (b := b)
      (s := s.modKeg b fun k => { k with band := band, mode := m, maxPressure := maxP }) (by rw [hset]; exact hv)
    rw [hset] at hk
    rw [hk] at hp ⊢
    exact ⟨rfl, rfl, rfl, rfl, rfl, hp⟩
  · rw [hset]
    exact ⟨rfl, rfl, rfl, rfl, rfl, hv⟩

end

section
variable {b : Bay} {s : State}

/-- R71. Relief that opens: the keg, the vent and the flag. -/
theorem reliefEval_opened {p : Int} (h : (s.keg b).sensedPressure = some p) (hv : (s.keg b).phase ≠ .vacant) (hr : (s.keg b).relief = false)
    (hp : (s.keg b).maxPressure < p) :
    ((reliefEval b s).keg b).relief = true ∧ (reliefEval b s).out (.vent b) = 1 ∧ Raised .overpressure (bayNum b) (reliefEval b s) := by
  rw [reliefEval_opens h hv hr hp]
  have hk : (raise .overpressure (some (bayNum b)) (passing [.vent b] (·.modKeg b (withRelief true)) s)).keg b = withRelief true (s.keg b) := by
    rw [State.keg, raise_kegs, passing_modKeg_kegs, upd_get, if_pos rfl]
  refine ⟨?_, ?_, raised_kept (raise_raised _ _ _) (writeVent_touches (Touches.refl [.image] _) (by decide) .flags (by decide))⟩
  · rw [keg_of_kegs (writeVent_kegs b _), hk]
    rfl
  · rw [writeVent_out, hk, if_pos (.inl rfl)]
    refine if_pos (.inr ?_)
    rw [hk]
    exact ⟨rfl, hv⟩

/-- R71. Relief follows the pressure; with none it stays as it is. -/
theorem reliefEval_keg (b : Bay) (s : State) : (reliefEval b s).keg b =
    withRelief (match (s.keg b).sensedPressure with | some p => reliefAt p (s.keg b) | none => (s.keg b).relief) (s.keg b) := by
  rcases h : (s.keg b).sensedPressure with _ | p
  · rw [reliefEval, h]
    rfl
  · rw [State.keg, reliefEval_kegs h, upd_get, if_pos rfl]

end

theorem thermoBand_alone (b : Bay) (band : Int) (s : State) : Touches [.chl] s (thermoBand b band s) := thermoBand_touches (Touches.refl _ s) (by decide)

theorem out_of_image {s t : State} (h : Same .image s t) (o : Output) : t.out o = s.out o := by rw [State.out, (show t.blc.outs = _ ∧ _ from h).1]

/-- The keg after KEG_LIMITS, and what the answer shows of the vent and of the flags. -/
theorem limitKeg_answered (tag : Byte) (r : Request) (a : Answer) (b : Bay) (band maxP : Int) (m : SenseMode) (s : State) :
    (respond tag r a (finish (limitKeg b band m maxP s))).keg b = (reliefEval b (limited b band m maxP s)).keg b ∧
    (respond tag r a (finish (limitKeg b band m maxP s))).out (.vent b) = (reliefEval b (limited b band m maxP s)).out (.vent b) ∧
    (respond tag r a (finish (limitKeg b band m maxP s))).atn = (reliefEval b (limited b band m maxP s)).atn := by
  have ht := thermoBand_alone b band (reliefEval b (limited b band m maxP s))
  rw [← limitKeg_eq] at ht
  exact ⟨(answered_keg _ _ _ _ b).trans (keg_of_kegs (kegs_of_touches ht (by decide)) b), (answered_out _ _ _ _ rfl).trans (out_of_image (ht .image (by decide)) _),
    (answered_atn _ _ _ _).trans (ht .atn (by decide))⟩

/-- R69, R71. KEG_LIMITS that is carried out. -/
theorem limitKeg_carriedOut (tag : Byte) {b : Bay} {band maxP : Int} {m : SenseMode} {s : State} (hv : (s.keg b).phase ≠ .vacant)
    (hlegal : (within 10 300 band && within 500 4000 maxP) = true) (hrouted : ((s.keg b).phase.active.isNone || tempRouted b m s) = true) :
    CarriedOut tag (.kegLimits (.params { bay := bayNum b, band := band, mode := some m, maxPressure := maxP })) 19 .nothing id (kegParts ++ [.drawn]) s fun t =>
      (t.keg b).band = band ∧ (t.keg b).mode = m ∧ (t.keg b).maxPressure = maxP ∧
      (∀ p, (s.keg b).sensedPressure = some p → (s.keg b).relief = false → maxP < p →
        (t.keg b).relief = true ∧ t.out (.vent b) = 1 ∧ Raised .overpressure (bayNum b) t) ∧
      (∀ p, (s.keg b).sensedPressure = some p → (s.keg b).relief = true → p ≤ maxP - 200 → (t.keg b).relief = false) ∧
      ((∀ p, (s.keg b).sensedPressure = some p → p ≤ maxP ∧ maxP - 200 < p) → (t.keg b).relief = (s.keg b).relief) := by
  refine carriedOut_beside_port (u := limitKeg b band m maxP s) rfl rfl ?_ ?_ (by decide) ?_
  · rw [kegLimits_handler, require_met (decide_eq_true hv), require_met hlegal, require_met hrouted]
    rfl
  · apply limitKeg_touches (Touches.refl _ s) <;> decide
  · obtain ⟨hkeg, hout, hatn⟩ := limitKeg_answered tag (.kegLimits (.params { bay := bayNum b, band := band, mode := some m, maxPressure := maxP }))
      { status := .ok, result := .nothing } b band maxP m s
    obtain ⟨hband, hmode, hmax, hrelief, hpressure, hphase⟩ := limited_keg (band := band) (maxP := maxP) (m := m) hv
    unfold Raised
    rw [hkeg, hout, hatn]
    have hk := reliefEval_keg b (limited b band m maxP s)
    rw [hpressure] at hk
    refine ⟨by rw [hk]; exact hband, by rw [hk]; exact hmode, by rw [hk]; exact hmax, fun p hp hr hlt => ?_, fun p hp hr hle => ?_, fun hkeep => ?_⟩
    · exact reliefEval_opened (hpressure.trans hp) hphase (hrelief.trans hr) (hmax.symm ▸ hlt)
    · rw [hk, hp]
      show reliefAt p _ = false
      rw [reliefAt, if_neg hphase, hmax, if_neg (by omega), if_pos hle]
    · rw [hk]
      rcases hp : (s.keg b).sensedPressure with _ | p
      · exact hrelief
      · obtain ⟨hle, hlt⟩ := hkeep p hp
        show reliefAt p _ = _
        rw [reliefAt, if_neg hphase, hmax, if_neg (by omega), if_neg (by omega), hrelief]

theorem active_isNone_iff (p : Phase) : p.active.isNone = true ↔ ¬ (p = .scheduled ∨ p = .serving) := by cases p <;> simp [Phase.active]

/-- Settles O37: the refusals of the three requests in order, and what each does. -/
theorem resumeVolumeAndLimits : Obligations.ResumeVolumeAndLimits := by
  refine ⟨fun tag b s => ⟨fun hp ht => exec_refused ht (by decide) ?_, fun hp hn ht => exec_refused ht (by decide) ?_, fun hp hn hst ht => exec_refused ht (by decide) ?_,
    fun hp hn hst hsp ht => exec_refused ht (by decide) ?_, fun ph hp hn hst hsp hprior => ?_⟩,
    fun tag b s => ⟨fun v hv ht => exec_refused ht (by decide) ?_, fun v hv hbad ht => exec_refused ht (by decide) ?_,
      fun v hv h0 h1 hn ht => exec_refused ht (by decide) ?_, fun v hv h1 hn => ?_, fun band maxP m => ?_⟩⟩
  · rw [kegResume_handler]
    exact require_unmet (by rwa [decide_eq_true_iff])
  · exact kegResume_unmet hp (unmetCondition_node hn)
  · exact kegResume_unmet hp (unmetCondition_temperature hn hst)
  · exact kegResume_unmet hp (unmetCondition_pressure hn hst hsp)
  · refine carriedOut_beside_port (u := resumeKeg b s) rfl rfl (kegResume_met hp (unmetCondition_none hn hst hsp)) ?_ (by decide) ?_
    · apply resumeKeg_touches (Touches.refl _ s) <;> decide
    · obtain ⟨⟨_, _, _, _, hk⟩, hu⟩ := resumeKeg_sighted (not_blind hn hst hsp) hprior
      rw [answered_keg]
      rw [hk] at hu ⊢
      exact ⟨rfl, rfl, rfl, rfl, rfl, hu⟩
  · rw [kegVolume_handler]
    exact require_unmet (by simpa using hv)
  · rw [kegVolume_handler, require_met (decide_eq_true hv)]
    refine require_unmet ?_
    rw [within_iff]
    omega
  · rw [kegVolume_handler, require_met (decide_eq_true hv), require_met ((within_iff _ _ _).2 ⟨h0, h1⟩)]
    exact require_unmet (by simpa using Nat.ne_of_gt hn)
  · refine carriedOut_beside_port (u := s.modKeg b fun k => { k with loaded := v, remaining := v }) rfl rfl ?_ ?_ (by decide) (answered_kegs _ _ _ _)
    · rw [kegVolume_handler, require_met (decide_eq_true hv), require_met ((within_iff _ _ _).2 (by omega)), require_met (decide_eq_true hn)]
      rfl
    · exact (volume_touches b v s).mono (by decide)
  · have hlegal : (within 10 300 band && within 500 4000 maxP) = true ↔ 10 ≤ band ∧ band ≤ 300 ∧ 500 ≤ maxP ∧ maxP ≤ 4000 := by
      rw [Bool.and_eq_true, within_iff, within_iff, and_assoc]
    have hrouted : ((s.keg b).phase.active.isNone || tempRouted b m s) = true ↔ ¬ ((s.keg b).phase = .scheduled ∨ (s.keg b).phase = .serving) ∨ TempRouted b m s :=
      (Bool.or_eq_true _ _).to_iff.trans (or_congr (active_isNone_iff _) (tempRouted_iff b m s))
    refine ⟨fun hv ht => exec_refused ht (by decide) ?_, fun hv hl ht => exec_refused ht (by decide) ?_, fun hv hl ha hr ht => exec_refused ht (by decide) ?_,
      fun hv hl hr => limitKeg_carriedOut tag hv (hlegal.2 hl) (hrouted.2 hr)⟩
    · rw [kegLimits_handler]
      exact require_unmet (by simpa using hv)
    · rw [kegLimits_handler, require_met (decide_eq_true hv)]
      exact require_unmet (hlegal.not.2 hl)
    · rw [kegLimits_handler, require_met (decide_eq_true hv), require_met (hlegal.2 hl)]
      exact require_unmet (hrouted.not.2 fun h => h.elim (absurd ha) hr)

end Sys2Proof.Proofs
end

section
/-! PROOFS. The entry of a chain: steps that complete at their entry, and the first that does not (R86 to R95). -/

namespace Sys2Proof.Proofs

open Sys2Proof.Machine Sys2Proof.Safety Sys2Proof.Claims

/-! ## The step that is entered (R86 to R92) -/

/-- R86. The keg record that a step which is not terminal leaves at its entry, before its phase's vent is evaluated. -/
def begunKeg (x : Step) (k : Keg) : Keg :=
  { k.clearTimers.startTimers x with setpoint := some (entrySetpoint k x), ventLimit := entryVentLimit x, ventOpen := false }

/-- What the entry of steps leaves of a keg: whatever a step's entry, and the return of its entry to the pool, do not write. -/
def KegStepped (k k' : Keg) : Prop :=
  ∃ chain setpoint elapsed ramp settle pending limit vent buckets,
    k' = { k with chain := chain, setpoint := setpoint, elapsed := elapsed, ramp := ramp, settle := settle, chargePending := pending, ventLimit := limit,
                  ventOpen := vent, buckets := buckets }

theorem KegStepped.refl (k : Keg) : KegStepped k k := ⟨_, _, _, _, _, _, _, _, _, rfl⟩

theorem KegStepped.trans {k k' k'' : Keg} (h : KegStepped k k') (g : KegStepped k' k'') : KegStepped k k'' := by
  obtain ⟨_, _, _, _, _, _, _, _, _, rfl⟩ := h
  obtain ⟨_, _, _, _, _, _, _, _, _, rfl⟩ := g
  exact ⟨_, _, _, _, _, _, _, _, _, rfl⟩

theorem KegStepped.ventEval {k k' : Keg} (h : KegStepped k k') : KegStepped k k'.ventEval := by
  rw [ventEval_eq]
  exact h.trans ⟨_, _, _, _, _, _, _, _, _, rfl⟩

theorem begunKeg_stepped (x : Step) (k : Keg) : KegStepped k (begunKeg x k) := by cases x <;> exact ⟨_, _, _, _, _, _, _, _, _, rfl⟩

theorem rampStart_eq (target : Int) (k : Keg) : rampStart target k = rampFrom k.setpoint (k.sensedTemp.map (·.value)) target := by
  unfold rampStart
  rcases k.setpoint with _ | _
  · rcases k.sensedTemp with _ | _
    · rfl
    · rfl
  · rfl

/-- R86 to R92. A step that is not terminal has begun, whatever becomes of the vent. -/
theorem begunKeg_begun {x : Step} (h : isTerminal x = false) (k : Keg) : StepBegun k.setpoint (k.sensedTemp.map (·.value)) x (begunKeg x k) := by
  cases x with
  | hold target d v | quiet target th m v | carb target p d => exact ⟨rfl, rfl, rfl, rfl, rfl⟩
  | ramp target rate v => exact ⟨rfl, congrArg some (rampStart_eq target k), rfl, rfl, rfl⟩
  | serve _ _ | endStep => cases h

theorem StepBegun.congr {sp sensed : Option Int} {x : Step} {k k' : Keg} (h : StepBegun sp sensed x k) (he : k'.elapsed = k.elapsed) (hs : k'.setpoint = k.setpoint)
    (hv : k'.ventLimit = k.ventLimit) (hr : k'.ramp = k.ramp) (ht : k'.settle = k.settle) : StepBegun sp sensed x k' := by
  unfold StepBegun at *
  rw [he, hs, hv, hr, ht]
  exact h

section
variable (b : Bay) (x : Step) (s : State)

theorem enterStep_alone : Touches [.image, .chl, .kegs] s (enterStep b x s) := enterStep_touches (Touches.refl _ s) (by decide) (by decide) (by decide)

theorem enterStep_keg : (enterStep b x s).keg b = (begunKeg x (s.keg b)).ventEval := by
  have ht : ∀ sp u, (thermoSetpoint b sp u).kegs = u.kegs := fun sp u =>
    kegs_of_touches (thermoSetpoint_touches (Touches.refl [.image, .chl] u) (by decide) (by decide)) (by decide)
  unfold enterStep
  dsimp only
  rw [State.keg, ventRestart_kegs, upd_get, if_pos rfl, ht, modKeg_kegs, upd_get, if_pos rfl]
  rfl

theorem enterStep_sch : (enterStep b x s).sch = s.sch := enterStep_alone b x s .sch (by decide)

/-- R89. A step that completes at its entry is a RAMP that starts at its target. -/
theorem completesAtEntry_iff : completesAtEntry b x (enterStep b x s) = true ↔
    ∃ target rate v, x = .ramp target rate v ∧ rampFrom (s.keg b).setpoint ((s.keg b).sensedTemp.map (·.value)) target = target := by
  cases x with
  | ramp target rate v =>
    have hsp : ((enterStep b (.ramp target rate v) s).keg b).setpoint = some (rampFrom (s.keg b).setpoint ((s.keg b).sensedTemp.map (·.value)) target) := by
      rw [enterStep_keg, ventEval_eq, ← rampStart_eq]
      rfl
    rw [completesAtEntry, decide_eq_true_iff, hsp, Option.some_inj]
    refine ⟨fun h => ⟨_, _, _, rfl, h⟩, ?_⟩
    rintro ⟨_, _, _, he, h⟩
    cases he
    exact h
  | hold _ _ _ | quiet _ _ _ _ | carb _ _ _ | serve _ _ | endStep =>
    refine ⟨fun h => (by cases h), ?_⟩
    rintro ⟨_, _, _, he, -⟩
    cases he

end

/-! ## The steps that are passed over (R93) -/

theorem passOver_ramp {sensed sp : Option Int} {target rate : Int} {v : Option Int} {rest : List Step} (h : rampFrom sp sensed target = target) :
    passOver sensed sp (.ramp target rate v :: rest) = passOver sensed (some target) rest := by
  rw [passOver, if_pos h]

/-- A step that does not complete at its entry is not passed over. -/
theorem passOver_stop {sensed sp : Option Int} {x : Step} {rest : List Step} (h : ∀ target rate v, x = .ramp target rate v → rampFrom sp sensed target ≠ target) :
    passOver sensed sp (x :: rest) = (sp, x :: rest) := by
  cases x with
  | ramp target rate v => rw [passOver, if_neg (h _ _ _ rfl)]
  | hold _ _ _ | quiet _ _ _ _ | carb _ _ _ | serve _ _ | endStep => rfl

/-- What the entry of steps leaves of the state, as far as a keg is concerned. -/
structure Stepping (b : Bay) (s t : State) : Prop where
  keg : KegStepped (s.keg b) (t.keg b)
  sees : SeesAs b s t

theorem Stepping.of_touches {b : Bay} {l : List Part} {s t : State} (h : Touches l s t) (h0 : .nodes ∉ l) (h1 : .port ∉ l)
    (hk : KegStepped (s.keg b) (t.keg b)) : Stepping b s t := by
  refine ⟨hk, SeesAs.of_touches h h0 h1 ?_ ?_⟩
  all_goals
    obtain ⟨_, _, _, _, _, _, _, _, _, hk⟩ := hk
    rw [hk]

theorem Stepping.refl (b : Bay) (s : State) : Stepping b s s := ⟨KegStepped.refl _, SeesAs.refl b s⟩

theorem Stepping.trans {b : Bay} {s t u : State} (h : Stepping b s t) (g : Stepping b t u) : Stepping b s u :=
  ⟨h.keg.trans g.keg, h.sees.trans g.sees⟩

theorem enterStep_stepping (b : Bay) (x : Step) (s : State) : Stepping b s (enterStep b x s) :=
  Stepping.of_touches (enterStep_alone b x s) (by decide) (by decide) (by rw [enterStep_keg]; exact (begunKeg_stepped x _).ventEval)

section
variable {b : Bay} {i : PoolIx} {rest : List PoolIx} {s : State}

theorem returnHead_eq (h : (s.keg b).chain = i :: rest) : returnHead b s = returnEntries b [i] rest s := by
  unfold returnHead
  rw [h]

theorem returnHead_keg (h : (s.keg b).chain = i :: rest) : (returnHead b s).keg b = { s.keg b with chain := rest } := by
  rw [returnHead_eq h]
  exact keg_modKeg_same b _ s

theorem returnHead_sch (h : (s.keg b).chain = i :: rest) :
    (returnHead b s).sch = { pool := freeEntries [i] s.sch.pool, freeList := s.sch.freeList ++ [i] } := by
  rw [returnHead_eq h]
  rfl

theorem returnHead_alone (b : Bay) (s : State) : Touches [.kegs, .chains, .sch] s (returnHead b s) :=
  returnHead_touches (Touches.refl _ s) (by decide) (by decide) (by decide)

theorem returnHead_stepping (h : (s.keg b).chain = i :: rest) : Stepping b s (returnHead b s) :=
  Stepping.of_touches (returnHead_alone b s) (by decide) (by decide) (by rw [returnHead_keg h]; exact ⟨_, _, _, _, _, _, _, _, _, rfl⟩)

end

/-- R93. The steps of the entries `done` have completed at their entry, which has left the chain `left` and the setpoint `sp`. -/
structure Passed (b : Bay) (done left : List PoolIx) (sp : Option Int) (s u : State) : Prop where
  stepping : Stepping b s u
  free : u.sch.freeList = s.sch.freeList ++ done
  pool : ∀ i : PoolIx, u.sch.pool[i] = if i ∈ done then none else s.sch.pool[i]
  chain : (u.keg b).chain = left
  setpoint : (u.keg b).setpoint = sp

theorem Passed.none {b : Bay} {chain : List PoolIx} {s : State} (h : (s.keg b).chain = chain) : Passed b [] chain (s.keg b).setpoint s s :=
  ⟨Stepping.refl b s, (List.append_nil _).symm, fun _ => (if_neg List.not_mem_nil).symm, h, rfl⟩

theorem Passed.cons {b : Bay} {i : PoolIx} {done left : List PoolIx} {sp sp' : Option Int} {chain : List PoolIx} {s u v : State}
    (h : Passed b [i] chain sp s u) (g : Passed b done left sp' u v) : Passed b (i :: done) left sp' s v := by
  refine ⟨h.stepping.trans g.stepping, ?_, fun j => ?_, g.chain, g.setpoint⟩
  · rw [g.free, h.free, List.append_assoc, List.singleton_append]
  · rw [g.pool, h.pool]
    by_cases hj : j ∈ done
    · rw [if_pos hj, if_pos (List.mem_cons_of_mem i hj)]
    · rw [if_neg hj]
      exact if_congr (by rw [List.mem_singleton, List.mem_cons, or_iff_left hj]) rfl rfl

/-- R89, R93. A RAMP that completes at its entry: its entry is back in the pool, and its target is the setpoint. -/
theorem passed_ramp {b : Bay} {i : PoolIx} {rest : List PoolIx} {target rate : Int} {v : Option Int} {s : State} (hc : (s.keg b).chain = i :: rest)
    (h : rampFrom (s.keg b).setpoint ((s.keg b).sensedTemp.map (·.value)) target = target) :
    Passed b [i] rest (some target) s (returnHead b (enterStep b (.ramp target rate v) s)) := by
  have hk : (enterStep b (.ramp target rate v) s).keg b = (begunKeg (.ramp target rate v) (s.keg b)).ventEval := enterStep_keg b _ s
  have hc' : ((enterStep b (.ramp target rate v) s).keg b).chain = i :: rest := by
    rw [hk, ventEval_eq]
    exact hc
  refine ⟨(enterStep_stepping b _ s).trans (returnHead_stepping hc'), ?_, fun j => ?_, ?_, ?_⟩
  · rw [returnHead_sch hc', enterStep_sch]
  · rw [returnHead_sch hc', enterStep_sch]
    exact freeEntries_get [i] _ j
  · rw [returnHead_keg hc']
  · rw [returnHead_keg hc', hk, ventEval_eq, ← rampStart_eq] at *
    exact congrArg some h

/-! ## The first step that is not passed over -/

/-- R86, R94, R95. The entry of a chain whose first step, if it has one, does not complete at its entry. -/
def enterFirst (b : Bay) : List (PoolIx × Step) → State → State
  | [], s => runOut b s
  | p :: _, s => if isTerminal p.2 then enterTerminal b p.2 s else enterStep b p.2 s

theorem enterFirst_terminal {b : Bay} {p : PoolIx × Step} {rest : List (PoolIx × Step)} {s : State} (h : isTerminal p.2 = true) :
    enterFirst b (p :: rest) s = enterTerminal b p.2 s := if_pos h

theorem enterFirst_step {b : Bay} {p : PoolIx × Step} {rest : List (PoolIx × Step)} {s : State} (h : ¬ isTerminal p.2 = true) :
    enterFirst b (p :: rest) s = enterStep b p.2 s := if_neg h

theorem enterChain_cons {b : Bay} {i : PoolIx} {rest : List PoolIx} {e : PoolEntry} {s : State} (h : s.sch.pool[i] = some e) :
    enterChain b (i :: rest) s = if isTerminal e.step then enterTerminal b e.step s
      else if completesAtEntry b e.step (enterStep b e.step s) then enterChain b rest (returnHead b (enterStep b e.step s)) else enterStep b e.step s := by
  rw [enterChain, h]

/-- R86, R93. The entry of a chain passes over the steps that complete at their entry, and then enters the first that does not. -/
theorem enterChain_passes {b : Bay} {l : List (PoolIx × Step)} {s : State} (hc : (s.keg b).chain = l.map (·.1))
    (hp : ∀ p ∈ l, s.sch.pool[p.1] = some { bay := b, step := p.2 }) (hn : (l.map (·.1)).Nodup) :
    ∃ done left sp u, l = done ++ left ∧
      passOver ((s.keg b).sensedTemp.map (·.value)) (s.keg b).setpoint (l.map (·.2)) = (sp, left.map (·.2)) ∧
      Passed b (done.map (·.1)) (left.map (·.1)) sp s u ∧ enterChain b (l.map (·.1)) s = enterFirst b left u := by
  induction l generalizing s with
  | nil => exact ⟨[], [], _, s, rfl, rfl, Passed.none hc, rfl⟩
  | cons p rest ih =>
    have he := enterChain_cons (b := b) (rest := rest.map (·.1)) (hp p List.mem_cons_self)
    have hstop : (∀ target rate v, p.2 = .ramp target rate v → rampFrom (s.keg b).setpoint ((s.keg b).sensedTemp.map (·.value)) target ≠ target) →
        enterChain b (p.1 :: rest.map (·.1)) s = enterFirst b (p :: rest) s →
        ∃ done left sp u, p :: rest = done ++ left ∧
          passOver ((s.keg b).sensedTemp.map (·.value)) (s.keg b).setpoint ((p :: rest).map (·.2)) = (sp, left.map (·.2)) ∧
          Passed b (done.map (·.1)) (left.map (·.1)) sp s u ∧ enterChain b ((p :: rest).map (·.1)) s = enterFirst b left u :=
      fun h hf => ⟨[], p :: rest, _, s, rfl, passOver_stop h, Passed.none hc, hf⟩
    by_cases ht : isTerminal p.2 = true
    · refine hstop (fun _ _ _ hx => ?_) (he.trans ((if_pos ht).trans (enterFirst_terminal ht).symm))
      rw [hx] at ht
      cases ht
    rw [if_neg ht] at he
    by_cases hcomp : completesAtEntry b p.2 (enterStep b p.2 s) = true
    · rw [if_pos hcomp] at he
      obtain ⟨target, rate, v, hx, hramp⟩ := (completesAtEntry_iff b p.2 s).1 hcomp
      have hpass := passed_ramp (rate := rate) (v := v) hc hramp
      rw [hx] at he
      obtain ⟨hni, hnr⟩ : p.1 ∉ rest.map (·.1) ∧ (rest.map (·.1)).Nodup := List.nodup_cons.1 hn
      have hpool : ∀ q ∈ rest, (returnHead b (enterStep b (.ramp target rate v) s)).sch.pool[q.1] = some { bay := b, step := q.2 } := fun q hq => by
        have hqi : q.1 ∉ [p.1] := fun h => hni (List.mem_singleton.1 h ▸ List.mem_map_of_mem hq)
        rw [hpass.pool, hp q (List.mem_cons_of_mem p hq)]
        exact if_neg hqi
      obtain ⟨done, left, sp, u, hl, hover, hu, henter⟩ := ih hpass.chain hpool hnr
      rw [hpass.stepping.sees.temp, hpass.setpoint] at hover
      refine ⟨p :: done, left, sp, u, by rw [hl, List.cons_append], ?_, hpass.cons hu, he.trans henter⟩
      rw [List.map_cons, hx, passOver_ramp hramp, hover]
    · rw [if_neg hcomp] at he
      exact hstop (fun target rate v hx hr => hcomp ((completesAtEntry_iff b p.2 s).2 ⟨_, _, _, hx, hr⟩)) (he.trans (enterFirst_step ht).symm)

end Sys2Proof.Proofs
end

section
/-! PROOFS. The ends of a schedule: a chain that runs out, and the terminals (R60, R94, R95); and the chain that has been entered. -/

namespace Sys2Proof.Proofs

open Sys2Proof.Machine Sys2Proof.Safety Sys2Proof.Claims

/-! ## The keg whose schedule has ended -/

/-- What the end of a schedule leaves of the keg: it has no chain, no step timer and no vent limit, and what a phase's entry does not write is kept. -/
def KegEnded (k k' : Keg) : Prop :=
  ∃ phase prior reason control counted setpoint serveTemp servePressure vent buckets pours,
    k' = { k with phase := phase, prior := prior, haltReason := reason, underControl := control, counted := counted, setpoint := setpoint,
                  serveTemp := serveTemp, servePressure := servePressure, ventLimit := none, ventOpen := vent, buckets := buckets, pours := pours,
                  chain := [], elapsed := 0, ramp := none, settle := none, chargePending := false }

/-- R94, R95. All entries `all` of the schedule are back on the free list, which was `free`, and the schedule of bay `b` is done. -/
def Gone (b : Bay) (free all : List PoolIx) (t : State) : Prop :=
  t.sch.freeList = free ++ all ∧ (∀ i ∈ all, t.sch.pool[i] = none) ∧ (t.keg b).chain = [] ∧ Raised .scheduleDone (bayNum b) t ∧
  (t.keg b).elapsed = 0 ∧ (t.keg b).ramp = none ∧ (t.keg b).settle = none ∧ (t.keg b).ventLimit = none

theorem gone_of {b : Bay} {free all : List PoolIx} {k : Keg} {t : State} (hfree : t.sch.freeList = free ++ all) (hpool : ∀ i ∈ all, t.sch.pool[i] = none)
    (hk : KegEnded k (t.keg b)) (hr : Raised .scheduleDone (bayNum b) t) : Gone b free all t := by
  obtain ⟨_, _, _, _, _, _, _, _, _, _, _, hk⟩ := hk
  refine ⟨hfree, hpool, ?_, hr, ?_, ?_, ?_, ?_⟩
  all_goals rw [hk]

/-! ## The chain runs out (R95) -/

section
variable (b : Bay) (s : State)

theorem runOut_keg : (runOut b s).keg b = { (s.keg b).clearTimers with ventLimit := none, ventOpen := false }.ventEval := by
  unfold runOut
  dsimp only
  rw [State.keg, raise_kegs, ventRestart_kegs, upd_get, if_pos rfl, modKeg_kegs, upd_get, if_pos rfl]

theorem runOut_alone : Touches [.image, .kegs, .up, .atn] s (runOut b s) := runOut_touches (Touches.refl _ s) (by decide) (by decide) (by decide) (by decide)

theorem runOut_sch : (runOut b s).sch = s.sch := runOut_alone b s .sch (by decide)

theorem runOut_stepping : Stepping b s (runOut b s) :=
  Stepping.of_touches (runOut_alone b s) (by decide) (by decide) (by
    rw [runOut_keg]
    exact KegStepped.ventEval ⟨_, _, _, _, _, _, _, _, _, rfl⟩)

theorem runOut_raised : Raised .scheduleDone (bayNum b) (runOut b s) := raise_raised _ _ _

end

/-! ## The terminals (R60, R94) -/

/-- R94. The state in which a terminal ends the schedule: the chain has returned, and the timers are cleared. -/
def unscheduled (b : Bay) (s : State) : State := (returnChain b s).modKeg b Keg.clearTimers

section
variable (b : Bay) (s : State)

theorem unscheduled_keg : (unscheduled b s).keg b = { (s.keg b).clearTimers with chain := [] } := by
  rw [unscheduled, keg_modKeg_same, returnChain_keg]
  rfl

theorem unscheduled_sch : (unscheduled b s).sch = { pool := freeEntries (s.keg b).chain s.sch.pool, freeList := s.sch.freeList ++ (s.keg b).chain } := rfl

theorem enterTerminal_serve (temperature pressure : Int) :
    enterTerminal b (.serve temperature pressure) s = raise .scheduleDone (some (bayNum b)) (reachServe b temperature pressure (unscheduled b s)) := rfl

theorem enterTerminal_end : enterTerminal b .endStep s = raise .scheduleDone (some (bayNum b)) (reachEnd b (unscheduled b s)) := rfl

theorem unscheduled_alone : Touches [.kegs, .chains, .sch] s (unscheduled b s) :=
  modKeg_touches (returnChain_touches (Touches.refl _ s) (by decide) (by decide) (by decide)) (by decide) (.inr fun _ => rfl) (.inr fun _ => rfl)
    (.inr fun _ => ⟨rfl, rfl⟩) (.inr fun _ => ⟨rfl, .inl⟩) (.inr fun _ h => h)

theorem unscheduled_sees : SeesAs b s (unscheduled b s) :=
  SeesAs.of_touches (unscheduled_alone b s) (by decide) (by decide) (by rw [unscheduled_keg]; rfl) (by rw [unscheduled_keg]; rfl)

end

section
variable (b : Bay) (temperature pressure : Int) (s : State)

/-- R60. The keg record that a SERVE terminal leaves, before its vent is evaluated. -/
def terminalKeg (k : Keg) : Keg :=
  { k with phase := .serving, serveTemp := some temperature, servePressure := some pressure, setpoint := some temperature, ventLimit := none }

/-- R60. The state in which the keg of a SERVE terminal has entered SERVING: its thermostat and its vent follow the new phase. -/
def servedTerminal : State :=
  if ((changePhase b (terminalKeg temperature pressure) s).keg b).underControl
  then ventRestart b (thermoServe b temperature (changePhase b (terminalKeg temperature pressure) s))
  else changePhase b (terminalKeg temperature pressure) s

theorem reachServe_eq : reachServe b temperature pressure s = enterControl b (servedTerminal b temperature pressure s) := rfl

theorem servedTerminal_alone : Touches [.image, .chl, .kegs, .phases, .free] s (servedTerminal b temperature pressure s) := by
  have hp : Touches [.image, .chl, .kegs, .phases, .free] s (changePhase b (terminalKeg temperature pressure) s) :=
    changePhase_touches (Touches.refl _ s) (by decide) (by decide) (.inr fun _ => rfl) (.inl (by decide)) (.inr fun _ => ⟨rfl, rfl⟩)
      (.inr fun _ => ⟨rfl, fun h => by cases h⟩) (.inr fun _ h => h)
  exact Touches.branch (fun _ => ventRestart_touches (thermoServe_touches hp (by decide) (by decide) (by decide)) (by decide) (by decide)) fun _ => hp

theorem servedTerminal_keg : ∃ vent buckets, (servedTerminal b temperature pressure s).keg b =
    { terminalKeg temperature pressure (s.keg b) with ventOpen := vent, buckets := buckets } := by
  have ht : ∀ u, (thermoServe b temperature u).kegs = u.kegs := fun u =>
    kegs_of_touches (thermoServe_touches (Touches.refl [.image, .chl, .free] u) (by decide) (by decide) (by decide)) (by decide)
  unfold servedTerminal
  split
  · rw [State.keg, ventRestart_kegs, upd_get, if_pos rfl, ht]
    rw [show (changePhase b (terminalKeg temperature pressure) s).kegs[b] = _ from changePhase_keg_same b _ s, ventEval_eq]
    exact ⟨_, _, rfl⟩
  · rw [changePhase_keg_same]
    exact ⟨_, _, rfl⟩

theorem servedTerminal_sees : SeesAs b s (servedTerminal b temperature pressure s) := by
  obtain ⟨_, _, hk⟩ := servedTerminal_keg b temperature pressure s
  exact SeesAs.of_touches (servedTerminal_alone b temperature pressure s) (by decide) (by decide) (by rw [hk]; rfl) (by rw [hk]; rfl)

theorem reachServe_enters : Enters b .serving s (reachServe b temperature pressure s) := by
  obtain ⟨_, _, hk⟩ := servedTerminal_keg b temperature pressure s
  exact Enters.congr (enterControl_enters (by rw [hk]; rfl)) (servedTerminal_sees b temperature pressure s).symm rfl (flags_of_atn rfl)

theorem reachServe_sch : (reachServe b temperature pressure s).sch = s.sch :=
  (enterControl_keg b _).1.trans (servedTerminal_alone b temperature pressure s .sch (by decide))

/-- R60, R63, R64. The keg that a SERVE terminal leaves: whatever control, the halt of a blind keg and the vent do not write is as the step has it. -/
theorem reachServe_keg (hc : (s.keg b).chain = []) : ∃ phase prior reason control counted vent buckets pours, (reachServe b temperature pressure s).keg b =
    { s.keg b with phase := phase, prior := prior, haltReason := reason, underControl := control, counted := counted, ventOpen := vent, buckets := buckets,
                   pours := pours, serveTemp := some temperature, servePressure := some pressure, setpoint := some temperature, ventLimit := none } := by
  obtain ⟨_, _, hk⟩ := servedTerminal_keg b temperature pressure s
  have hcarb : inCarb b (servedTerminal b temperature pressure s) = false := inCarb_empty (by rw [hk]; exact hc)
  obtain ⟨phase, prior, reason, control, counted, vent, buckets, pours, pending, settle, he, -, hsame⟩ := (enterControl_keg b (servedTerminal b temperature pressure s)).2.1
  obtain ⟨rfl, rfl⟩ := hsame hcarb
  rw [← reachServe_eq, hk] at he
  exact ⟨phase, prior, reason, control, counted, vent, buckets, pours, he⟩

end

section
variable (b : Bay) (s : State)

theorem reachEnd_sch : (reachEnd b s).sch = s.sch := (changePhase_sch b _ _).trans (leaveControl_sch b s)

/-- R60. The keg that an END terminal leaves. -/
theorem reachEnd_keg (hc : (s.keg b).chain = []) : ∃ counted vent pours, (reachEnd b s).keg b =
    { s.keg b with phase := .standby, ventLimit := none, underControl := false, counted := counted, ventOpen := vent, pours := pours } := by
  have hg := (leaveControl_gas b s).2 b
  have hcarb : inCarb b (s.modKeg b freedKeg) = false := by
    rw [inCarb_modKeg b b freedKeg s freed_chain]
    exact inCarb_empty hc
  have hu := leaveControl_underControl b s
  obtain ⟨pours, pending, settle, hk, -, -, hsame⟩ := hg
  obtain ⟨rfl, rfl⟩ := hsame hcarb
  obtain ⟨control, counted, vent, he⟩ := freed_eq (s.keg b)
  rw [keg_modKeg_same, he] at hk
  rw [hk] at hu
  obtain rfl : control = false := hu
  refine ⟨counted, vent, pours, ?_⟩
  rw [reachEnd, changePhase_keg_same, hk]

end

/-! ## The chain that has been entered -/

section
variable {b : Bay} {free : List PoolIx} {l done : List (PoolIx × Step)} {sp : Option Int} {stays : Prop} {s t : State}

theorem chainEntered_ranOut (h : passOver ((s.keg b).sensedTemp.map (·.value)) (s.keg b).setpoint (l.map (·.2)) = (sp, []))
    (hg : Gone b free (l.map (·.1)) t) (hsp : (t.keg b).setpoint = sp) (hs : stays) : ChainEntered b free l stays s t := by
  unfold ChainEntered
  dsimp only
  rw [h]
  exact ⟨hg, hsp, hs⟩

theorem chainEntered_serve {temperature pressure : Int} {rest : List Step}
    (h : passOver ((s.keg b).sensedTemp.map (·.value)) (s.keg b).setpoint (l.map (·.2)) = (sp, .serve temperature pressure :: rest))
    (hg : Gone b free (l.map (·.1)) t) (ht : (t.keg b).serveTemp = some temperature) (hp : (t.keg b).servePressure = some pressure)
    (hsp : (t.keg b).setpoint = some temperature) (he : Enters b .serving s t) : ChainEntered b free l stays s t := by
  unfold ChainEntered
  dsimp only
  rw [h]
  exact ⟨hg, ht, hp, hsp, he⟩

theorem chainEntered_end {rest : List Step}
    (h : passOver ((s.keg b).sensedTemp.map (·.value)) (s.keg b).setpoint (l.map (·.2)) = (sp, .endStep :: rest))
    (hg : Gone b free (l.map (·.1)) t) (hp : (t.keg b).phase = .standby) (hu : (t.keg b).underControl = false)
    (hsp : (t.keg b).setpoint = sp) : ChainEntered b free l stays s t := by
  unfold ChainEntered
  dsimp only
  rw [h]
  exact ⟨hg, hp, hu, hsp⟩

theorem chainEntered_stays {p : PoolIx × Step} {rest : List (PoolIx × Step)} (hl : l = done ++ p :: rest) (hx : isTerminal p.2 = false)
    (h : passOver ((s.keg b).sensedTemp.map (·.value)) (s.keg b).setpoint (l.map (·.2)) = (sp, p.2 :: rest.map (·.2)))
    (hfree : t.sch.freeList = free ++ done.map (·.1)) (hpool : ∀ i ∈ done.map (·.1), t.sch.pool[i] = none)
    (hchain : (t.keg b).chain = (p :: rest).map (·.1)) (hb : StepBegun sp ((s.keg b).sensedTemp.map (·.value)) p.2 (t.keg b)) (hs : stays) :
    ChainEntered b free l stays s t := by
  have hlen : l.length - (p.2 :: rest.map (·.2)).length = (done.map (·.1)).length := by
    rw [hl, List.length_append, List.length_cons, List.length_cons, List.length_map, List.length_map, Nat.add_sub_cancel]
  have hmap : l.map (·.1) = done.map (·.1) ++ (p :: rest).map (·.1) := by rw [hl, List.map_append]
  have htake : (l.map (·.1)).take (l.length - (p.2 :: rest.map (·.2)).length) = done.map (·.1) := by rw [hlen, hmap, List.take_left]
  have hdrop : (l.map (·.1)).drop (l.length - (p.2 :: rest.map (·.2)).length) = (p :: rest).map (·.1) := by rw [hlen, hmap, List.drop_left]
  unfold ChainEntered
  dsimp only
  rw [h]
  dsimp only
  rw [htake, hdrop]
  generalize p.2 = x at *
  cases x with
  | hold _ _ _ | ramp _ _ _ | quiet _ _ _ _ | carb _ _ _ => exact ⟨hfree, hpool, hchain, hb, hs⟩
  | serve _ _ | endStep => cases hx

end

end Sys2Proof.Proofs
end

section
/-! PROOFS. The entry of a chain, in the words of the statements: what `ChainEntered` says holds of it, and of what goes on from it. -/

namespace Sys2Proof.Proofs

open Sys2Proof.Machine Sys2Proof.Safety Sys2Proof.Claims

/-! ## What goes on from a chain that has been entered -/

/-- `t` goes on from `s`: the pool is as it was, the keg is as a phase's entry leaves it, and no flag has gone. -/
structure GoesOn (b : Bay) (s t : State) : Prop where
  sch : t.sch = s.sch
  keg : KegEntered (inCarb b s) (s.keg b) (t.keg b)
  flags : Same .flags s t

theorem GoesOn.of_keg {b : Bay} {s t : State} (hs : t.sch = s.sch) (hk : t.keg b = s.keg b) (hf : Same .flags s t) : GoesOn b s t :=
  ⟨hs, hk ▸ KegEntered.refl _ _, hf⟩

theorem Gone.goesOn {b : Bay} {free all : List PoolIx} {s t : State} (h : Gone b free all s) (hg : GoesOn b s t) : Gone b free all t := by
  obtain ⟨hfree, hpool, hchain, hraised, helapsed, hramp, hsettle, hlimit⟩ := h
  obtain ⟨_, _, _, _, _, _, _, _, _, settle, hk, -, hsame⟩ := hg.keg
  obtain rfl : settle = _ := (hsame (inCarb_empty hchain)).2
  refine ⟨by rw [hg.sch, hfree], by rwa [hg.sch], ?_, raised_kept hraised hg.flags, ?_, ?_, ?_, ?_⟩
  · rw [hk, hchain]
  · rw [hk, helapsed]
  · rw [hk, hramp]
  · rw [hk, hsettle]
  · rw [hk, hlimit]

/-- A keg that goes on keeps its setpoint and the values it serves at. -/
theorem GoesOn.kept {b : Bay} {s t : State} (h : GoesOn b s t) : (t.keg b).setpoint = (s.keg b).setpoint ∧ (t.keg b).serveTemp = (s.keg b).serveTemp ∧
    (t.keg b).servePressure = (s.keg b).servePressure ∧ (t.keg b).chain = (s.keg b).chain ∧ (t.keg b).activity = (s.keg b).activity := by
  obtain ⟨_, _, _, _, _, _, _, _, _, _, hk, -⟩ := h.keg
  rw [hk]
  exact ⟨rfl, rfl, rfl, rfl, rfl⟩

theorem currentStep_head {b : Bay} {i : PoolIx} {rest : List PoolIx} {x : Step} {s : State} (hc : (s.keg b).chain = i :: rest)
    (hp : s.sch.pool[i] = some { bay := b, step := x }) : currentStep b s = some x := by
  simp only [currentStep, hc, hp, Option.map_some]

/-- A step that has begun goes on: only a CARB's settle timer may go back to 0, where it stands. -/
theorem StepBegun.goesOn {b : Bay} {i : PoolIx} {rest : List PoolIx} {sp sensed : Option Int} {x : Step} {s t : State} (h : StepBegun sp sensed x (s.keg b))
    (hc : (s.keg b).chain = i :: rest) (hp : s.sch.pool[i] = some { bay := b, step := x }) (hg : GoesOn b s t) : StepBegun sp sensed x (t.keg b) := by
  obtain ⟨_, _, _, _, _, _, _, _, _, settle, hk, hzero, hsame⟩ := hg.keg
  have hsettle : settle = (s.keg b).settle := by
    cases x with
    | carb target p d =>
      obtain ⟨-, -, -, -, hs⟩ := h
      exact hzero.elim id fun h0 => h0.trans hs.symm
    | hold _ _ _ | ramp _ _ _ | quiet _ _ _ _ | serve _ _ | endStep => exact (hsame (by simp only [inCarb, currentStep_head hc hp])).2
  refine StepBegun.congr h ?_ ?_ ?_ ?_ ?_
  all_goals rw [hk]
  exact hsettle

/-! ## The first step, or the end -/

section
variable {b : Bay} {done left : List PoolIx} {sp : Option Int} {s u t : State}

/-- R94. The schedule that a terminal ends. -/
theorem Passed.gone (h : Passed b done left sp s u) {k : Keg} (hs : t.sch = (unscheduled b u).sch) (hk : KegEnded k (t.keg b))
    (hr : Raised .scheduleDone (bayNum b) t) : Gone b s.sch.freeList (done ++ left) t := by
  rw [unscheduled_sch, h.chain] at hs
  refine gone_of ?_ (fun i hi => ?_) hk hr
  · rw [hs, h.free, List.append_assoc]
  · rw [hs]
    refine (freeEntries_get _ _ i).trans ?_
    split
    · rfl
    · rename_i hn
      rw [h.pool, if_pos ((List.mem_append.1 hi).resolve_right hn)]

/-- R95. The chain that has run out. -/
theorem Passed.runOut (h : Passed b done [] sp s u) : Gone b s.sch.freeList done (runOut b u) ∧ ((runOut b u).keg b).setpoint = sp := by
  have hk := runOut_keg b u
  rw [ventEval_eq] at hk
  refine ⟨gone_of ?_ (fun i hi => ?_) (k := u.keg b) ?_ (runOut_raised b u), ?_⟩
  · rw [runOut_sch, h.free]
  · rw [runOut_sch, h.pool, if_pos hi]
  · rw [hk, Keg.clearTimers, h.chain]
    exact ⟨_, _, _, _, _, _, _, _, _, _, _, rfl⟩
  · rw [hk]
    exact h.setpoint

theorem enterTerminal_sch (b : Bay) (x : Step) (u : State) : (enterTerminal b x u).sch = (unscheduled b u).sch := by
  refine (raise_gas _ _ _).1.trans ?_
  cases x with
  | serve temperature pressure => exact reachServe_sch b _ _ _
  | endStep | hold _ _ _ | ramp _ _ _ | quiet _ _ _ _ | carb _ _ _ => exact reachEnd_sch b _

theorem enterTerminal_raised (b : Bay) (x : Step) (u : State) : Raised .scheduleDone (bayNum b) (enterTerminal b x u) := raise_raised _ _ _

/-- R60. The keg whose schedule a SERVE terminal has ended. -/
theorem enterTerminal_serve_keg (b : Bay) (temperature pressure : Int) (u : State) : KegEnded (u.keg b) ((enterTerminal b (.serve temperature pressure) u).keg b) ∧
    ((enterTerminal b (.serve temperature pressure) u).keg b).serveTemp = some temperature ∧
    ((enterTerminal b (.serve temperature pressure) u).keg b).servePressure = some pressure ∧
    ((enterTerminal b (.serve temperature pressure) u).keg b).setpoint = some temperature := by
  obtain ⟨phase, prior, reason, control, counted, vent, buckets, pours, hk⟩ :=
    reachServe_keg b temperature pressure (unscheduled b u) (by rw [unscheduled_keg])
  rw [enterTerminal_serve, keg_of_kegs (raise_kegs _ _ _) b, hk, unscheduled_keg]
  exact ⟨⟨_, _, _, _, _, _, _, _, _, _, _, rfl⟩, rfl, rfl, rfl⟩

/-- R60. The keg whose schedule an END terminal has ended. -/
theorem enterTerminal_end_keg (b : Bay) (u : State) : KegEnded (u.keg b) ((enterTerminal b .endStep u).keg b) ∧
    ((enterTerminal b .endStep u).keg b).phase = .standby ∧ ((enterTerminal b .endStep u).keg b).underControl = false ∧
    ((enterTerminal b .endStep u).keg b).setpoint = (u.keg b).setpoint := by
  obtain ⟨counted, vent, pours, hk⟩ := reachEnd_keg b (unscheduled b u) (by rw [unscheduled_keg])
  rw [enterTerminal_end, keg_of_kegs (raise_kegs _ _ _) b, hk, unscheduled_keg]
  exact ⟨⟨_, _, _, _, _, _, _, _, _, _, _, rfl⟩, rfl, rfl, rfl⟩

theorem enterTerminal_ended (b : Bay) {x : Step} (hx : isTerminal x = true) (u : State) : KegEnded (u.keg b) ((enterTerminal b x u).keg b) := by
  cases x with
  | serve temperature pressure => exact (enterTerminal_serve_keg b _ _ u).1
  | endStep => exact (enterTerminal_end_keg b u).1
  | hold _ _ _ | ramp _ _ _ | quiet _ _ _ _ | carb _ _ _ => cases hx

/-- R60, R63, R94. The keg enters SERVING as from the state before. -/
theorem enterTerminal_serve_enters (b : Bay) (temperature pressure : Int) (u : State) : Enters b .serving u (enterTerminal b (.serve temperature pressure) u) :=
  Enters.congr (reachServe_enters b temperature pressure (unscheduled b u)) (unscheduled_sees b u).symm (keg_of_kegs (raise_kegs _ _ _) b)
    (raise_touches (Touches.refl [.up, .atn] _) (by decide) (by decide) .flags (by decide))

/-- R94. The schedule that a terminal has ended. -/
theorem Passed.terminal (h : Passed b done left sp s u) {x : Step} (hx : isTerminal x = true) : Gone b s.sch.freeList (done ++ left) (enterTerminal b x u) :=
  h.gone (enterTerminal_sch b x u) (enterTerminal_ended b hx u) (enterTerminal_raised b x u)

/-- R86 to R92. The step that is entered and stays. -/
theorem Passed.begins (h : Passed b done left sp s u) {x : Step} (hx : isTerminal x = false) :
    ((enterStep b x u).keg b).chain = left ∧ (enterStep b x u).sch = u.sch ∧ ((enterStep b x u).keg b).chargePending = false ∧
    StepBegun sp ((s.keg b).sensedTemp.map (·.value)) x ((enterStep b x u).keg b) := by
  have hb := begunKeg_begun hx (u.keg b)
  rw [h.setpoint, h.stepping.sees.temp] at hb
  rw [enterStep_sch, enterStep_keg, ventEval_eq]
  refine ⟨?_, rfl, ?_, StepBegun.congr hb rfl rfl rfl rfl rfl⟩
  · rw [← h.chain]
    exact (startTimers_fields _ x).1
  · cases x <;> rfl

end

/-! ## The chain that has been entered -/

section
variable {b : Bay} {l : List (PoolIx × Step)} {stays : Prop} {r s t : State}

/-- R86, R93 to R95. The chain of the keg is entered in `s`, and `t` goes on from there; `r` is a state that sees the keg as `s` does.
Of the ends, SERVE asks that the keg's entry of SERVING stands, and END that its phase stands. -/
theorem chainEntered_of_enterChain (hc : (s.keg b).chain = l.map (·.1)) (hp : ∀ p ∈ l, s.sch.pool[p.1] = some { bay := b, step := p.2 })
    (hn : (l.map (·.1)).Nodup) (hr : SeesAs b r s) (hsp : (s.keg b).setpoint = (r.keg b).setpoint) (hg : GoesOn b (enterChain b (l.map (·.1)) s) t)
    (hserve : Enters b .serving r (enterChain b (l.map (·.1)) s) → Enters b .serving r t)
    (hend : ((enterChain b (l.map (·.1)) s).keg b).phase = .standby → ((enterChain b (l.map (·.1)) s).keg b).underControl = false →
      (t.keg b).phase = .standby ∧ (t.keg b).underControl = false)
    (hstays : Stepping b s (enterChain b (l.map (·.1)) s) → ((enterChain b (l.map (·.1)) s).keg b).chargePending = false → stays) :
    ChainEntered b s.sch.freeList l stays r t := by
  obtain ⟨done, left, sp, u, hl, hover, hu, henter⟩ := enterChain_passes hc hp hn
  rw [hr.temp, hsp] at hover
  rw [henter] at hg hserve hend hstays
  have hall : l.map (·.1) = done.map (·.1) ++ left.map (·.1) := by rw [hl, List.map_append]
  obtain ⟨hsetpoint, hst, hspr, hchain, -⟩ := hg.kept
  rcases left with _ | ⟨p, rest⟩
  · obtain ⟨hgone, hsp'⟩ := hu.runOut
    refine chainEntered_ranOut hover ?_ (hsetpoint.trans hsp') (hstays (hu.stepping.trans (runOut_stepping b u)) ?_)
    · rw [hall, List.map_nil, List.append_nil]
      exact hgone.goesOn hg
    · rw [enterFirst, runOut_keg, ventEval_eq]
      rfl
  · by_cases hx : isTerminal p.2 = true
    · rw [enterFirst_terminal hx] at hg hserve hend hsetpoint hst hspr
      have hgone : Gone b s.sch.freeList (l.map (·.1)) t := hall ▸ (hu.terminal hx).goesOn hg
      rw [List.map_cons] at hover
      generalize p.2 = x at *
      cases x with
      | serve temperature pressure =>
        obtain ⟨-, ht', hp', hsp'⟩ := enterTerminal_serve_keg b temperature pressure u
        have henters := Enters.congr (enterTerminal_serve_enters b temperature pressure u) (hr.trans hu.stepping.sees).symm rfl (flags_of_atn rfl)
        exact chainEntered_serve hover hgone (hst.trans ht') (hspr.trans hp') (hsetpoint.trans hsp') (hserve henters)
      | endStep =>
        obtain ⟨-, hphase, hcontrol, hsp'⟩ := enterTerminal_end_keg b u
        obtain ⟨hphase', hcontrol'⟩ := hend hphase hcontrol
        exact chainEntered_end hover hgone hphase' hcontrol' (hsetpoint.trans (hsp'.trans hu.setpoint))
      | hold _ _ _ | ramp _ _ _ | quiet _ _ _ _ | carb _ _ _ => cases hx
    · rw [enterFirst_step hx] at hg hstays hchain
      have hx : isTerminal p.2 = false := Bool.eq_false_iff.2 hx
      obtain ⟨hchain', hsch, hpending, hbegun⟩ := hu.begins hx
      have hpool : (enterStep b p.2 u).sch.pool[p.1] = some { bay := b, step := p.2 } := by
        rw [hsch, hu.pool, if_neg, hp p (by rw [hl]; simp)]
        intro hd
        rw [hall] at hn
        exact (List.nodup_append.1 hn).2.2 _ hd _ List.mem_cons_self rfl
      refine chainEntered_stays hl hx hover ?_ (fun i hi => ?_) (hchain.trans hchain') ?_ (hstays (hu.stepping.trans (enterStep_stepping b _ u)) hpending)
      · rw [hg.sch, hsch, hu.free]
      · rw [hg.sch, hsch, hu.pool, if_pos hi]
      · rw [← hr.temp]
        exact StepBegun.goesOn hbegun hchain' hpool hg

/-- R93. The entries still in the chain are of the chain that was entered, and keep their steps. -/
theorem enterChain_pool (hc : (s.keg b).chain = l.map (·.1)) (hp : ∀ p ∈ l, s.sch.pool[p.1] = some { bay := b, step := p.2 })
    (hn : (l.map (·.1)).Nodup) {i : PoolIx} (hi : i ∈ ((enterChain b (l.map (·.1)) s).keg b).chain) :
    i ∈ l.map (·.1) ∧ (enterChain b (l.map (·.1)) s).sch.pool[i] = s.sch.pool[i] := by
  obtain ⟨done, left, sp, u, hl, -, hu, henter⟩ := enterChain_passes hc hp hn
  rw [henter] at hi ⊢
  rcases left with _ | ⟨p, rest⟩
  · obtain ⟨⟨-, -, hchain, -⟩, -⟩ := hu.runOut
    rw [enterFirst, hchain] at hi
    cases hi
  · by_cases hx : isTerminal p.2 = true
    · obtain ⟨-, -, hchain, -⟩ := hu.terminal hx
      rw [enterFirst_terminal hx, hchain] at hi
      cases hi
    · obtain ⟨hchain', hsch, -⟩ := hu.begins (Bool.eq_false_iff.2 hx)
      rw [enterFirst_step hx, hchain'] at hi
      rw [hl, List.map_append] at hn ⊢
      refine ⟨List.mem_append_right _ hi, ?_⟩
      rw [enterFirst_step hx, hsch, hu.pool]
      exact if_neg fun hd => (List.nodup_append.1 hn).2.2 _ hd _ hi rfl

/-- R80. An entry that is free stays free. -/
theorem enterChain_pool_none (hc : (s.keg b).chain = l.map (·.1)) (hp : ∀ p ∈ l, s.sch.pool[p.1] = some { bay := b, step := p.2 })
    (hn : (l.map (·.1)).Nodup) {i : PoolIx} (hi : s.sch.pool[i] = none) : (enterChain b (l.map (·.1)) s).sch.pool[i] = none := by
  obtain ⟨done, left, sp, u, -, -, hu, henter⟩ := enterChain_passes hc hp hn
  have hui : u.sch.pool[i] = none := by rw [hu.pool, hi, ite_self]
  rw [henter]
  rcases left with _ | ⟨p, rest⟩
  · rw [enterFirst, runOut_sch, hui]
  · by_cases hx : isTerminal p.2 = true
    · rw [enterFirst_terminal hx, enterTerminal_sch, unscheduled_sch]
      exact (freeEntries_get _ _ i).trans (by rw [hui, ite_self])
    · rw [enterFirst_step hx, enterStep_sch, hui]

/-- What the entry of a chain leaves of the keg: the activity timer, and what the keg senses. -/
theorem enterChain_keeps (hc : (s.keg b).chain = l.map (·.1)) (hp : ∀ p ∈ l, s.sch.pool[p.1] = some { bay := b, step := p.2 })
    (hn : (l.map (·.1)).Nodup) : ((enterChain b (l.map (·.1)) s).keg b).activity = (s.keg b).activity ∧
    ((enterChain b (l.map (·.1)) s).keg b).sensedTemp = (s.keg b).sensedTemp ∧
    ((enterChain b (l.map (·.1)) s).keg b).sensedPressure = (s.keg b).sensedPressure := by
  have hstepped : ∀ {k k' : Keg}, KegStepped k k' → k'.activity = k.activity ∧ k'.sensedTemp = k.sensedTemp ∧ k'.sensedPressure = k.sensedPressure := by
    rintro k _ ⟨_, _, _, _, _, _, _, _, _, rfl⟩
    exact ⟨rfl, rfl, rfl⟩
  have hended : ∀ {k k' : Keg}, KegEnded k k' → k'.activity = k.activity ∧ k'.sensedTemp = k.sensedTemp ∧ k'.sensedPressure = k.sensedPressure := by
    rintro k _ ⟨_, _, _, _, _, _, _, _, _, _, _, rfl⟩
    exact ⟨rfl, rfl, rfl⟩
  obtain ⟨done, left, sp, u, -, -, hu, henter⟩ := enterChain_passes hc hp hn
  obtain ⟨ha, ht, hpr⟩ := hstepped hu.stepping.keg
  rw [henter, ← ha, ← ht, ← hpr]
  rcases left with _ | ⟨p, rest⟩
  · exact hstepped (runOut_stepping b u).keg
  · by_cases hx : isTerminal p.2 = true
    · rw [enterFirst_terminal hx]
      exact hended (enterTerminal_ended b hx u)
    · rw [enterFirst_step hx]
      exact hstepped (enterStep_stepping b p.2 u).keg

theorem enterChain_alone (b : Bay) (chain : List PoolIx) (s : State) : Touches (.image :: stepParts) s (enterChain b chain s) := by
  apply enterChain_touches (Touches.refl _ s) <;> decide

theorem enterChain_sees (hc : (s.keg b).chain = l.map (·.1)) (hp : ∀ p ∈ l, s.sch.pool[p.1] = some { bay := b, step := p.2 })
    (hn : (l.map (·.1)).Nodup) : SeesAs b s (enterChain b (l.map (·.1)) s) := by
  obtain ⟨-, ht, hpr⟩ := enterChain_keeps hc hp hn
  exact SeesAs.of_touches (enterChain_alone b _ s) (by decide) (by decide) ht hpr

end

end Sys2Proof.Proofs
end

section
/-! PROOFS. The activity roll, and the step that completes by it (R75, R91, R93). -/

namespace Sys2Proof.Proofs

open Sys2Proof.Machine Sys2Proof.Safety Sys2Proof.Claims

/-! ## The chain and its steps (R80) -/

/-- The entries of a chain with the steps that the pool holds for them. -/
def stepsOf (s : State) (chain : List PoolIx) : List (PoolIx × Step) := chain.filterMap fun j => s.sch.pool[j].map fun e => (j, e.step)

theorem mem_stepsOf {s : State} {chain : List PoolIx} {p : PoolIx × Step} :
    p ∈ stepsOf s chain ↔ p.1 ∈ chain ∧ ∃ e, s.sch.pool[p.1] = some e ∧ e.step = p.2 := by
  rw [stepsOf, List.mem_filterMap]
  constructor
  · rintro ⟨j, hj, he⟩
    obtain ⟨e, hpool, rfl⟩ := Option.map_eq_some_iff.1 he
    exact ⟨hj, e, hpool, rfl⟩
  · rintro ⟨hj, e, hpool, he⟩
    exact ⟨p.1, hj, Option.map_eq_some_iff.2 ⟨e, hpool, Prod.ext rfl he⟩⟩

theorem stepsOf_entries {s : State} {chain : List PoolIx} (h : ∀ j ∈ chain, s.sch.pool[j] ≠ none) : (stepsOf s chain).map (·.1) = chain := by
  induction chain with
  | nil => rfl
  | cons j chain ih =>
    obtain ⟨e, he⟩ := Option.ne_none_iff_exists'.1 (h j List.mem_cons_self)
    have hcons : stepsOf s (j :: chain) = (j, e.step) :: stepsOf s chain := by
      rw [stepsOf, List.filterMap_cons, he]
      rfl
    rw [hcons, List.map_cons, ih fun k hk => h k (List.mem_cons_of_mem j hk)]

/-- R80. An entry of the chain of bay `b` is marked with the bay. -/
theorem pool_of_chain {b : Bay} {i : PoolIx} {s : State} (h : PoolOk s) (hi : i ∈ (s.keg b).chain) : ∃ x, s.sch.pool[i] = some { bay := b, step := x } := by
  obtain ⟨-, -, hmarked, -⟩ := h
  obtain ⟨e, he, hbay⟩ := Option.map_eq_some_iff.1 ((hmarked i b).1 hi)
  exact ⟨e.step, by rw [he, ← hbay]⟩

theorem chain_nodup {s : State} (h : PoolOk s) (b : Bay) : (s.keg b).chain.Nodup :=
  (List.nodup_flatMap.1 (List.nodup_append.1 h.1).2.1).1 b (List.mem_finRange b)

theorem freeList_nodup {s : State} (h : PoolOk s) : s.sch.freeList.Nodup := (List.nodup_append.1 h.1).1

/-! ## A step that completes (R93) -/

section
variable {b : Bay} {i : PoolIx} {rest : List PoolIx} {s u t : State}

theorem completeStep_eq (h : (u.keg b).chain = i :: rest) : completeStep b u = enterChain b rest (returnHead b u) := by
  rw [completeStep, enterHead, returnHead_keg h]

/-- R93. The current step of `u` completes, and `t` goes on from there without another change of the keg or of the pool.
`s` is a state with the same pool that sees the keg as `u` does. -/
theorem completed_of_completeStep (hok : PoolOk s) (hsch : u.sch = s.sch) (hcs : (s.keg b).chain = i :: rest) (hcu : (u.keg b).chain = i :: rest)
    (hsees : SeesAs b s u) (hsp : (u.keg b).setpoint = (s.keg b).setpoint) (hphase : (u.keg b).phase = .scheduled)
    (hcontrol : (u.keg b).underControl = (s.keg b).underControl) (hts : t.sch = (completeStep b u).sch) (htk : t.keg b = (completeStep b u).keg b)
    (htf : Same .flags (completeStep b u) t) : Completed b i rest s t ∧ (t.keg b).activity = (u.keg b).activity := by
  have hnodup := chain_nodup hok b
  rw [hcs] at hnodup
  obtain ⟨hi, hrest⟩ := List.nodup_cons.1 hnodup
  have hsome : ∀ j ∈ rest, ∃ x, s.sch.pool[j] = some { bay := b, step := x } := fun j hj => pool_of_chain hok (hcs ▸ List.mem_cons_of_mem i hj)
  have hentries : (stepsOf s rest).map (·.1) = rest := stepsOf_entries fun j hj hn => by
    obtain ⟨x, hx⟩ := hsome j hj
    rw [hx] at hn
    cases hn
  have hpool : ∀ j, (returnHead b u).sch.pool[j] = if j ∈ [i] then none else s.sch.pool[j] := fun j => by
    rw [returnHead_sch hcu, hsch]
    exact freeEntries_get [i] _ j
  have hkept : ∀ j ∈ rest, (returnHead b u).sch.pool[j] = s.sch.pool[j] := fun j hj => by
    rw [hpool]
    exact if_neg fun h => hi ((List.mem_singleton.1 h : j = i) ▸ hj)
  have hc : ((returnHead b u).keg b).chain = (stepsOf s rest).map (·.1) := by rw [returnHead_keg hcu, hentries]
  have hp : ∀ p ∈ stepsOf s rest, (returnHead b u).sch.pool[p.1] = some { bay := b, step := p.2 } := fun p hp => by
    obtain ⟨hj, e, he, hx⟩ := mem_stepsOf.1 hp
    obtain ⟨y, hy⟩ := hsome _ hj
    rw [hkept _ hj, ← hx]
    rw [hy] at he
    obtain rfl := Option.some_inj.1 he
    exact hy
  have hn : ((stepsOf s rest).map (·.1)).Nodup := hentries.symm ▸ hrest
  have hfree : (returnHead b u).sch.freeList = s.sch.freeList ++ [i] := by rw [returnHead_sch hcu, hsch]
  have hdone : completeStep b u = enterChain b ((stepsOf s rest).map (·.1)) (returnHead b u) := by rw [hentries, completeStep_eq hcu]
  rw [hdone] at hts htk htf
  refine ⟨⟨?_, fun j hj => ?_, ?_⟩, ?_⟩
  · rw [hts]
    exact enterChain_pool_none hc hp hn (by rw [hpool, if_pos (List.mem_singleton_self i)])
  · rw [htk] at hj
    obtain ⟨hj', hsame⟩ := enterChain_pool hc hp hn hj
    rw [hts, hsame, hkept j (hentries ▸ hj')]
  · rw [← hfree]
    refine chainEntered_of_enterChain (l := stepsOf s rest) hc hp hn (hsees.trans (returnHead_stepping hcu).sees) ?_ (GoesOn.of_keg hts htk htf)
      (fun h => Enters.congr h (SeesAs.refl b s) htk htf) (fun h1 h2 => htk.symm ▸ ⟨h1, h2⟩) fun hstep hpending => ?_
    · rw [returnHead_keg hcu]
      exact hsp
    · obtain ⟨_, _, _, _, _, _, _, _, _, hk⟩ := hstep.keg
      rw [htk]
      refine ⟨?_, ?_, hpending⟩
      · rw [hk, returnHead_keg hcu]
        exact hphase
      · rw [hk, returnHead_keg hcu]
        exact hcontrol
  · rw [htk, (enterChain_keeps hc hp hn).1, returnHead_keg hcu]

end

/-! ## The activity roll (R75, R91) -/

section
variable (b : Bay) (s : State)

/-- R75. The state after the roll. -/
def rolled : State := s.modKeg b fun k => { k with buckets := rollBuckets k.buckets, activity := 0 }

theorem rolled_keg : (rolled b s).keg b = { s.keg b with buckets := rollBuckets (s.keg b).buckets, activity := 0 } := keg_modKeg_same b _ s

theorem rolled_alone : Touches [.kegs] s (rolled b s) :=
  modKeg_touches (Touches.refl _ s) (by decide) (.inr fun _ => rfl) (.inr fun _ => rfl) (.inr fun _ => ⟨rfl, rfl⟩) (.inr fun _ => ⟨rfl, .inl⟩)
    (.inr fun _ h => ⟨h.1, rollBuckets_le h.2⟩)

theorem rolled_sees : SeesAs b s (rolled b s) :=
  SeesAs.of_touches (rolled_alone b s) (by decide) (by decide) (by rw [rolled_keg]) (by rw [rolled_keg])

theorem activityExpired_eq : activityExpired b s =
    if quietened b (activityTotal ((rolled b s).keg b).buckets) (rolled b s) then completeStep b (rolled b s) else rolled b s := rfl

theorem rolled_currentStep : currentStep b (rolled b s) = currentStep b s := currentStep_congr (by rw [rolled_keg]) rfl

/-- R91. The total that the roll leaves. -/
theorem rolled_total : activityTotal ((rolled b s).keg b).buckets =
    (s.keg b).buckets[1] + (s.keg b).buckets[2] + (s.keg b).buckets[3] + (s.keg b).buckets[4] + (s.keg b).buckets[5] := by
  rw [rolled_keg, activityTotal_eq]
  exact Nat.add_zero _

/-- R91. The roll completes a QUIET step that has run 60 minutes, at a total that has not passed its threshold. -/
theorem quietened_iff (n : Nat) : quietened b n s = true ↔
    ∃ target threshold m vent, currentStep b s = some (.quiet target threshold m vent) ∧ 3600 ≤ (s.keg b).elapsed ∧ (n : Int) ≤ threshold := by
  unfold quietened
  constructor
  · intro h
    split at h
    · exact ⟨_, _, _, _, ‹_›, of_decide_eq_true h⟩
    · cases h
  · rintro ⟨target, threshold, m, vent, hc, h⟩
    rw [hc]
    exact decide_eq_true h

end

/-- R75, R87. The activity timer's expiry, in a state in which it can be taken. -/
theorem exec_activity {b : Bay} {s : State} (ha : Awake s) (hu : (s.keg b).underControl = true) (hp : (s.keg b).phase = .scheduled) (hc : (s.keg b).counted = true)
    (hd : 600 ≤ (s.keg b).activity) : exec (.activityTimerExpiry b) s = .next (finish (activityExpired b s)) := by
  have hdue : activityDue b s = true := by
    rw [activityDue, expiryOpen, timersRun, hu, hp, hc]
    exact decide_eq_true hd
  exact congrArg Host.Outcome.next (live_of ha hdue)

theorem finish_alone (s : State) : Touches eventParts s (finish s) := finish_touches (Touches.refl _ s) (by decide) (by decide) (by decide)

/-- Settles O40: the roll that ends a QUIET step, and the roll that ends none. -/
theorem theActivityRollEndsAQuietStep : Obligations.TheActivityRollEndsAQuietStep := by
  intro s b ha hu hp hc hd v
  refine ⟨fun i rest threshold hsteps helapsed htotal => ⟨_, exec_activity ha hu hp hc hd, ?_⟩, fun hnot => ⟨_, exec_activity ha hu hp hc hd, ?_⟩⟩
  · obtain ⟨target, m, vent, -, -, hok, -, -, -, hchain, hpool⟩ := hsteps
    have hquiet : quietened b (activityTotal ((rolled b s).keg b).buckets) (rolled b s) = true := by
      rw [quietened_iff, rolled_currentStep, rolled_total, rolled_keg]
      exact ⟨_, _, _, _, currentStep_head hchain hpool, helapsed, htotal⟩
    have hexp : activityExpired b s = completeStep b (rolled b s) := (activityExpired_eq b s).trans (if_pos hquiet)
    have hf := finish_alone (completeStep b (rolled b s))
    have htouches : Touches (stepParts ++ eventParts) s (finish (activityExpired b s)) := by
      apply finish_touches
      · apply activityExpired_touches (Touches.refl _ s) <;> decide
      all_goals decide
    rw [hexp] at htouches ⊢
    obtain ⟨hcompleted, hactivity⟩ := completed_of_completeStep (u := rolled b s) hok rfl hchain (by rw [rolled_keg]; exact hchain) (rolled_sees b s)
      (by rw [rolled_keg]) (by rw [rolled_keg]; exact hp) (by rw [rolled_keg]) (hf .sch (by decide)) (keg_of_kegs (kegs_of_touches hf (by decide)) b)
      (hf .flags (by decide))
    exact ⟨hactivity.trans (by rw [rolled_keg]), hcompleted, htouches⟩
  · have hquiet : ¬ quietened b (activityTotal ((rolled b s).keg b).buckets) (rolled b s) = true := by
      rw [quietened_iff, rolled_currentStep, rolled_total, rolled_keg]
      rintro ⟨target, threshold, m, vent, hstep, helapsed, htotal⟩
      exact (hnot target threshold m vent hstep).elim (fun h => absurd helapsed (Nat.not_le.2 h)) fun h => absurd htotal (Int.not_le.2 h)
    have hexp : activityExpired b s = rolled b s := (activityExpired_eq b s).trans (if_neg hquiet)
    rw [hexp]
    refine ⟨?_, finish_touches ((rolled_alone b s).mono (by decide)) (by decide) (by decide) (by decide)⟩
    rw [kegs_of_touches (finish_alone _) (by decide)]
    exact congrArg State.kegs (modKeg_congr (s := s) rfl)

end Sys2Proof.Proofs
end

section
/-! PROOFS. KEG_SCHEDULE and KEG_APPEND: the steps of a request (R83, Table 5-2), their allocation, and the chain that is entered (R58, R84). -/

namespace Sys2Proof.Proofs

open Sys2Proof.Machine Sys2Proof.Safety Sys2Proof.Claims

/-! ## The steps of a request (R83, Table 5-2) -/

theorem ventLimitOk_iff (v : Option Int) : ventLimitOk v = true ↔ ∀ x, v = some x → 300 ≤ x ∧ x ≤ 3500 := by
  cases v with
  | none => exact ⟨fun _ _ h => (by cases h), fun _ => rfl⟩
  | some x =>
    refine (within_iff _ _ _).trans ⟨fun h y hy => ?_, fun h => h x rfl⟩
    obtain rfl := Option.some_inj.1 hy
    exact h

theorem stepOk_iff (maxPressure : Int) (x : Step) : stepOk maxPressure x = true ↔ StepLegal maxPressure x := by
  cases x with
  | hold _ _ v | ramp _ _ v | quiet _ _ _ v => simp only [stepOk, StepLegal, Bool.and_eq_true, within_iff, ventLimitOk_iff, and_assoc]
  | carb target pressure settle =>
    simp only [stepOk, StepLegal, Bool.and_eq_true, within_iff]
    omega
  | serve _ _ => simp only [stepOk, StepLegal, Bool.and_eq_true, within_iff, and_assoc]
  | endStep => exact ⟨fun _ => trivial, fun _ => rfl⟩

theorem terminalsLast_iff (l : List Step) : terminalsLast l = true ↔ ∀ x ∈ l.dropLast, ¬ isTerminal x = true := by
  simp only [terminalsLast, List.all_eq_true, Bool.not_eq_true', Bool.not_eq_true]

theorem stepsLegal_iff (maxPressure : Int) (l : List Step) :
    (decide (1 ≤ l.length ∧ l.length ≤ 16) && l.all (stepOk maxPressure) && terminalsLast l) = true ↔ StepsLegal maxPressure l := by
  simp only [StepsLegal, Bool.and_eq_true, decide_eq_true_eq, List.all_eq_true, stepOk_iff, terminalsLast_iff, and_assoc]

/-- All steps of a request are known when their list is that of known steps. -/
theorem mapM_id_iff {α : Type} (l : List (Option α)) (xs : List α) : l.mapM id = some xs ↔ l = xs.map some := by
  induction l generalizing xs with
  | nil =>
    rw [List.mapM_nil]
    cases xs <;> simp
  | cons o l ih =>
    rw [List.mapM_cons]
    cases o with
    | none => cases xs <;> simp
    | some x =>
      cases xs with
      | nil =>
        cases l.mapM id <;> simp
      | cons y ys =>
        rw [List.map_cons, List.cons.injEq, ← ih ys]
        cases l.mapM id <;> simp

theorem checkSteps_legal {maxPressure : Int} {steps : List Step} (h : StepsLegal maxPressure steps) : checkSteps maxPressure (steps.map some) = some steps := by
  rw [checkSteps, (mapM_id_iff _ _).2 rfl]
  exact if_pos ((stepsLegal_iff _ _).2 h)

theorem checkSteps_illegal {maxPressure : Int} {l : List (Option Step)} (h : ∀ steps, StepsLegal maxPressure steps → l ≠ steps.map some) :
    checkSteps maxPressure l = none := by
  rw [checkSteps]
  rcases hm : l.mapM id with _ | steps
  · rfl
  · exact if_neg fun hs => h steps ((stepsLegal_iff _ _).1 hs) ((mapM_id_iff _ _).1 hm)

/-! ## Allocation (R83) -/

theorem fillEntries_other {b : Bay} {l : List (PoolIx × Step)} {i : PoolIx} (h : i ∉ l.map (·.1)) (v : Vector (Option PoolEntry) 48) :
    (fillEntries b l v)[i] = v[i] := by
  induction l generalizing v with
  | nil => rfl
  | cons p l ih =>
    rw [List.map_cons, List.mem_cons, not_or] at h
    exact (ih h.2 (upd v p.1 fun _ => some { bay := b, step := p.2 })).trans ((upd_get _ _ _ _).trans (if_neg h.1))

/-- R83. The step of an entry that is allocated once. -/
theorem fillEntries_step {b : Bay} {l : List (PoolIx × Step)} {p : PoolIx × Step} (hn : (l.map (·.1)).Nodup) (hp : p ∈ l) (v : Vector (Option PoolEntry) 48) :
    (fillEntries b l v)[p.1] = some { bay := b, step := p.2 } := by
  induction l generalizing v with
  | nil => cases hp
  | cons q l ih =>
    obtain ⟨hq, hl⟩ : q.1 ∉ l.map (·.1) ∧ (l.map (·.1)).Nodup := List.nodup_cons.1 hn
    rcases List.mem_cons.1 hp with rfl | hp
    · exact (fillEntries_other hq _).trans ((upd_get _ _ _ _).trans (if_pos rfl))
    · exact ih hl hp _

section
variable {b : Bay} {steps : List Step} {s : State}

/-- R83. The entries that the steps of a request take, each with its step. -/
def taken (steps : List Step) (s : State) : List (PoolIx × Step) := (s.sch.freeList.take steps.length).zip steps

theorem taken_entries (hl : steps.length ≤ s.sch.freeList.length) : (taken steps s).map (·.1) = s.sch.freeList.take steps.length :=
  List.map_fst_zip (by rw [List.length_take, Nat.min_eq_left hl])

theorem taken_nodup (hl : steps.length ≤ s.sch.freeList.length) (hok : PoolOk s) : ((taken steps s).map (·.1)).Nodup :=
  taken_entries hl ▸ (freeList_nodup hok).take

theorem allocate_keg : (allocate b steps s).keg b = { s.keg b with chain := (s.keg b).chain ++ s.sch.freeList.take steps.length } := keg_modKeg_same b _ s

theorem allocate_kegs : (allocate b steps s).kegs = upd s.kegs b fun k => { k with chain := k.chain ++ s.sch.freeList.take steps.length } := rfl

theorem allocate_free : (allocate b steps s).sch.freeList = s.sch.freeList.drop steps.length := rfl

theorem allocate_pool (hl : steps.length ≤ s.sch.freeList.length) (hok : PoolOk s) :
    ∀ p ∈ taken steps s, (allocate b steps s).sch.pool[p.1] = some { bay := b, step := p.2 } :=
  fun _ hp => fillEntries_step (taken_nodup hl hok) hp _

theorem allocate_alone (hv : (s.keg b).phase ≠ .vacant) : Touches [.kegs, .chains, .sch] s (allocate b steps s) :=
  allocate_touches (Touches.refl _ s) (by decide) (by decide) (by decide) hv

theorem allocate_sees (hv : (s.keg b).phase ≠ .vacant) : SeesAs b s (allocate b steps s) :=
  SeesAs.of_touches (allocate_alone hv) (by decide) (by decide) (by rw [allocate_keg]) (by rw [allocate_keg])

end

/-! ## KEG_APPEND (R84) -/

section
variable {b : Bay} {steps : List Step} {s : State}

theorem appendSteps_joined (h : (s.keg b).chain ≠ []) : appendSteps b steps s = allocate b steps s :=
  if_neg (mt List.isEmpty_iff.1 h)

theorem appendSteps_entered (hl : steps.length ≤ s.sch.freeList.length) (h : (s.keg b).chain = []) :
    appendSteps b steps s = enterChain b ((taken steps s).map (·.1)) (allocate b steps s) := by
  refine (if_pos (List.isEmpty_iff.2 h)).trans ?_
  rw [enterHead, allocate_keg, h, List.nil_append, taken_entries hl]

theorem endsInTerminal_iff (b : Bay) (s : State) : endsInTerminal b s = true ↔
    ∃ i e, (s.keg b).chain.getLast? = some i ∧ s.sch.pool[i] = some e ∧ isTerminal e.step = true := by
  unfold endsInTerminal
  constructor
  · intro h
    split at h
    · split at h
      · exact ⟨_, _, ‹_›, ‹_›, h⟩
      · cases h
    · cases h
  · rintro ⟨i, e, hi, he, ht⟩
    rw [hi]
    dsimp only
    rw [he]
    exact ht

theorem kegAppend_handler (l : List (Option Step)) : handlerOf (.kegAppend (.params { bay := bayNum b, steps := l })) s =
    require (decide ((s.keg b).phase = .scheduled)) .notAvailable
      (withNumber (checkSteps (s.keg b).maxPressure l) fun steps =>
        require (!endsInTerminal b s) .badValue
          (require (decide (steps.length ≤ s.sch.freeList.length)) .noRoom fun s =>
            okayWith (.indices (allocation steps.length s)) (appendSteps b steps s))) s := withBay_bayNum b _ s

theorem kegAppend_legal (hp : (s.keg b).phase = .scheduled) (h : StepsLegal (s.keg b).maxPressure steps) :
    handlerOf (.kegAppend (.params { bay := bayNum b, steps := steps.map some })) s =
    require (!endsInTerminal b s) .badValue
      (require (decide (steps.length ≤ s.sch.freeList.length)) .noRoom fun s =>
        okayWith (.indices (allocation steps.length s)) (appendSteps b steps s)) s := by
  rw [kegAppend_handler, require_met (decide_eq_true hp), checkSteps_legal h]
  rfl

/-- R84. The keg whose empty chain is appended to: the chain is entered at its head. -/
theorem appendSteps_chainEntered {t : State} (hp : (s.keg b).phase = .scheduled) (hl : steps.length ≤ s.sch.freeList.length) (hok : PoolOk s)
    (hc : (s.keg b).chain = []) (hts : t.sch = (appendSteps b steps s).sch) (htk : t.keg b = (appendSteps b steps s).keg b)
    (htf : Same .flags (appendSteps b steps s) t) :
    ChainEntered b (s.sch.freeList.drop steps.length) (taken steps s)
      ((t.keg b).phase = .scheduled ∧ (t.keg b).underControl = (s.keg b).underControl ∧ (t.keg b).chargePending = false) s t ∧
    ∀ p ∈ taken steps s, p.1 ∈ (t.keg b).chain → t.sch.pool[p.1] = some { bay := b, step := p.2 } := by
  have hv : (s.keg b).phase ≠ .vacant := by
    rw [hp]
    exact fun h => by cases h
  have hchain : ((allocate b steps s).keg b).chain = (taken steps s).map (·.1) := by rw [allocate_keg, hc, taken_entries hl, List.nil_append]
  have hpool := allocate_pool (b := b) hl hok
  have hn := taken_nodup hl hok
  rw [appendSteps_entered hl hc] at hts htk htf
  refine ⟨?_, fun p hp' hi => ?_⟩
  · rw [← allocate_free (b := b)]
    refine chainEntered_of_enterChain hchain hpool hn (allocate_sees hv) (by rw [allocate_keg]) (GoesOn.of_keg hts htk htf)
      (fun h => Enters.congr h (SeesAs.refl b s) htk htf) (fun h1 h2 => htk.symm ▸ ⟨h1, h2⟩) fun hstep hpending => ?_
    obtain ⟨_, _, _, _, _, _, _, _, _, hk⟩ := hstep.keg
    rw [htk]
    refine ⟨?_, ?_, hpending⟩
    · rw [hk, allocate_keg]
      exact hp
    · rw [hk, allocate_keg]
  · rw [htk] at hi
    rw [hts, (enterChain_pool hchain hpool hn hi).2]
    exact hpool p hp'

end

/-! ## KEG_SCHEDULE (R58) -/

/-- R58. The keg record that becomes SCHEDULED. -/
def scheduledKeg (k : Keg) : Keg := { k with phase := .scheduled, buckets := .replicate 6 0, activity := 0 }

section
variable {b : Bay} {steps : List Step} {s : State}

/-- R58. The state in which the chain of a keg that is scheduled is entered. -/
def scheduling (b : Bay) (steps : List Step) (s : State) : State := changePhase b scheduledKeg (allocate b steps s)

theorem kegSchedule_handler (l : List (Option Step)) : handlerOf (.kegSchedule (.params { bay := bayNum b, steps := l })) s =
    require (decide ((s.keg b).phase = .standby)) .notAvailable
      (withNumber (checkSteps (s.keg b).maxPressure l) fun steps =>
        require (decide (steps.length ≤ s.sch.freeList.length)) .noRoom
          (require (kegRouted b s) .badRoute fun s =>
            okayWith (.indices (allocation steps.length s)) (scheduleKeg b steps s))) s := withBay_bayNum b _ s

theorem kegSchedule_legal (hp : (s.keg b).phase = .standby) (h : StepsLegal (s.keg b).maxPressure steps) :
    handlerOf (.kegSchedule (.params { bay := bayNum b, steps := steps.map some })) s =
    require (decide (steps.length ≤ s.sch.freeList.length)) .noRoom
      (require (kegRouted b s) .badRoute fun s => okayWith (.indices (allocation steps.length s)) (scheduleKeg b steps s)) s := by
  rw [kegSchedule_handler, require_met (decide_eq_true hp), checkSteps_legal h]
  rfl

theorem scheduling_keg (hc : (s.keg b).chain = []) :
    (scheduling b steps s).keg b = { scheduledKeg (s.keg b) with chain := s.sch.freeList.take steps.length } := by
  rw [scheduling, changePhase_keg_same, allocate_keg, hc, List.nil_append]
  rfl

theorem scheduling_sch : (scheduling b steps s).sch = (allocate b steps s).sch := changePhase_sch b _ _

theorem scheduling_sees (hv : (s.keg b).phase ≠ .vacant) : SeesAs b s (scheduling b steps s) := (allocate_sees hv).trans (SeesAs.changePhase rfl rfl)

theorem scheduleKeg_eq (hl : steps.length ≤ s.sch.freeList.length) (hc : (s.keg b).chain = []) :
    scheduleKeg b steps s = enterControl b (enterChain b ((taken steps s).map (·.1)) (scheduling b steps s)) := by
  have hchain : ((scheduling b steps s).keg b).chain = (taken steps s).map (·.1) := by rw [scheduling_keg hc, taken_entries hl]
  rw [← hchain]
  rfl

theorem enterControl_flags (b : Bay) (s : State) : Same .flags s (enterControl b s) :=
  enterControl_touches (l := [.image, .chl, .man, .kegs, .taps, .free, .phases, .up, .atn, .released]) (Touches.refl _ s) (by decide) (by decide) (by decide) (by decide)
    (by decide) (by decide) (by decide) (by decide) (by decide) (by decide) .flags (by decide)

/-- A keg that has entered a phase does not enter it again. -/
theorem enterControl_of_enters {ph : ActivePhase} {t : State} (h : Enters b ph s t) (hs : SeesAs b s t) : enterControl b t = t := by
  refine enterControl_entered fun ph' hp' => ?_
  by_cases hb : Blind b s
  · obtain ⟨hhalted, -⟩ := h.1 hb
    rw [hhalted] at hp'
    cases ph' <;> cases hp'
  · exact ⟨(Blind.congr hs).not.2 hb, fun hr => (h.2 hb).2 (hs.part.symm.trans hr)⟩

/-- R58. The keg that is scheduled: its chain is entered at its head, and the keg enters SCHEDULED. -/
theorem scheduleKeg_chainEntered {t : State} (hp : (s.keg b).phase = .standby) (hl : steps.length ≤ s.sch.freeList.length) (hok : PoolOk s)
    (hc : (s.keg b).chain = []) (hts : t.sch = (scheduleKeg b steps s).sch) (htk : t.keg b = (scheduleKeg b steps s).keg b)
    (htf : Same .flags (scheduleKeg b steps s) t) :
    ChainEntered b (s.sch.freeList.drop steps.length) (taken steps s)
      (Enters b .scheduled s t ∧ (¬ Blind b s → (t.keg b).chargePending = false)) s t ∧
    (t.keg b).activity = 0 ∧
    ∀ p ∈ taken steps s, p.1 ∈ (t.keg b).chain → t.sch.pool[p.1] = some { bay := b, step := p.2 } := by
  have hv : (s.keg b).phase ≠ .vacant := by
    rw [hp]
    exact fun h => by cases h
  have hchain : ((scheduling b steps s).keg b).chain = (taken steps s).map (·.1) := by rw [scheduling_keg hc, taken_entries hl]
  have hpool : ∀ p ∈ taken steps s, (scheduling b steps s).sch.pool[p.1] = some { bay := b, step := p.2 } := by
    rw [scheduling_sch]
    exact allocate_pool hl hok
  have hn := taken_nodup hl hok
  have hfree : (scheduling b steps s).sch.freeList = s.sch.freeList.drop steps.length := by rw [scheduling_sch, allocate_free]
  have hsees := (scheduling_sees (steps := steps) hv).trans (enterChain_sees hchain hpool hn)
  have hactivity := (enterChain_keeps hchain hpool hn).1
  have hstand := fun {i} hi => enterChain_pool (i := i) hchain hpool hn hi
  rw [scheduleKeg_eq hl hc] at hts htk htf
  rw [← hfree]
  have henter := chainEntered_of_enterChain (stays := Enters b .scheduled s t ∧ (¬ Blind b s → (t.keg b).chargePending = false)) (t := t) hchain hpool hn
    (scheduling_sees hv) (by rw [scheduling_keg hc]; rfl)
  generalize enterChain b ((taken steps s).map (·.1)) (scheduling b steps s) = e at *
  obtain ⟨hesch, hekeg, hesighted⟩ := enterControl_keg b e
  have hg : GoesOn b e t := ⟨hts.trans hesch, htk.symm ▸ hekeg, Same.trans (enterControl_flags b e) htf⟩
  obtain ⟨-, -, -, hkchain, hkactivity⟩ := hg.kept
  refine ⟨henter hg (fun h => ?_) (fun h1 h2 => ?_) fun hstep hpending => ⟨?_, fun hb => ?_⟩, ?_, fun p hp' hi => ?_⟩
  · rw [enterControl_of_enters h hsees] at htk htf
    exact Enters.congr h (SeesAs.refl b s) htk htf
  · rw [enterControl_inactive (by rw [h1]; rfl)] at htk
    rw [htk]
    exact ⟨h1, h2⟩
  · obtain ⟨_, _, _, _, _, _, _, _, _, hk⟩ := hstep.keg
    have hphase : (e.keg b).phase = ActivePhase.scheduled.phase := by
      rw [hk, scheduling_keg hc]
      rfl
    exact Enters.congr (enterControl_enters hphase) hsees.symm htk htf
  · obtain ⟨_, _, _, _, _, _, _, _, _, _, hk, -, hsame⟩ := hesighted ((Blind.congr hsees).not.2 hb)
    rw [htk, hk, (hsame rfl).1]
    exact hpending
  · rw [hkactivity, hactivity, scheduling_keg hc]
    rfl
  · rw [hkchain] at hi
    rw [hg.sch, (hstand hi).2]
    exact hpool p hp'

end

/-- Settles O35: of both requests the refusals in order, and the chain that is entered or goes on. -/
theorem scheduleAndAppend : Obligations.ScheduleAndAppend := by
  refine ⟨fun tag b s => ⟨fun l hp ht => exec_refused ht (by decide) ?_, fun l hp hbad ht => exec_refused ht (by decide) ?_,
      fun steps hp hlegal => ⟨fun hroom ht => exec_refused ht (by decide) ?_, fun hroom hr ht => exec_refused ht (by decide) ?_, fun hroom hr hok hc => ?_⟩⟩,
    fun tag b s => ⟨fun l hp ht => exec_refused ht (by decide) ?_, fun l hp hbad ht => exec_refused ht (by decide) ?_,
      fun steps hp hlegal => ⟨fun hclosed ht => exec_refused ht (by decide) ?_, fun hclosed hroom ht => exec_refused ht (by decide) ?_, fun hclosed hroom hok => ?_⟩⟩⟩
  · rw [kegSchedule_handler]
    exact require_unmet (by simpa using hp)
  · rw [kegSchedule_handler, require_met (decide_eq_true hp), checkSteps_illegal hbad]
    rfl
  · rw [kegSchedule_legal hp hlegal]
    exact require_unmet (by simpa using hroom)
  · rw [kegSchedule_legal hp hlegal, require_met (decide_eq_true hroom)]
    exact require_unmet ((kegRouted_iff b s).not.2 hr)
  · refine carriedOut_beside_port (u := scheduleKeg b steps s) rfl rfl ?_ ?_ (by decide)
      (scheduleKeg_chainEntered hp hroom hok hc (answered_sch _ _ _ _) (answered_keg _ _ _ _ b) (flags_of_atn (answered_atn _ _ _ _)))
    · rw [kegSchedule_legal hp hlegal, require_met (decide_eq_true hroom), require_met ((kegRouted_iff b s).2 hr)]
      rfl
    · apply scheduleKeg_touches (Touches.refl _ s) (hv := by rw [hp]; exact fun h => by cases h) <;> decide
  · rw [kegAppend_handler]
    exact require_unmet (by simpa using hp)
  · rw [kegAppend_handler, require_met (decide_eq_true hp), checkSteps_illegal hbad]
    rfl
  · rw [kegAppend_legal hp hlegal]
    exact require_unmet (by simpa using (endsInTerminal_iff b s).2 hclosed)
  · rw [kegAppend_legal hp hlegal, require_met (by simpa using (endsInTerminal_iff b s).not.2 hclosed)]
    exact require_unmet (by simpa using hroom)
  · refine carriedOut_beside_port (u := appendSteps b steps s) rfl rfl ?_ ?_ (by decide) ⟨fun hc => ?_, fun hc =>
      appendSteps_chainEntered hp hroom hok hc (answered_sch _ _ _ _) (answered_keg _ _ _ _ b) (flags_of_atn (answered_atn _ _ _ _))⟩
    · rw [kegAppend_legal hp hlegal, require_met (by simpa using (endsInTerminal_iff b s).not.2 hclosed), require_met (decide_eq_true hroom)]
      rfl
    · apply appendSteps_touches (Touches.refl _ s) (hv := by rw [hp]; exact fun h => by cases h) <;> decide
    · rw [answered_kegs, answered_sch, appendSteps_joined hc]
      refine ⟨allocate_kegs, allocate_free, fun k i x hi hx => ?_⟩
      exact allocate_pool (b := b) hroom hok (i, x) (List.mem_of_getElem? (List.getElem?_zip_eq_some.2 ⟨hi, hx⟩))

end Sys2Proof.Proofs
end

section
/-! PROOFS. The step pool: right after a hardware reset, and after every step (R80 to R82, R98). -/

namespace Sys2Proof.Proofs

open Sys2Proof.Machine Sys2Proof.Safety Sys2Proof.Claims

/-! ## Right after a hardware reset (R98) -/

theorem resetFrom_pool (u : State) (i : PoolIx) : (resetFrom u).sch.pool[i] = none := Vector.getElem_replicate i.isLt

theorem resetFrom_freeList (u : State) : (resetFrom u).sch.freeList = List.finRange 48 := rfl

theorem resetFrom_chain (u : State) (b : Bay) : ((resetFrom u).keg b).chain = [] := by
  rw [resetFrom_keg]
  rfl

theorem resetFrom_chainEntries (u : State) : chainEntries (resetFrom u) = [] :=
  List.flatMap_eq_nil_iff.2 fun b _ => resetFrom_chain u b

/-- Settles O6: of each keg's fields, and of each flag's, the reset value. -/
theorem hardwareResetOfTheStepPool : Obligations.HardwareResetOfTheStepPool := by
  refine fun s => ⟨resetFrom s, rfl, resetFrom_pool s, resetFrom_freeList s, fun b => ?_, fun i => ?_⟩
  · rw [resetFrom_keg]
    exact ⟨rfl, rfl, rfl, rfl, rfl⟩
  · rw [resetFrom_atn]
    rfl

/-! ## After every step (R80 to R82) -/

theorem reset_poolOk (u : State) : PoolOk (resetFrom u) := by
  refine ⟨?_, fun i => ?_, fun i b => ?_, fun b _ => resetFrom_chain u b⟩
  · rw [resetFrom_chainEntries, List.append_nil, resetFrom_freeList]
    exact List.nodup_finRange 48
  · rw [resetFrom_pool, resetFrom_freeList]
    exact iff_of_true (List.mem_finRange i) rfl
  · rw [resetFrom_pool, resetFrom_chain]
    exact iff_of_false List.not_mem_nil (fun h => by cases h)

theorem kept_poolOk : Kept PoolOk := kept_of_part (p := .poolOk) (by decide) (fun _ _ => Iff.rfl) reset_poolOk

/-- R80, R81. An entry is free or belongs to a bay, so it stands on the free list or in a chain. -/
theorem mem_free_or_chain {s : State} (h : PoolOk s) (i : PoolIx) : i ∈ s.sch.freeList ++ chainEntries s := by
  obtain ⟨-, hfree, hmarked, -⟩ := h
  rcases he : s.sch.pool[i] with _ | e
  · exact List.mem_append_left _ ((hfree i).2 he)
  · have hchain : i ∈ (s.keg e.bay).chain := (hmarked i e.bay).2 (by rw [he, Option.map_some])
    exact List.mem_append_right _ (List.mem_flatMap.2 ⟨e.bay, List.mem_finRange e.bay, hchain⟩)

/-- R80 to R82. The free list and the chains hold the 48 entries once each. -/
theorem free_and_chains_perm {s : State} (h : PoolOk s) : (s.sch.freeList ++ chainEntries s).Perm (List.finRange 48) :=
  (List.perm_ext_iff_of_nodup h.1 (List.nodup_finRange 48)).2 fun i => iff_of_true (mem_free_or_chain h i) (List.mem_finRange i)

/-- Settles O56: the pool's bookkeeping is a part that every step but a hardware reset keeps, and it holds right after a hardware reset. -/
theorem everyStepKeepsThePool : Obligations.EveryStepKeepsThePool := by
  refine ⟨kept_poolOk, fun s h => ?_⟩
  rw [← List.length_append, (free_and_chains_perm h).length_eq, List.length_finRange]

end Sys2Proof.Proofs
end

section
/-! PROOFS. The step timers: the HOLD, the QUIET and the CARB that complete by them, and the RAMP that moves (R88 to R95). -/

namespace Sys2Proof.Proofs

open Sys2Proof.Machine Sys2Proof.Safety Sys2Proof.Claims

section
variable {b : Bay} {i : PoolIx} {rest : List PoolIx} {x : Step} {s u : State}

/-! ## The expiries (R87) -/

theorem steps_currentStep (h : Steps b i rest x s) : currentStep b s = some x := by
  obtain ⟨-, -, -, -, -, -, hchain, hpool⟩ := h
  exact currentStep_head hchain hpool

theorem steps_expiryOpen (h : Steps b i rest x s) : expiryOpen b s = true := by
  obtain ⟨-, -, -, hcontrol, hphase, hcounted, -⟩ := h
  rw [expiryOpen, timersRun, hcontrol, hphase, hcounted]
  rfl

theorem exec_duration {target d : Int} {v : Option Int} (h : Steps b i rest (.hold target d v) s) (hd : d.toNat * 60 ≤ (s.keg b).elapsed) :
    exec (.stepDurationExpiry b) s = .next (finish (completeStep b s)) := by
  have hdue : durationDue b s = true := by
    rw [durationDue, steps_expiryOpen h, steps_currentStep h]
    exact decide_eq_true hd
  exact congrArg Host.Outcome.next (live_of h.1 hdue)

theorem exec_quietMaximum {target th m : Int} {v : Option Int} (h : Steps b i rest (.quiet target th m v) s) (hd : m.toNat * 60 ≤ (s.keg b).elapsed) :
    exec (.quietMaximumExpiry b) s = .next (finish (completeStep b (raise .stepLimit (some (bayNum b)) s))) := by
  have hdue : quietDue b s = true := by
    rw [quietDue, steps_expiryOpen h, steps_currentStep h]
    exact decide_eq_true hd
  exact congrArg Host.Outcome.next (live_of h.1 hdue)

theorem exec_carbSettle {target p d : Int} {c : Nat} (h : Steps b i rest (.carb target p d) s) (hs : (s.keg b).settle = some c)
    (hp : (s.keg b).chargePending = false) (hd : d.toNat * 60 ≤ c) : exec (.carbSettleExpiry b) s = .next (finish (completeStep b s)) := by
  have hdue : settleTimeDue b s = true := by
    rw [settleTimeDue, steps_expiryOpen h, steps_currentStep h, hs, hp]
    exact decide_eq_true hd
  exact congrArg Host.Outcome.next (live_of h.1 hdue)

theorem exec_rampTimer {target rate : Int} {v : Option Int} {c : Nat} (h : Steps b i rest (.ramp target rate v) s) (hr : (s.keg b).ramp = some c) (hc : 360 ≤ c) :
    exec (.rampTimerExpiry b) s = .next (finish (rampExpired b target rate s)) := by
  have hdue : rampDue b s = some (target, rate) := by
    have hlimit : timerDue c Config.rampLimit = true := decide_eq_true hc
    simp only [rampDue, steps_currentStep h, hr, steps_expiryOpen h, hlimit, Bool.and_self, if_true]
  have hexec : exec (.rampTimerExpiry b) s = execRampTimerExpiry b s := rfl
  rw [hexec, execRampTimerExpiry, hdue]
  exact congrArg Host.Outcome.next (live_of h.1 rfl)

/-! ## A step that completes (R93) -/

/-- R93. The current step completes in an event: `u`, in which it does, differs from `s` in nothing that the completion of the step looks at. -/
theorem completed_in_event (h : Steps b i rest x s) (hu : u.sch = s.sch) (hsees : SeesAs b s u) (hc : (u.keg b).chain = (s.keg b).chain)
    (hsp : (u.keg b).setpoint = (s.keg b).setpoint) (hp : (u.keg b).phase = (s.keg b).phase) (hcontrol : (u.keg b).underControl = (s.keg b).underControl) :
    Completed b i rest s (finish (completeStep b u)) := by
  obtain ⟨-, -, hok, -, hphase, -, hchain, -⟩ := h
  have hf := finish_alone (completeStep b u)
  exact (completed_of_completeStep hok hu hchain (hc.trans hchain) hsees hsp (hp.trans hphase) hcontrol (hf .sch (by decide))
    (keg_of_kegs (kegs_of_touches hf (by decide)) b) (hf .flags (by decide))).1

theorem completion_touches (h : Touches (stepParts ++ eventParts) s u) : Touches (stepParts ++ eventParts) s (finish (completeStep b u)) := by
  apply finish_touches
  · apply completeStep_touches h <;> decide
  all_goals decide

/-- R88, R92, R93. The current step completes as things stand. -/
theorem completed_at_once (h : Steps b i rest x s) : Completed b i rest s (finish (completeStep b s)) ∧ Touches (stepParts ++ eventParts) s (finish (completeStep b s)) :=
  ⟨completed_in_event h rfl (SeesAs.refl b s) rfl rfl rfl rfl, completion_touches (Touches.refl _ s)⟩

/-- R91. STEP_LIMIT is raised before the step completes. -/
theorem completed_at_limit (h : Steps b i rest x s) :
    Raised .stepLimit (bayNum b) (finish (completeStep b (raise .stepLimit (some (bayNum b)) s))) ∧
    Completed b i rest s (finish (completeStep b (raise .stepLimit (some (bayNum b)) s))) ∧
    Touches (stepParts ++ eventParts) s (finish (completeStep b (raise .stepLimit (some (bayNum b)) s))) := by
  have hr : Touches [.up, .atn] s (raise .stepLimit (some (bayNum b)) s) := raise_touches (Touches.refl _ s) (by decide) (by decide)
  have hk : (raise .stepLimit (some (bayNum b)) s).keg b = s.keg b := keg_of_kegs (kegs_of_touches hr (by decide)) b
  refine ⟨raised_kept (raise_raised .stepLimit (bayNum b) s) (completion_touches (Touches.refl _ _) .flags (by decide)), ?_, completion_touches (hr.mono (by decide))⟩
  exact completed_in_event h (hr .sch (by decide)) (SeesAs.of_touches hr (by decide) (by decide) (by rw [hk]) (by rw [hk])) (by rw [hk]) (by rw [hk]) (by rw [hk])
    (by rw [hk])

/-- R95. After the last step, the schedule that has run out leaves the setpoint as it stands. -/
theorem completed_setpoint {t : State} (h : Completed b i [] s t) : (t.keg b).setpoint = (s.keg b).setpoint := by
  obtain ⟨-, -, -, hsp, -⟩ := h
  exact hsp

end

/-! ## The ramp (R90) -/

section
variable (b : Bay) (sp : Int) (s : State)

/-- R90. The state after a ramp period: the setpoint is `sp`, and the CHL is told. -/
def moved : State := thermoSetpoint b sp (s.modKeg b fun k => { k with setpoint := some sp, ramp := some 0 })

theorem moved_kegs : (moved b sp s).kegs = upd s.kegs b fun k => { k with setpoint := some sp, ramp := some 0 } :=
  kegs_of_touches (thermoSetpoint_touches (Touches.refl [.image, .chl] _) (by decide) (by decide)) (by decide)

theorem moved_keg : (moved b sp s).keg b = { s.keg b with setpoint := some sp, ramp := some 0 } := by
  rw [State.keg, moved_kegs, upd_get, if_pos rfl]

theorem moved_alone : Touches [.kegs, .chl, .image] s (moved b sp s) := by
  refine thermoSetpoint_touches ?_ (by decide) (by decide)
  exact modKeg_touches (Touches.refl _ s) (by decide) (.inr fun _ => rfl) (.inr fun _ => rfl) (.inr fun _ => ⟨rfl, rfl⟩) (.inr fun _ => ⟨rfl, .inl⟩) (.inr fun _ h => h)

/-- R90. The state of a RAMP that has arrived, as its completion looks at it: the setpoint is the target. -/
def arrived : State := s.modKeg b fun k => { k with setpoint := some sp }

theorem arrived_keg : (arrived b sp s).keg b = { s.keg b with setpoint := some sp } := keg_modKeg_same b _ s

theorem arrived_alone : Touches [.kegs] s (arrived b sp s) :=
  modKeg_touches (Touches.refl _ s) (by decide) (.inr fun _ => rfl) (.inr fun _ => rfl) (.inr fun _ => ⟨rfl, rfl⟩) (.inr fun _ => ⟨rfl, .inl⟩) (.inr fun _ h => h)

end

section
variable {b : Bay} {i : PoolIx} {rest : List PoolIx} {target rate sp : Int} {v : Option Int} {s : State}

/-- R90. Farther from its target than its rate, a RAMP moves by its rate toward the target. -/
theorem rampExpired_moves (hsp : (s.keg b).setpoint = some sp) (h1 : 1 ≤ rate) (h : rate < target - sp ∨ rate < sp - target) :
    rampExpired b target rate s = moved b (if sp < target then sp + rate else sp - rate) s := by
  have hnext : rampNext sp target rate = if sp < target then sp + rate else sp - rate := by
    unfold rampNext
    rcases h with h | h
    · rw [if_pos h, if_pos (by omega)]
    · rw [if_neg (by omega), if_pos h, if_neg (by omega)]
  have hfar : decide (sp - target ≤ rate ∧ target - sp ≤ rate) = false := decide_eq_false (by omega)
  simp only [rampExpired, hsp, Option.getD_some, hnext, hfar]
  rfl

/-- R90. At a distance of its rate or less, a RAMP is at its target, and completes. -/
theorem rampExpired_arrives (hsp : (s.keg b).setpoint = some sp) (h1 : target - sp ≤ rate) (h2 : sp - target ≤ rate) :
    rampExpired b target rate s = completeStep b (moved b target s) := by
  have hnext : rampNext sp target rate = target := by rw [rampNext, if_neg (by omega), if_neg (by omega)]
  have hnear : decide (sp - target ≤ rate ∧ target - sp ≤ rate) = true := decide_eq_true ⟨h2, h1⟩
  simp only [rampExpired, hsp, Option.getD_some, hnext, hnear, if_true]
  rfl

theorem steps_arrived {x : Step} (h : Steps b i rest x s) : Steps b i rest x (arrived b target s) := by
  obtain ⟨ha, hr, hok, hcontrol, hphase, hcounted, hchain, hpool⟩ := h
  have hk := arrived_keg b target s
  refine ⟨ha, hr, arrived_alone b target s .poolOk (by decide) hok, ?_, ?_, ?_, ?_, hpool⟩
  all_goals rw [hk]
  · exact hcontrol
  · exact hphase
  · exact hcounted
  · exact hchain

/-- R90, R93. The RAMP that arrives completes with the setpoint at its target. -/
theorem completed_at_target {x : Step} (h : Steps b i rest x s) : Completed b i rest (arrived b target s) (finish (completeStep b (moved b target s))) ∧
    Touches (stepParts ++ eventParts) s (finish (completeStep b (moved b target s))) := by
  have hk := moved_keg b target s
  have hk' := arrived_keg b target s
  have hm := moved_alone b target s
  refine ⟨completed_in_event (steps_arrived h) (hm .sch (by decide)) ?_ (by rw [hk, hk']) (by rw [hk, hk']) (by rw [hk, hk']) (by rw [hk, hk']), completion_touches (hm.mono (by decide))⟩
  exact (SeesAs.of_touches (arrived_alone b target s) (by decide) (by decide) (by rw [hk']) (by rw [hk'])).symm.trans
    (SeesAs.of_touches hm (by decide) (by decide) (by rw [hk]) (by rw [hk]))

end

/-- Settles O41: the steps that complete by their timers as things stand, the QUIET behind its flag, and the RAMP that moves or arrives. -/
theorem stepTimersCompleteTheirSteps : Obligations.StepTimersCompleteTheirSteps := by
  refine ⟨⟨fun s b i rest target d v h hd => ⟨_, exec_duration h hd, completed_at_once h⟩,
      fun s b i rest target th m v h hd => ⟨_, exec_quietMaximum h hd, completed_at_limit h⟩,
      fun s b i rest target p d c h hs hp hd => ⟨_, exec_carbSettle h hs hp hd, completed_at_once h⟩⟩,
    fun s b i rest target rate v sp c h h1 hsp hr hc => ⟨fun hfar => ⟨_, exec_rampTimer h hr hc, ?_⟩, fun hn1 hn2 => ⟨_, exec_rampTimer h hr hc, ?_⟩⟩⟩
  · rw [rampExpired_moves hsp h1 hfar]
    obtain ⟨-, -, -, -, -, -, hchain, -⟩ := h
    have hf := finish_alone (moved b (if sp < target then sp + rate else sp - rate) s)
    rw [keg_of_kegs (kegs_of_touches hf (by decide)) b, moved_keg]
    exact ⟨rfl, rfl, hchain, rfl, ((moved_alone b _ s).mono (by decide)).trans (hf.mono (by decide))⟩
  · rw [rampExpired_arrives hsp hn1 hn2]
    obtain ⟨hdone, htouches⟩ := completed_at_target (target := target) h
    refine ⟨fun hrest => ?_, hdone, htouches⟩
    subst hrest
    rw [completed_setpoint hdone, arrived_keg]

end Sys2Proof.Proofs
end

section
/-! PROOFS. The service of the gas queue: the entry that is chosen, and what its being taken into service leaves (R126, R128). -/

namespace Sys2Proof.Proofs

open Sys2Proof.Machine Sys2Proof.Safety Sys2Proof.Claims

/-! ## The entry that is chosen (R126) -/

theorem firstOf_eq {α : Type} (o o' : Option α) : (o <|> o') = o.or o' := by
  cases o <;> rfl

theorem nextServed_eq {idle : Tap → Bool} {s : State} (h : ∀ y, idle y = decide ((s.tapRec y).state = .idle)) :
    nextServed idle s.man.queue = chooseEntry s := by
  unfold nextServed chooseEntry
  simp only [List.head?_append, List.head?_filter, firstOf_eq, Option.or_assoc]
  refine congr (congrArg _ rfl) (congr (congrArg _ ?_) (congr (congrArg _ rfl) rfl))
  congr 1
  funext e
  cases hn : e.need with
  | purge y d => simp [GasNeed.isPurge, eligible, h]
  | pour y b | charge b | check => rfl

theorem isPour_of_setPour {e : GasEntry} {p : SetPour} (h : setPourOf e = some p) : e.need.isPour = true := by
  rw [entryPour_eq_some h]
  rfl

theorem isPour_of_no_setPour {e : GasEntry} (h : setPourOf e = none) : e.need.isPour = false := by
  unfold setPourOf at h
  cases hn : e.need with
  | pour y b =>
    rw [hn] at h
    cases h
  | charge b | purge y d | check => rfl

theorem goesAlong_eq (p : Int) (s : State) : goesAlong s.man.settleTolerance p = fun e => joinsAtService p e s := by
  funext e
  unfold goesAlong joinsAtService
  cases e.need with
  | pour y b => rfl
  | charge b | purge y d | check => rfl

/-! ## The notice to the requester (R128) -/

theorem tellServed_blc (n : GasNeed) (s : State) : (tellServed n s).blc = s.blc := by
  cases n with
  | charge b =>
    show (chargeMarked b s).blc = s.blc
    rw [chargeMarked_eq]
    rfl
  | purge y d | pour y b | check => rfl

theorem tellServed_sch (n : GasNeed) (s : State) : (tellServed n s).sch = s.sch := by
  cases n with
  | charge b => exact (chargeMarked_gas b s).1
  | purge y d | pour y b | check => rfl

theorem tellServed_chain (n : GasNeed) (s : State) (b : Bay) : ((tellServed n s).keg b).chain = (s.keg b).chain := by
  cases n with
  | charge c => exact ((chargeMarked_gas c s).2 b).chain
  | purge y d | pour y c | check => rfl

/-- R128. What a requester makes of the notice is what it makes of it with another manifold and other outputs. -/
theorem tellServed_congr {n : GasNeed} {s t : State} (hk : t.kegs = s.kegs) (hs : t.sch = s.sch) (ht : t.tap = s.tap) :
    (tellServed n t).kegs = (tellServed n s).kegs ∧ (tellServed n t).tap = (tellServed n s).tap := by
  cases n with
  | charge b =>
    show (chargeMarked b t).kegs = (chargeMarked b s).kegs ∧ (chargeMarked b t).tap = (chargeMarked b s).tap
    rw [chargeMarked_eq, chargeMarked_eq, inCarb_congr (keg_of_kegs hk b ▸ rfl) hs, modKeg_kegs, modKeg_kegs, hk]
    exact ⟨rfl, ht⟩
  | purge y d =>
    refine ⟨hk, ?_⟩
    simp only [tellServed, purgeServed, modTap_tap, ht]
  | pour y b | check => exact ⟨hk, ht⟩

theorem out_of_blc {s t : State} (h : t.blc = s.blc) (o : Output) : t.out o = s.out o := congrArg (·.outs[outIdx o]) h

/-! ## An entry taken into service (R126, R128) -/

section
variable {e : GasEntry} {s : State}

/-- R128. The operation that the entry begins, its pour set apart. -/
theorem newOperation_eq (e : GasEntry) (s : State) :
    newOperation e s = settlingOp e.need (if e.need = .check then s.man.checkPressure else e.pressure) (setPourOf e).toList := by
  unfold newOperation servicePressure settlingOp setPourOf
  cases e.need <;> rfl

theorem serveEntry_alone (h : e.need.isPour = false) : serveEntry e s = startOperation e (s.modMan fun m => { m with queue := m.queue.erase e }) := by
  unfold serveEntry
  rw [h]
  rfl

theorem serveEntry_man_alone (h : setPourOf e = none) : (serveEntry e s).man = { s.man with
    state := .busy
    queue := s.man.queue.erase e
    op := some (settlingOp e.need (if e.need = .check then s.man.checkPressure else e.pressure) []) } := by
  rw [serveEntry_alone (isPour_of_no_setPour h), startOperation_man, newOperation_eq, h]
  rfl

theorem serveEntry_man_pour {p : SetPour} (h : setPourOf e = some p) : (serveEntry e s).man = { s.man with
    state := .busy
    queue := (s.man.queue.erase e).filter fun x => !goesAlong s.man.settleTolerance (if e.need = .check then s.man.checkPressure else e.pressure) x
    op := some (settlingOp e.need (if e.need = .check then s.man.checkPressure else e.pressure)
      (p :: ((s.man.queue.erase e).filter (goesAlong s.man.settleTolerance (if e.need = .check then s.man.checkPressure else e.pressure))).filterMap setPourOf)) } := by
  have hp := isPour_of_setPour h
  have hc : e.need ≠ .check := fun hc => by
    rw [hc] at hp
    cases hp
  have hm := startOperation_man e (s.modMan fun m => { m with queue := m.queue.erase e })
  have ht : (startOperation e (s.modMan fun m => { m with queue := m.queue.erase e })).man.settleTolerance = s.man.settleTolerance := by
    rw [hm]
    rfl
  unfold serveEntry
  dsimp only
  have hj : ∀ x, joinsAtService e.pressure x (startOperation e (s.modMan fun m => { m with queue := m.queue.erase e })) =
      goesAlong s.man.settleTolerance e.pressure x := fun x => by
    rw [← ht, goesAlong_eq]
  simp only [if_pos hp, hj, modMan_man, hm, newOperation_eq, h, if_neg hc]
  rfl

/-- R128. The manifold as the entry's operation begins. -/
def takenUp (e : GasEntry) (s : State) : State :=
  s.modMan fun m => { m with queue := m.queue.erase e, op := some (newOperation e s), state := .busy }

/-- The service of an entry writes the regulator and tells the requester; a POUR's set is the manifold's alone. -/
theorem serveEntry_eq (e : GasEntry) (s : State) : ∃ m : Man, serveEntry e s =
    { tellServed e.need (write .man .regulator (if e.need = .check then s.man.checkPressure else e.pressure).toNat (takenUp e s)) with man := m } := by
  have hstart : startOperation e (s.modMan fun m => { m with queue := m.queue.erase e }) =
      tellServed e.need (write .man .regulator (if e.need = .check then s.man.checkPressure else e.pressure).toNat (takenUp e s)) := by
    unfold startOperation takenUp
    simp only [newOperation_eq]
    rfl
  unfold serveEntry
  rw [hstart]
  dsimp only
  split <;> exact ⟨_, rfl⟩

theorem serveEntry_out {o : Output} (h : o ≠ .regulator) : (serveEntry e s).out o = s.out o := by
  obtain ⟨m, he⟩ := serveEntry_eq e s
  rw [he]
  exact (out_of_blc (tellServed_blc _ _) o).trans (write_out_other h)

theorem serveEntry_regulator (h : s.mgp.part = .running) :
    (serveEntry e s).out .regulator = (if e.need = .check then s.man.checkPressure else e.pressure).toNat := by
  obtain ⟨m, he⟩ := serveEntry_eq e s
  rw [he]
  exact (out_of_blc (tellServed_blc _ _) .regulator).trans (write_man_out (if_pos h))

/-- Of the kegs and the taps, the service of an entry reaches its requester. -/
theorem serveEntry_told (e : GasEntry) (s : State) : (serveEntry e s).kegs = (tellServed e.need s).kegs ∧ (serveEntry e s).tap = (tellServed e.need s).tap ∧
    (serveEntry e s).sch = s.sch := by
  have hw := write_shows .man .regulator (if e.need = .check then s.man.checkPressure else e.pressure).toNat (takenUp e s)
  have htap := hw
  obtain ⟨_, _, htap⟩ := htap
  obtain ⟨hkegs, htaps⟩ := tellServed_congr (n := e.need) (s := s) hw.kegs hw.sch (by rw [htap]; rfl)
  obtain ⟨m, he⟩ := serveEntry_eq e s
  rw [he]
  exact ⟨hkegs, htaps, (tellServed_sch _ _).trans hw.sch⟩

theorem serveEntry_keg {b : Bay} (h : e.need ≠ .charge b) : (serveEntry e s).keg b = s.keg b := by
  rw [State.keg, (serveEntry_told e s).1]
  cases hn : e.need with
  | charge c =>
    show (chargeMarked c s).keg b = _
    rw [chargeMarked_eq, keg_modKeg_other]
    rintro rfl
    exact h hn
  | purge y d | pour y c | check => rfl

theorem serveEntry_inCarb (b : Bay) : inCarb b (serveEntry e s) = inCarb b s := by
  obtain ⟨hk, -, hs⟩ := serveEntry_told e s
  refine inCarb_congr ?_ hs
  rw [State.keg, hk]
  exact tellServed_chain _ _ _

/-- R92, R127. In a CARB step the keg whose CHARGE is in service is marked. -/
theorem serveEntry_marks {b : Bay} (h : e.need = .charge b) (hc : inCarb b s = true) : ((serveEntry e s).keg b).chargePending = true := by
  rw [State.keg, (serveEntry_told e s).1, h]
  show ((chargeMarked b s).keg b).chargePending = true
  rw [chargeMarked_eq, keg_modKeg_same, markedKeg, hc]
  rfl

theorem serveEntry_tapRec {x : Tap} (h : ∀ d, e.need ≠ .purge x d) : (serveEntry e s).tapRec x = s.tapRec x := by
  rw [State.tapRec, (serveEntry_told e s).2.1]
  cases hn : e.need with
  | purge y d =>
    show (s.modTap y _).tapRec x = _
    rw [tapRec_modTap, if_neg]
    rintro rfl
    exact h d hn
  | charge b =>
    show (chargeMarked b s).tapRec x = _
    rw [chargeMarked_eq]
    rfl
  | pour y b | check => rfl

theorem serveEntry_purge {x : Tap} {d : Nat} (h : e.need = .purge x d) :
    (serveEntry e s).tapRec x = { s.tapRec x with purgeRequest := .inService, state := .purging } := by
  rw [State.tapRec, (serveEntry_told e s).2.1, h]
  show (s.modTap x _).tapRec x = _
  rw [tapRec_modTap, if_pos rfl]

end

/-! ## The manifold that becomes IDLE (R126) -/

/-- R126. The manifold is IDLE, before its queue is served. -/
def rested (s : State) : State := s.modMan fun m => { m with state := .idle }

section
variable {s : State} (hr : s.mgp.part = .running)
include hr

theorem becomeIdle_eq : becomeIdle s = match chooseEntry s with
    | some e => serveEntry e (rested s)
    | none => rested s := if_pos ⟨hr, rfl⟩

/-- R126. The manifold rests, or an entry of its queue is taken into service. -/
theorem becomeIdle_cases : (chooseEntry s = none ∧ becomeIdle s = rested s) ∨ ∃ e, chooseEntry s = some e ∧ e ∈ s.man.queue ∧ becomeIdle s = serveEntry e (rested s) := by
  have h := becomeIdle_eq hr
  rcases hc : chooseEntry s with _ | e
  · rw [hc] at h
    exact .inl ⟨rfl, h⟩
  · rw [hc] at h
    exact .inr ⟨e, rfl, chooseEntry_mem hc, h⟩

theorem becomeIdle_out {o : Output} (h : o ≠ .regulator) : (becomeIdle s).out o = s.out o := by
  rcases becomeIdle_cases hr with ⟨-, he⟩ | ⟨e, -, -, he⟩
  · rw [he]
    rfl
  · rw [he, serveEntry_out h]
    rfl

theorem becomeIdle_keg {b : Bay} (h : ∀ e ∈ s.man.queue, e.need ≠ .charge b) : (becomeIdle s).keg b = s.keg b := by
  rcases becomeIdle_cases hr with ⟨-, he⟩ | ⟨e, -, hm, he⟩
  · rw [he]
    rfl
  · rw [he, serveEntry_keg (h e hm)]
    rfl

theorem becomeIdle_tapRec {x : Tap} (h : ∀ e, chooseEntry s = some e → ∀ d, e.need ≠ .purge x d) : (becomeIdle s).tapRec x = s.tapRec x := by
  rcases becomeIdle_cases hr with ⟨-, he⟩ | ⟨e, hc, -, he⟩
  · rw [he]
    rfl
  · rw [he, serveEntry_tapRec (h e hc)]
    rfl

theorem becomeIdle_purge {e : GasEntry} {x : Tap} {d : Nat} (hc : chooseEntry s = some e) (h : e.need = .purge x d) :
    (becomeIdle s).tapRec x = { s.tapRec x with purgeRequest := .inService, state := .purging } := by
  rw [becomeIdle_eq hr, hc]
  exact serveEntry_purge h

/-- R126, R128. The queue is served as the manifold `m` has it, whose operation has ended. -/
theorem becomeIdle_serves {idle : Tap → Bool} {m : Man} (hm : { s.man with state := .idle } = { m with op := none, state := .idle })
    (hi : ∀ y, idle y = decide ((s.tapRec y).state = .idle)) : Serves idle m (becomeIdle s) := by
  have hman : (rested s).man = { m with op := none, state := .idle } := hm
  have hq : m.queue = s.man.queue := (congrArg Man.queue hm).symm
  have hp : m.checkPressure = (rested s).man.checkPressure := (congrArg Man.checkPressure hm).symm
  have hnext : nextServed idle m.queue = chooseEntry s := by rw [hq, nextServed_eq hi]
  refine ⟨fun hn => ?_, fun e he => ?_⟩
  · rw [becomeIdle_eq hr, ← hnext, hn]
    exact hman
  · have hb : becomeIdle s = serveEntry e (rested s) := by
      rw [becomeIdle_eq hr, ← hnext, he]
    rw [hb]
    refine ⟨?_, fun b hn hc => ?_, fun hn => ?_, fun x hx => ?_⟩
    · rw [serveEntry_regulator (s := rested s) hr, hp]
    · rw [serveEntry_inCarb] at hc
      exact serveEntry_marks hn hc
    · rw [serveEntry_man_alone hn, hman]
    · rw [serveEntry_man_pour hx, hman]

omit hr in
/-- The end of the event leaves the manifold, the regulator, and the charge-pending marks. -/
theorem serves_finish {idle : Tap → Bool} {m : Man} (h : Serves idle m s) : Serves idle m (finish s) := by
  have hf := finish_alone s
  have hk : (finish s).kegs = s.kegs := hf .kegs (by decide)
  have hman : (finish s).man = s.man := hf .man (by decide)
  unfold Serves
  rw [hman, finish_out rfl]
  refine ⟨h.1, fun e he => ?_⟩
  obtain ⟨hreg, hcharge, hrest⟩ := h.2 e he
  refine ⟨hreg, fun b hb hc => ?_, hrest⟩
  rw [inCarb_congr (keg_of_kegs hk b ▸ rfl) (hf .sch (by decide))] at hc
  rw [keg_of_kegs hk]
  exact hcharge b hb hc

end

end Sys2Proof.Proofs
end

section
/-! PROOFS. An operation that becomes ACTIVE: what a MANIFOLD value within its tolerance opens and grants (R128, R130, R131, R134, R135). -/

namespace Sys2Proof.Proofs

open Sys2Proof.Machine Sys2Proof.Safety Sys2Proof.Claims

/-! ## The grant of gas to a pour (R131, R152) -/

/-- R131. The pour of tap `y`, if it has one, is granted. -/
def GrantedAt (y : Tap) (s : State) : Prop := ∀ q, (s.tapRec y).pour = some q → q.granted = true

/-- R152, R153. A pour waits on, or a granted one starts. -/
theorem tryStart_cases (y : Tap) (s : State) : tryStart y s = s ∨ ∃ p, (s.tapRec y).pour = some p ∧ p.granted = true ∧
    ShowsFrom (s.modTap y fun r => { r with state := .pouring, pour := some (p.started r.lastFlow) }) (tryStart y s) ∧
    ∀ o, o ≠ .tapValve y → (tryStart y s).out o = s.out o := by
  unfold tryStart
  split
  · rename_i p hp
    split
    · rename_i h
      simp only [Bool.and_eq_true, Bool.not_eq_true', decide_eq_true_eq] at h
      obtain ⟨⟨⟨-, hg⟩, -⟩, -⟩ := h
      exact .inr ⟨p, hp, hg, write_shows _ _ _ _, fun o ho => write_out_other ho⟩
    · exact .inl rfl
  · exact .inl rfl

theorem tryStart_grantedAt {y z : Tap} {s : State} (h : GrantedAt z s) : GrantedAt z (tryStart y s) := by
  rcases tryStart_cases y s with he | ⟨p, hp, hg, ⟨_, _, he⟩, -⟩
  · rwa [he]
  · intro q hq
    rw [he] at hq
    have hq : ((s.modTap y fun r => { r with state := .pouring, pour := some (p.started r.lastFlow) }).tapRec z).pour = some q := hq
    rw [tapRec_modTap] at hq
    split at hq
    · cases hq
      exact hg
    · exact h q hq

theorem tryStart_out {y : Tap} {o : Output} (h : o ≠ .tapValve y) (s : State) : (tryStart y s).out o = s.out o := by
  rcases tryStart_cases y s with he | ⟨-, -, -, -, ho⟩
  · rw [he]
  · exact ho o h

theorem grantPour_out {y : Tap} {o : Output} (h : o ≠ .tapValve y) (s : State) : (grantPour y s).out o = s.out o := tryStart_out h _

theorem grantPour_man (y : Tap) (s : State) : (grantPour y s).man = s.man := tryStart_man _ _

/-- R131. The tap's pour is granted, and no grant is taken back. -/
theorem grantPour_grantedAt {y z : Tap} {s : State} (h : z = y ∨ GrantedAt z s) : GrantedAt z (grantPour y s) := by
  refine tryStart_grantedAt fun q hq => ?_
  rw [tapRec_modTap] at hq
  split at hq
  · obtain ⟨p, -, rfl⟩ := Option.map_eq_some_iff.1 hq
    rfl
  · rename_i hne
    exact (h.resolve_left hne) q hq

/-! ## The work of an operation begins (R130, R131, R134, R135) -/

/-- The operation as it becomes ACTIVE. -/
def activeOp (op : Operation) : Operation := { op with sub := .active, work := if op.need.isPour then none else some 0 }

theorem withinTolerance_iff {p q : Int} {s : State} : withinTolerance p q s = true ↔ p - q ≤ s.man.settleTolerance ∧ q - p ≤ s.man.settleTolerance :=
  decide_eq_true_iff

section
variable {s : State} {op : Operation} (hop : s.man.op = some op)
include hop

theorem setActive_op : (setActive s).man.op = some (activeOp op) := by
  show s.man.op.map _ = _
  rw [hop]
  rfl

/-- R128. In tolerance the operation becomes ACTIVE, and out of it the value does nothing. -/
theorem settleTest_eq (v : Int) (hs : op.sub = .settling) : settleTest v s = if withinTolerance v op.pressure s then activate op s else s := by
  unfold settleTest
  simp only [hop, hs, true_and]

/-- Every kind's operation becomes ACTIVE; a CHECK's takes the pressure as it begins. -/
theorem activate_op : ∃ o : Operation, (activate op s).man.op = some o ∧ o.sub = .active ∧ o.need = op.need ∧ o.pours = op.pours ∧
    o.work = (if op.need.isPour then none else some 0) ∧ (op.need = .check → o.p0 = (s.rte.slots[destIdx .manifold]).map (·.value)) := by
  have hact := setActive_op hop
  have halone : (activate op s).man.op = some (activeOp op) → op.need ≠ .check → ∃ o : Operation, (activate op s).man.op = some o ∧ o.sub = .active ∧
      o.need = op.need ∧ o.pours = op.pours ∧ o.work = (if op.need.isPour then none else some 0) ∧
      (op.need = .check → o.p0 = (s.rte.slots[destIdx .manifold]).map (·.value)) :=
    fun h hc => ⟨_, h, rfl, rfl, rfl, rfl, fun e => absurd e hc⟩
  cases hn : op.need with
  | charge b =>
    rw [← hn]
    refine halone ?_ (by rw [hn]; simp)
    unfold activate
    rw [hn]
    dsimp only
    rw [write_man, hact]
  | purge x d =>
    rw [← hn]
    refine halone ?_ (by rw [hn]; simp)
    unfold activate
    rw [hn]
    dsimp only
    rw [write_man, write_man, ← hact]
    exact congrArg Man.op (passing_shows [.tapValve x] s (setActive s)).man
  | pour y b =>
    rw [← hn]
    refine halone ?_ (by rw [hn]; simp)
    unfold activate
    rw [hn]
    dsimp only
    refine forAll_keeps (Q := fun u => u.man.op = some (activeOp op)) (fun p _ u hu => by rw [grantPour_man, hu]) ?_
    rw [(writes_shows op.pours .man _ 1 (setActive s)).man, hact]
  | check =>
    have hw := write_shows .man .supply 0 (setActive s)
    refine ⟨{ activeOp op with p0 := slotValue .manifold (write .man .supply 0 (setActive s)) }, ?_, rfl, hn, rfl,
      congrArg (fun n : GasNeed => if n.isPour then none else some 0) hn, fun _ => ?_⟩
    · unfold activate
      rw [hn]
      show (write .man .supply 0 (setActive s)).man.op.map _ = _
      rw [write_man, hact]
      rfl
    · show (State.rte (write .man .supply 0 (setActive s))).slots[destIdx .manifold].map _ = _
      rw [hw.rte]
      rfl

section
variable (hr : s.mgp.part = .running)
include hr

omit hop in
/-- R130. A CHARGE opens the gas-in valve of its keg. -/
theorem activate_charge {b : Bay} (hn : op.need = .charge b) : (activate op s).out (.gasIn b) = 1 := by
  unfold activate
  rw [hn]
  exact write_man_out (if_pos hr)

omit hop in
/-- R131. The gas-in valve of each pour of the set is ON, and the pour of its tap is granted. -/
theorem activate_pours (hn : op.need.isPour = true) {p : SetPour} (hp : p ∈ op.pours) :
    (activate op s).out (.gasIn p.bay) = 1 ∧ GrantedAt p.tap (activate op s) := by
  obtain ⟨y, b, hn⟩ := eq_pour_of_isPour hn
  unfold activate
  rw [hn]
  dsimp only
  constructor
  · refine forAll_keeps (Q := fun u => u.out (.gasIn p.bay) = 1) (fun x _ u hu => by rw [grantPour_out (by simp), hu]) ?_
    refine forAll_reaches (P := fun u => u.mgp.part = .running) (Q := fun u => u.out (.gasIn p.bay) = 1) hp ?_ ?_ ?_ hr
    · exact fun x _ u hu => .inl (by rw [(write_shows .man (.gasIn x.bay) 1 u).mgp, hu])
    · intro x _ u hu
      by_cases e : x.bay = p.bay
      · rw [e]
        unfold write
        split
        · rw [commandOut_out, if_pos rfl]
        · exact hu
      · rw [write_out_other (by simpa using Ne.symm e), hu]
    · exact fun u hu => write_man_out (if_pos hu)
  · have hkeep : ∀ x ∈ op.pours, ∀ u, GrantedAt p.tap u → GrantedAt p.tap (grantPour x.tap u) := fun x _ u hu => grantPour_grantedAt (.inr hu)
    have hdo : ∀ u, True → GrantedAt p.tap (grantPour p.tap u) := fun u _ => grantPour_grantedAt (.inl rfl)
    generalize forAll op.pours (fun p => write .man (.gasIn p.bay) 1) (setActive s) = u
    exact forAll_reaches hp (fun _ _ _ _ => .inl trivial) hkeep hdo trivial

/-- R134. The tap valve passes to the manifold, and both valves are ON. -/
theorem activate_purge {x : Tap} {d : Nat} (hn : op.need = .purge x d) :
    (activate op s).out (.purge x) = 1 ∧ (activate op s).out (.tapValve x) = 1 ∧ owner (.tapValve x) (activate op s) = some .man := by
  have hpass : ShowsFrom (setActive s) (passing [.tapValve x] setActive s) := passing_shows _ _ _
  have hrun : (passing [.tapValve x] setActive s).mgp.part = .running := by
    rw [hpass.mgp]
    exact hr
  have hpurge := hpass.trans (write_shows .man (.purge x) 1 _)
  have ho : owner (.tapValve x) (setActive s) = some .man := by
    have hact : purgeActive x (setActive s) = true := (purgeActive_iff x _).2 ⟨activeOp op, d, setActive_op hop, hn, rfl⟩
    have hr' : (setActive s).mgp.part = .running := hr
    simp only [owner, State.running, hr', if_true, hact]
  unfold activate
  rw [hn]
  dsimp only
  refine ⟨?_, write_man_out ((hpurge.owner _).trans ho), ((hpurge.trans (write_shows _ _ _ _)).owner _).trans ho⟩
  rw [write_out_other (by simp)]
  exact write_man_out (if_pos hrun)

omit hop in
/-- R135. A CHECK closes the supply. -/
theorem activate_check (hn : op.need = .check) : (activate op s).out .supply = 0 := by
  unfold activate
  rw [hn]
  exact write_man_out (s := setActive s) (if_pos hr)

end
end

end Sys2Proof.Proofs
end

section
/-! PROOFS. The ends of an operation: what its requester is told while the manifold is BUSY without it (R127, R129, R130, R133, R134, R159). -/

namespace Sys2Proof.Proofs

open Sys2Proof.Machine Sys2Proof.Safety Sys2Proof.Claims

/-! ## A purge need while the manifold is BUSY (R125, R159) -/

/-- The part is RUNNING, and the manifold BUSY with an operation that has just become absent. -/
structure Cleared (s : State) : Prop where
  part : s.mgp.part = .running
  busy : s.man.state = .busy
  op : s.man.op = none

theorem serveQueue_cleared {s : State} (h : Cleared s) : serveQueue s = s := if_neg fun hs => by
  rw [h.busy] at hs
  cases hs.2

/-- R159. The tap's PURGE goes to the queue. -/
def purgeQueued (y : Tap) (s : State) : State :=
  (s.modMan fun m => { m with queue := m.queue ++ [purgeEntry y s] }).modTap y fun r => { r with purgeRequest := .queued }

theorem purge_same_iff {n : GasNeed} {y : Tap} {d : Nat} : n.same (.purge y d) = true ↔ ∃ d', n = .purge y d' := by
  cases n <;> simp [GasNeed.same]

theorem alreadyHeld_purge_iff {y : Tap} {s : State} (ho : s.man.op = none) :
    alreadyHeld (purgeEntry y s).need s = true ↔ ∃ e ∈ s.man.queue, ∃ d, e.need = .purge y d := by
  unfold alreadyHeld purgeEntry
  simp only [ho, Bool.or_false, List.any_eq_true, purge_same_iff]

/-- R125, R159. The need is raised, the MAN holds none for the tap, and the queue has room. -/
def QueuesPurge (y : Tap) (s : State) : Prop :=
  purgeNeeded y s = true ∧ (∀ e ∈ s.man.queue, ∀ d, e.need ≠ .purge y d) ∧ s.man.queue.length < 8

theorem answerNeed_cleared {y : Tap} {s : State} (h : Cleared s) : answerNeed true (purgeEntry y s) s =
    if alreadyHeld (purgeEntry y s).need s = true then .alreadyHeld else if 8 ≤ s.man.queue.length then .unqueued else .queued := by
  have hjoin : mayJoin (purgeEntry y s) s = false := by
    unfold mayJoin
    rw [h.op]
  have hcharge : ¬ ((purgeEntry y s).need.isCharge = true ∧ s.man.supplyLow = true) := fun hc => Bool.noConfusion hc.1
  unfold answerNeed
  rw [if_neg (by simp [h.busy]), if_neg (by simp [h.busy]), if_neg hcharge]
  by_cases hh : alreadyHeld (purgeEntry y s).need s = true
  · rw [if_pos ⟨rfl, hh⟩, if_pos hh]
  · rw [if_neg fun hc => hh hc.2, if_neg (by simp [hjoin]), if_neg (by simp [h.busy]), if_neg hh]
    rfl

/-- R125. The need is answered with the tail of the queue, or is not taken. -/
theorem evalPurge_cleared {y : Tap} {s : State} (h : Cleared s) :
    (QueuesPurge y s → evalPurge true y s = purgeQueued y s) ∧ (¬ QueuesPurge y s → evalPurge true y s = s) := by
  have hheld := alreadyHeld_purge_iff (y := y) h.op
  have hanswer := answerNeed_cleared (y := y) h
  unfold evalPurge raiseNeed
  constructor
  · rintro ⟨hneed, hnone, hroom⟩
    have hfree : ¬ alreadyHeld (purgeEntry y s).need s = true := fun hh => by
      obtain ⟨e, he, d, hd⟩ := hheld.1 hh
      exact hnone e he d hd
    rw [if_pos hneed, hanswer, if_neg hfree, if_neg (Nat.not_le.2 hroom)]
    rfl
  · intro hq
    split
    · rename_i hneed
      rw [hanswer]
      by_cases hh : alreadyHeld (purgeEntry y s).need s = true
      · rw [if_pos hh]
      · have hnone : ∀ e ∈ s.man.queue, ∀ d, e.need ≠ .purge y d := fun e he d hd => hh (hheld.2 ⟨e, he, d, hd⟩)
        rw [if_neg hh, if_pos (Nat.le_of_not_lt fun hl => hq ⟨hneed, hnone, hl⟩)]
    · rfl

theorem purgeQueued_tapRec (y z : Tap) (s : State) :
    (purgeQueued y s).tapRec z = if z = y then { s.tapRec y with purgeRequest := .queued } else s.tapRec z := tapRec_modTap _ _ _ _

/-! ## One pour ends while the manifold is BUSY (R133, R155) -/

/-- R133. Without an operation the manifold only forgets the tap's queued POUR. -/
theorem pourEnded_cleared {y : Tap} {s : State} (ho : s.man.op = none) (hq : ∀ e ∈ s.man.queue, ∀ b, e.need ≠ .pour y b) : pourEnded y s = s := by
  have hkeep : ∀ f : GasEntry → Bool, (∀ e ∈ s.man.queue, f e = true) → (s.modMan fun m => { m with queue := m.queue.filter f }) = s := fun f hf => by
    show { s with man := { s.man with queue := s.man.queue.filter f } } = s
    rw [List.filter_eq_self.2 hf]
  unfold pourEnded
  simp only [modMan_man, ho]
  refine hkeep _ fun e he => ?_
  cases hn : e.need with
  | pour z b => exact decide_eq_true fun hz => hq e he b (by rw [hn, hz])
  | charge b | purge z d | check => rfl

/-- Of the taps, the end of a pour changes its own, and of the manifold nothing. -/
theorem pourEndCore_cleared (reason : PourReason) {y : Tap} (p : Pour) {s : State} (ho : s.man.op = none) (hq : ∀ e ∈ s.man.queue, ∀ b, e.need ≠ .pour y b) :
    (pourEndCore reason y p s).man = s.man ∧ (pourEndCore reason y p s).mgp.part = s.mgp.part ∧
      (∀ z, z ≠ y → (pourEndCore reason y p s).tapRec z = s.tapRec z) ∧
      ∃ w, (pourEndCore reason y p s).tapRec y = { (s.tapRec y).pourGone with blink := w } := by
  have hv : ShowsFrom s (noticed y p s) := by
    unfold noticed
    split
    · have hw := write_shows .tap (.tapValve y) 0 s
      rw [pourEnded_cleared (by rw [hw.man]; exact ho) (by rw [hw.man]; exact hq)]
      exact hw
    · rw [pourEnded_cleared ho hq]
      exact ShowsFrom.refl s
  have htap : ∀ z, (noticed y p s).tapRec z = s.tapRec z := fun z => by
    obtain ⟨_, _, h⟩ := hv
    rw [h]
    rfl
  obtain ⟨_, _, _, _, hs⟩ := handPourRecord_sends (pourReport y p reason) ((noticed y p s).modKeg p.bay fun k => { k with pours := k.pours - 1 })
  have hman : (pourGoneFrom y p (pourReport y p reason) (noticed y p s)).man = s.man := by
    rw [← hv.man, pourGoneFrom, hs]
    rfl
  have hpart : (pourGoneFrom y p (pourReport y p reason) (noticed y p s)).mgp.part = s.mgp.part := by
    rw [← hv.mgp, pourGoneFrom, hs]
    rfl
  have hrec : ∀ z, (pourGoneFrom y p (pourReport y p reason) (noticed y p s)).tapRec z = if z = y then (s.tapRec y).pourGone else s.tapRec z := fun z => by
    rw [pourGoneFrom_tapRec, htap, htap]
  rw [pourEndCore_eq]
  unfold afterNotice startBlink
  split
  · split
    · refine ⟨hman, hpart, fun z hz => ?_, ⟨some 0, ?_⟩⟩
      · rw [tapRec_modTap, if_neg hz, hrec, if_neg hz]
      · rw [tapRec_modTap, if_pos rfl, hrec, if_pos rfl]
    · exact ⟨hman, hpart, fun z hz => by rw [hrec, if_neg hz], _, by rw [hrec, if_pos rfl]⟩
  · exact ⟨hman, hpart, fun z hz => by rw [hrec, if_neg hz], _, by rw [hrec, if_pos rfl]⟩

theorem tapIdle_cleared {y : Tap} {s : State} (h : Cleared s) : tapIdle y s = evalPurge true y s := by
  unfold tapIdle
  rw [serveQueue_cleared h, ite_self]

/-! ## The pours of a set end while the manifold is BUSY (R129, R159) -/

/-- R155, R159. From `s`, the pours of the taps `l` have ended and their purge needs have been evaluated: what was raised waits in the queue. -/
structure PoursOver (s : State) (l : List Tap) (u : State) : Prop where
  part : u.mgp.part = .running
  man : ∃ raised : List GasEntry, u.man = { s.man with op := none, queue := s.man.queue ++ raised } ∧
    ∀ e ∈ raised, ∃ y ∈ l, NeedsPurge y (s.modTap y fun r => { r with state := .idle }) ∧ e = purgeEntry y s
  gone : ∀ y ∈ l, (u.tapRec y).pour = none
  state : ∀ y, idleAfter l s y = decide ((u.tapRec y).state = .idle)
  rest : ∀ y, y ∉ l → u.tapRec y = s.tapRec y

theorem idleAfter_nil (s : State) (y : Tap) : idleAfter [] s y = decide ((s.tapRec y).state = .idle) := by
  simp [idleAfter]

theorem idleAfter_congr {l l' : List Tap} {s : State} (h : ∀ y, y ∈ l ↔ y ∈ l') : idleAfter l s = idleAfter l' s := by
  funext y
  unfold idleAfter
  rw [decide_eq_decide.2 (h y)]

theorem idleAfter_cons_other {l : List Tap} {s : State} {y z : Tap} (h : z ≠ y) : idleAfter (y :: l) s z = idleAfter l s z := by
  unfold idleAfter
  simp [h]

theorem idleAfter_none {l : List Tap} {s : State} {y : Tap} (h : (s.tapRec y).pour = none) : idleAfter l s y = decide ((s.tapRec y).state = .idle) := by
  unfold idleAfter
  rw [h]
  simp

/-- A tap whose pour ends is IDLE, but for the purge that it waits beneath. -/
theorem idleAfter_pourGone {l : List Tap} {s : State} {y : Tap} (hy : y ∈ l) {p : Pour} (h : (s.tapRec y).pour = some p) :
    idleAfter l s y = decide ((s.tapRec y).pourGone.state = .idle) := by
  unfold idleAfter TapRecord.pourGone
  rw [h]
  cases (s.tapRec y).state <;> simp [hy]

section
variable {s : State}

theorem PoursOver.congr {l l' : List Tap} {u : State} (h : PoursOver s l u) (hl : ∀ y, y ∈ l ↔ y ∈ l') : PoursOver s l' u := by
  obtain ⟨raised, hman, hraised⟩ := h.man
  refine ⟨h.part, ⟨raised, hman, fun e he => ?_⟩, fun y hy => h.gone y ((hl y).2 hy), fun y => ?_, fun y hy => h.rest y (mt (hl y).1 hy)⟩
  · obtain ⟨y, hy, hneeds⟩ := hraised e he
    exact ⟨y, (hl y).1 hy, hneeds⟩
  · rw [← idleAfter_congr hl]
    exact h.state y

/-- A tap without a pour is left as it is. -/
theorem PoursOver.skip {l : List Tap} {u : State} {y : Tap} (h : PoursOver s l u) (hp : (u.tapRec y).pour = none) : PoursOver s (y :: l) u := by
  obtain ⟨raised, hman, hraised⟩ := h.man
  refine ⟨h.part, ⟨raised, hman, fun e he => ?_⟩, fun z hz => ?_, fun z => ?_, fun z hz => h.rest z fun hm => hz (List.mem_cons_of_mem _ hm)⟩
  · obtain ⟨z, hz, hneeds⟩ := hraised e he
    exact ⟨z, List.mem_cons_of_mem _ hz, hneeds⟩
  · rcases List.mem_cons.1 hz with rfl | hz
    · exact hp
    · exact h.gone z hz
  · rw [← h.state z]
    by_cases hz : z = y
    · subst hz
      by_cases hl : z ∈ l
      · exact congrFun (idleAfter_congr fun x => by simp only [List.mem_cons]; exact ⟨fun hx => hx.elim (fun e : x = z => e ▸ hl) id, .inr⟩) z
      · rw [h.rest z hl] at hp
        rw [idleAfter_none hp, idleAfter_none hp]
    · exact idleAfter_cons_other hz

variable {op : Operation} (hb : s.man.state = .busy) (hop : s.man.op = some op) (hn : op.need.isPour = true)
include hb

theorem PoursOver.cleared {l : List Tap} {u : State} (h : PoursOver s l u) : Cleared u := by
  obtain ⟨raised, hman, -⟩ := h.man
  exact ⟨h.part, by rw [hman]; exact hb, by rw [hman]⟩

/-- R133, R155. One more pour ends. -/
theorem PoursOver.core (reason : PourReason) {l : List Tap} {u : State} {y : Tap} {p : Pour} (h : PoursOver s l u) (hy : y ∉ l)
    (hp : (s.tapRec y).pour = some p) (hq : ∀ e ∈ s.man.queue, ∀ b, e.need ≠ .pour y b) :
    PoursOver s (y :: l) (pourEndCore reason y p u) ∧ ∃ w, (pourEndCore reason y p u).tapRec y = { (s.tapRec y).pourGone with blink := w } := by
  obtain ⟨raised, hman, hraised⟩ := h.man
  have huq : ∀ e ∈ u.man.queue, ∀ b, e.need ≠ .pour y b := fun e he => by
    rw [hman] at he
    rcases List.mem_append.1 he with he | he
    · exact hq e he
    · obtain ⟨x, -, -, rfl⟩ := hraised e he
      simp [purgeEntry]
  obtain ⟨hcman, hcpart, hother, w, hown⟩ := pourEndCore_cleared reason p (h.cleared hb).op huq
  rw [h.rest y hy] at hown
  refine ⟨⟨hcpart.trans h.part, ⟨raised, hcman.trans hman, fun e he => ?_⟩, fun z hz => ?_, fun z => ?_, fun z hz => ?_⟩, w, hown⟩
  · obtain ⟨z, hz, hneeds⟩ := hraised e he
    exact ⟨z, List.mem_cons_of_mem _ hz, hneeds⟩
  · by_cases e : z = y
    · rw [e, hown]
      rfl
    · rw [hother z e]
      exact h.gone z (List.mem_of_ne_of_mem e hz)
  · by_cases e : z = y
    · rw [e, hown, idleAfter_pourGone List.mem_cons_self hp]
    · rw [hother z e, ← h.state z, idleAfter_cons_other e]
  · have hz := not_or.1 (mt List.mem_cons.2 hz)
    rw [hother z hz.1, h.rest z hz.2]

include hop hn

/-- R159. What is queued for the tap whose pour has ended, `s` needs once that tap is IDLE. -/
theorem PoursOver.needsPurge {l : List Tap} {u : State} {y : Tap} (h : PoursOver s l u) (hr : s.mgp.part = .running) (ht : QueuesPurge y u)
    (hrec : ∃ w, u.tapRec y = { (s.tapRec y).pourGone with blink := w }) : NeedsPurge y (s.modTap y fun r => { r with state := .idle }) := by
  obtain ⟨hneed, hfree, -⟩ := ht
  obtain ⟨w, hrec⟩ := hrec
  obtain ⟨raised, hman, -⟩ := h.man
  unfold purgeNeeded at hneed
  simp only [hrec, decide_eq_true_eq] at hneed
  obtain ⟨hstatus, -, -, hrequest, -⟩ := hneed
  refine ⟨?_, hr, ?_, ?_, by simp [hb], by simp [hb], fun e he => ?_, fun o ho d hd => ?_⟩
  · rw [tapRec_modTap, if_pos rfl]
    exact hstatus
  · rw [tapRec_modTap, if_pos rfl]
  · rw [tapRec_modTap, if_pos rfl]
    exact hrequest
  · refine hfree e ?_
    rw [hman]
    exact List.mem_append_left _ he
  · have ho : s.man.op = some o := ho
    rw [hop] at ho
    cases ho
    rw [hd] at hn
    cases hn

/-- R159. The PURGE of the tap whose pour has ended goes to the queue. -/
theorem PoursOver.queued {l : List Tap} {u : State} {y : Tap} (h : PoursOver s l u) (hr : s.mgp.part = .running) (hy : y ∈ l) (ht : QueuesPurge y u)
    (hrec : ∃ w, u.tapRec y = { (s.tapRec y).pourGone with blink := w }) : PoursOver s l (purgeQueued y u) := by
  have hneeds := h.needsPurge hb hop hn hr ht hrec
  have hentry : purgeEntry y u = purgeEntry y s := by
    obtain ⟨w, hrec⟩ := hrec
    unfold purgeEntry
    rw [hrec]
    rfl
  obtain ⟨raised, hman, hraised⟩ := h.man
  have htap := purgeQueued_tapRec y
  refine ⟨h.part, ⟨raised ++ [purgeEntry y s], ?_, fun e he => ?_⟩, fun z hz => ?_, fun z => ?_, fun z hz => ?_⟩
  · show { u.man with queue := u.man.queue ++ [purgeEntry y u] } = _
    rw [hman, hentry, ← List.append_assoc]
  · rcases List.mem_append.1 he with he | he
    · exact hraised e he
    · exact ⟨y, hy, hneeds, List.mem_singleton.1 he⟩
  · rw [htap]
    split
    · exact h.gone y hy
    · exact h.gone z hz
  · rw [htap, h.state z]
    split
    · rename_i e
      rw [e]
    · rfl
  · rw [htap, if_neg fun e : z = y => hz (e ▸ hy), h.rest z hz]

/-- R155, R159. One more pour ends, and the idle tap's purge need is evaluated. -/
theorem PoursOver.endPour (reason : PourReason) {l : List Tap} {u : State} {y : Tap} (h : PoursOver s l u)
    (hq : ∀ e ∈ s.man.queue, ∀ b, e.need ≠ .pour y b) (hr : s.mgp.part = .running) : PoursOver s (y :: l) (endPour reason y u) := by
  cases hp : (u.tapRec y).pour with
  | none =>
    rw [endPour_none hp]
    exact h.skip hp
  | some p =>
    have hy : y ∉ l := fun hm => by
      rw [h.gone y hm] at hp
      cases hp
    obtain ⟨hover, hrec⟩ := h.core hb reason hy (h.rest y hy ▸ hp) hq
    have hcleared := hover.cleared hb
    rw [endPour_eq hp]
    split
    · rw [tapIdle_cleared hcleared]
      obtain ⟨hqueued, hleft⟩ := evalPurge_cleared (y := y) hcleared
      by_cases htaken : QueuesPurge y (pourEndCore reason y p u)
      · rw [hqueued htaken]
        exact hover.queued hb hop hn hr List.mem_cons_self htaken hrec
      · rw [hleft htaken]
        exact hover
    · exact hover

theorem PoursOver.forAll (reason : PourReason) {m l : List Tap} {u : State} (h : PoursOver s l u)
    (hq : ∀ y ∈ m, ∀ e ∈ s.man.queue, ∀ b, e.need ≠ .pour y b) (hr : s.mgp.part = .running) : PoursOver s (m.reverse ++ l) (forAll m (Machine.endPour reason) u) := by
  induction m generalizing l u with
  | nil => exact h
  | cons y m ih =>
    have hstep := ih (h.endPour hb hop hn reason (hq y List.mem_cons_self) hr) fun z hz => hq z (List.mem_cons_of_mem _ hz)
    rw [List.reverse_cons, List.append_assoc]
    exact hstep

end

end Sys2Proof.Proofs
end

section
/-! PROOFS. A MANIFOLD value that settles an operation, and the ends of an operation in time (R128 to R131, R134, R135, R159). -/

namespace Sys2Proof.Proofs

open Sys2Proof.Machine Sys2Proof.Safety Sys2Proof.Claims

/-! ## The end of a purge, with the need evaluated again (R159) -/

/-- R159. With its PURGE ended and not carried out, the tap's need stands and the queue has room for it. -/
abbrev AskedAgain (x : Tap) (s : State) : Prop := (s.tapRec x).pour = none ∧ (s.tapRec x).purgeStatus ≠ .clean ∧ s.man.queue.length < 8

/-- R159. The queue once the tap's purge has ended. -/
def queueAfterPurge (x : Tap) (s : State) : List GasEntry := if AskedAgain x s then s.man.queue ++ [purgeEntry x s] else s.man.queue

/-- R159. The taps that are IDLE once the purge of `x` has ended. -/
def idleAfterPurge (x : Tap) (s : State) (y : Tap) : Bool := if y = x then (s.tapRec x).pour.isNone else decide ((s.tapRec y).state = .idle)

/-- R159. What the end of a purge of `x` makes of `s`, whose operation is absent. -/
structure PurgeOver (x : Tap) (s w : State) : Prop where
  part : w.mgp.part = .running
  man : w.man = { s.man with queue := queueAfterPurge x s }
  status : (w.tapRec x).purgeStatus = (s.tapRec x).purgeStatus ∧ (w.tapRec x).purgeMinutes = (s.tapRec x).purgeMinutes ∧
    (w.tapRec x).purgeSeconds = (s.tapRec x).purgeSeconds
  request : (w.tapRec x).purgeRequest = if AskedAgain x s then .queued else .none
  idle : ∀ y, idleAfterPurge x s y = decide ((w.tapRec y).state = .idle)
  out : ∀ o, o ≠ .tapValve x ∨ (s.tapRec x).pour = none → w.out o = s.out o

/-- R159. The tap whose purge has ended, before its need is evaluated or its pour started. -/
def purgeLeft (x : Tap) (s : State) : State :=
  s.modTap x fun r => { r with purgeRequest := .none, state := if r.pour.isSome then .pending else .idle }

section
variable {x : Tap} {s : State}

theorem purgeLeft_tapRec (y : Tap) : (purgeLeft x s).tapRec y =
    if y = x then { s.tapRec x with purgeRequest := .none, state := if (s.tapRec x).pour.isSome then .pending else .idle } else s.tapRec y :=
  tapRec_modTap _ _ _ _

theorem purgeEnded_idle (h : (s.tapRec x).pour = none) : purgeEnded x s = evalPurge true x (purgeLeft x s) := by
  refine if_pos ?_
  show ((purgeLeft x s).tapRec x).state = .idle
  rw [purgeLeft_tapRec, if_pos rfl, h]
  rfl

theorem purgeEnded_pour {p : Pour} (h : (s.tapRec x).pour = some p) : purgeEnded x s = tryStart x (purgeLeft x s) := by
  refine if_neg ?_
  show ((purgeLeft x s).tapRec x).state ≠ .idle
  rw [purgeLeft_tapRec, if_pos rfl, h]
  exact fun e => by cases e

variable (hr : s.mgp.part = .running)
include hr

/-- The tap rests, and asks for no PURGE. -/
theorem purgeOver_left (hp : (s.tapRec x).pour = none) (ha : ¬ AskedAgain x s) : PurgeOver x s (purgeLeft x s) := by
  have hown : (purgeLeft x s).tapRec x = { s.tapRec x with purgeRequest := .none, state := .idle } := by
    rw [purgeLeft_tapRec, if_pos rfl, hp]
    rfl
  refine ⟨hr, ?_, ?_, ?_, fun y => ?_, fun _ _ => rfl⟩
  · rw [queueAfterPurge, if_neg ha]
    rfl
  · rw [hown]
    exact ⟨rfl, rfl, rfl⟩
  · rw [hown, if_neg ha]
  · unfold idleAfterPurge
    split
    · rename_i e
      rw [e, hown, hp]
      rfl
    · rename_i e
      rw [purgeLeft_tapRec, if_neg e]

/-- The tap rests, and its PURGE goes to the queue. -/
theorem purgeOver_queued (ha : AskedAgain x s) : PurgeOver x s (purgeQueued x (purgeLeft x s)) := by
  have hown : (purgeQueued x (purgeLeft x s)).tapRec x = { s.tapRec x with purgeRequest := .queued, state := .idle } := by
    rw [purgeQueued_tapRec, if_pos rfl, purgeLeft_tapRec, if_pos rfl, ha.1]
    rfl
  have hentry : purgeEntry x (purgeLeft x s) = purgeEntry x s := by
    unfold purgeEntry
    rw [purgeLeft_tapRec, if_pos rfl]
  refine ⟨hr, ?_, ?_, ?_, fun y => ?_, fun _ _ => rfl⟩
  · rw [queueAfterPurge, if_pos ha, ← hentry]
    rfl
  · rw [hown]
    exact ⟨rfl, rfl, rfl⟩
  · rw [hown, if_pos ha]
  · unfold idleAfterPurge
    split
    · rename_i e
      rw [e, hown, ha.1]
      rfl
    · rename_i e
      rw [purgeQueued_tapRec, if_neg e, purgeLeft_tapRec, if_neg e]

/-- The pour that waited beneath the purge is PENDING, or starts. -/
theorem purgeOver_pour {p : Pour} (hp : (s.tapRec x).pour = some p) : PurgeOver x s (tryStart x (purgeLeft x s)) := by
  have ha : ¬ AskedAgain x s := fun ha => by
    rw [ha.1] at hp
    cases hp
  have hown : (purgeLeft x s).tapRec x = { s.tapRec x with purgeRequest := .none, state := .pending } := by
    rw [purgeLeft_tapRec, if_pos rfl, hp]
    rfl
  have htry : ∃ st q, st ≠ TapState.idle ∧ (tryStart x (purgeLeft x s)).mgp = s.mgp ∧
      ∀ y, (tryStart x (purgeLeft x s)).tapRec y = if y = x then { s.tapRec x with purgeRequest := .none, state := st, pour := q } else s.tapRec y := by
    rcases tryStart_cases x (purgeLeft x s) with he | ⟨q, -, -, ⟨outs, urgent, he⟩, -⟩
    · rw [he]
      refine ⟨.pending, (s.tapRec x).pour, by simp, rfl, fun y => ?_⟩
      split
      · rename_i e
        rw [e, hown]
      · rename_i e
        rw [purgeLeft_tapRec, if_neg e]
    · rw [he]
      refine ⟨.pouring, some (q.started (s.tapRec x).lastFlow), by simp, rfl, fun y => ?_⟩
      show ((purgeLeft x s).modTap x _).tapRec y = _
      rw [tapRec_modTap, hown]
      split
      · rfl
      · rename_i e
        rw [purgeLeft_tapRec, if_neg e]
  obtain ⟨st, q, hst, hmgp, htap⟩ := htry
  refine ⟨by rw [hmgp]; exact hr, ?_, ?_, ?_, fun y => ?_, fun o ho => ?_⟩
  · rw [tryStart_man, queueAfterPurge, if_neg ha]
    rfl
  · rw [htap, if_pos rfl]
    exact ⟨rfl, rfl, rfl⟩
  · rw [htap, if_pos rfl, if_neg ha]
  · unfold idleAfterPurge
    rw [htap]
    split
    · rw [hp]
      exact (decide_eq_false hst).symm
    · rfl
  · exact tryStart_out (ho.resolve_right fun hn => by rw [hn] at hp; cases hp) _

/-- R159. The end of a purge, of a tap that is CLEAN or beneath a BUSY manifold. -/
theorem purgeEnded_over (ho : s.man.op = none) (hb : s.man.state = .busy ∨ (s.tapRec x).purgeStatus = .clean)
    (hq : ∀ e ∈ s.man.queue, ∀ d, e.need ≠ .purge x d) : PurgeOver x s (purgeEnded x s) := by
  cases hp : (s.tapRec x).pour with
  | some p =>
    rw [purgeEnded_pour hp]
    exact purgeOver_pour hr hp
  | none =>
    have hown : (purgeLeft x s).tapRec x = { s.tapRec x with purgeRequest := .none, state := .idle } := by
      rw [purgeLeft_tapRec, if_pos rfl, hp]
      rfl
    rw [purgeEnded_idle hp]
    by_cases hclean : (s.tapRec x).purgeStatus = .clean
    · have hneed : purgeNeeded x (purgeLeft x s) = false := decide_eq_false fun hn => hn.1 (by rw [hown]; exact hclean)
      have heval : evalPurge true x (purgeLeft x s) = purgeLeft x s := if_neg (by simp [hneed])
      rw [heval]
      exact purgeOver_left hr hp fun ha => ha.2.1 hclean
    · have hbusy := hb.resolve_right hclean
      obtain ⟨hqueued, hleft⟩ := evalPurge_cleared (y := x) (s := purgeLeft x s) ⟨hr, hbusy, ho⟩
      by_cases hl : s.man.queue.length < 8
      · have hneed : purgeNeeded x (purgeLeft x s) = true := by
          unfold purgeNeeded
          simp only [hown, decide_eq_true_eq]
          have hbusy' : (purgeLeft x s).man.state = .busy := hbusy
          exact ⟨hclean, hr, trivial, trivial, by simp [hbusy'], by simp [hbusy']⟩
        rw [hqueued ⟨hneed, hq, hl⟩]
        exact purgeOver_queued hr ⟨hp, hclean, hl⟩
      · rw [hleft fun ht => hl ht.2.2]
        exact purgeOver_left hr hp fun ha => hl ha.2.2

end

/-! ## The queue served after the end (R126) -/

theorem finish_tapRec (s : State) (y : Tap) : untimed ((finish s).tapRec y) = untimed (s.tapRec y) := tapRec_of_same (finish_alone s .taps (by decide)) y

/-- What the end of the event leaves of a tap's purge. -/
theorem finish_purge (s : State) (y : Tap) :
    ((finish s).tapRec y).state = (s.tapRec y).state ∧ ((finish s).tapRec y).purgeRequest = (s.tapRec y).purgeRequest ∧
      ((finish s).tapRec y).purgeStatus = (s.tapRec y).purgeStatus ∧ ((finish s).tapRec y).purgeMinutes = (s.tapRec y).purgeMinutes ∧
      ((finish s).tapRec y).purgeSeconds = (s.tapRec y).purgeSeconds := by
  have h := finish_tapRec s y
  have hstate : (untimed ((finish s).tapRec y)).state = (untimed (s.tapRec y)).state := congrArg _ h
  have hseconds : (untimed ((finish s).tapRec y)).purgeSeconds = (untimed (s.tapRec y)).purgeSeconds := congrArg _ h
  obtain ⟨-, hrequest, hstatus, hminutes, -⟩ := untimed_fields h
  exact ⟨hstate, hrequest, hstatus, hminutes, hseconds⟩

section
variable {x : Tap} {s w : State} (h : PurgeOver x s w)
include h

theorem PurgeOver.chosen : nextServed (idleAfterPurge x s) (queueAfterPurge x s) = chooseEntry w := by
  rw [← nextServed_eq (s := w) h.idle, h.man]

/-- A PURGE of the tap in the queue is the one that its need put there. -/
theorem PurgeOver.mine (hq : ∀ e ∈ s.man.queue, ∀ d, e.need ≠ .purge x d) {e : GasEntry} (he : e ∈ w.man.queue) {d : Nat} (hd : e.need = .purge x d) :
    AskedAgain x s ∧ e = purgeEntry x s := by
  rw [h.man] at he
  have he : e ∈ queueAfterPurge x s := he
  unfold queueAfterPurge at he
  split at he
  · rename_i ha
    rcases List.mem_append.1 he with he | he
    · exact absurd hd (hq e he d)
    · exact ⟨ha, List.mem_singleton.1 he⟩
  · exact absurd hd (hq e he d)

/-- R126. The queue is served as the end of the purge leaves it. -/
theorem PurgeOver.serves {m : Man} (hm : { s.man with state := .idle } = { m with op := none, state := .idle }) :
    Serves (idleAfterPurge x s) { m with queue := queueAfterPurge x s } (finish (becomeIdle w)) := by
  refine serves_finish (becomeIdle_serves h.part ?_ h.idle)
  rw [h.man]
  exact congrArg (fun m : Man => { m with queue := queueAfterPurge x s }) hm

/-- The tap keeps what the end of its purge left, but for the state and the request of a PURGE that goes straight into service. -/
theorem PurgeOver.tapRec (hq : ∀ e ∈ s.man.queue, ∀ d, e.need ≠ .purge x d) :
    (nextServed (idleAfterPurge x s) (queueAfterPurge x s) = some (purgeEntry x s) →
      (becomeIdle w).tapRec x = { w.tapRec x with purgeRequest := .inService, state := .purging }) ∧
    (¬ AskedAgain x s ∨ nextServed (idleAfterPurge x s) (queueAfterPurge x s) ≠ some (purgeEntry x s) → (becomeIdle w).tapRec x = w.tapRec x) := by
  rw [h.chosen]
  refine ⟨fun hc => becomeIdle_purge h.part hc rfl, fun hn => becomeIdle_tapRec h.part fun e hc d hd => ?_⟩
  obtain ⟨ha, rfl⟩ := h.mine hq (chooseEntry_mem hc) hd
  exact hn.elim (absurd ha) (absurd hc)

/-- R159. The purge status and its timer are those that the end of the purge left. -/
theorem PurgeOver.kept (hq : ∀ e ∈ s.man.queue, ∀ d, e.need ≠ .purge x d) :
    ((finish (becomeIdle w)).tapRec x).purgeStatus = (s.tapRec x).purgeStatus ∧
      ((finish (becomeIdle w)).tapRec x).purgeMinutes = (s.tapRec x).purgeMinutes ∧
      ((finish (becomeIdle w)).tapRec x).purgeSeconds = (s.tapRec x).purgeSeconds := by
  obtain ⟨-, -, hstatus, hminutes, hseconds⟩ := finish_purge (becomeIdle w) x
  obtain ⟨hserved, hother⟩ := h.tapRec hq
  rw [hstatus, hminutes, hseconds]
  by_cases hc : nextServed (idleAfterPurge x s) (queueAfterPurge x s) = some (purgeEntry x s)
  · rw [hserved hc]
    exact h.status
  · rw [hother (.inr hc)]
    exact h.status

/-- R159. With no need left the tap has no request. -/
theorem PurgeOver.cleared_request (hq : ∀ e ∈ s.man.queue, ∀ d, e.need ≠ .purge x d) (ha : ¬ AskedAgain x s) :
    ((finish (becomeIdle w)).tapRec x).purgeRequest = .none ∧ ((finish (becomeIdle w)).tapRec x).state = (w.tapRec x).state := by
  obtain ⟨hstate, hrequest, -⟩ := finish_purge (becomeIdle w) x
  rw [hrequest, hstate, (h.tapRec hq).2 (.inl ha), h.request, if_neg ha]
  exact ⟨rfl, rfl⟩

/-- R159. A need that stands waits in the queue, or goes into service. -/
theorem PurgeOver.asked (hq : ∀ e ∈ s.man.queue, ∀ d, e.need ≠ .purge x d) (ha : AskedAgain x s) :
    (nextServed (idleAfterPurge x s) (queueAfterPurge x s) ≠ some (purgeEntry x s) →
      ((finish (becomeIdle w)).tapRec x).purgeRequest = .queued ∧ ((finish (becomeIdle w)).tapRec x).state = .idle) ∧
    (nextServed (idleAfterPurge x s) (queueAfterPurge x s) = some (purgeEntry x s) →
      ((finish (becomeIdle w)).tapRec x).purgeRequest = .inService ∧ ((finish (becomeIdle w)).tapRec x).state = .purging) := by
  obtain ⟨hstate, hrequest, -⟩ := finish_purge (becomeIdle w) x
  obtain ⟨hserved, hother⟩ := h.tapRec hq
  rw [hrequest, hstate]
  refine ⟨fun hc => ?_, fun hc => ?_⟩
  · have hidle := h.idle x
    rw [idleAfterPurge, if_pos rfl, ha.1] at hidle
    rw [hother (.inr hc), h.request, if_pos ha]
    exact ⟨rfl, of_decide_eq_true hidle.symm⟩
  · rw [hserved hc]
    exact ⟨rfl, rfl⟩

end

/-- The service of the queue and the end of the event. -/
theorem becomeIdle_alone (s : State) : Touches [.man, .kegs, .taps, .line, .image, .retry] s (finish (becomeIdle s)) :=
  finish_touches (becomeIdle_touches (Touches.refl _ s) (by decide) (by decide) (by decide) (by decide)) (by decide) (by decide) (by decide)

/-! ## A settle failure (R129) -/

/-- R129. REGULATOR is raised, and the operation is absent. -/
def opFailed (s : State) : State := clearOp (raise .regulator (some 8) s)

theorem opFailed_eq (s : State) : ∃ up seq atn free,
    opFailed s = { s with man := { s.man with op := none }, mgp := { s.mgp with up := up, seq := seq }, atn := atn, free := free } := by
  obtain ⟨up, seq, atn, free, h⟩ := raise_sends .regulator (some 8) s
  refine ⟨up, seq, atn, free, ?_⟩
  rw [opFailed, h]
  rfl

theorem opFailed_part (s : State) : (opFailed s).mgp.part = s.mgp.part := by
  obtain ⟨_, _, _, _, h⟩ := opFailed_eq s
  rw [h]

theorem opFailed_man (s : State) : (opFailed s).man = { s.man with op := none } := by
  obtain ⟨_, _, _, _, h⟩ := opFailed_eq s
  rw [h]

theorem opFailed_tapRec (y : Tap) (s : State) : (opFailed s).tapRec y = s.tapRec y := by
  obtain ⟨_, _, _, _, h⟩ := opFailed_eq s
  rw [h]

theorem opFailed_keg (b : Bay) (s : State) : (opFailed s).keg b = s.keg b := by
  obtain ⟨_, _, _, _, h⟩ := opFailed_eq s
  rw [h]

theorem opFailed_inCarb (b : Bay) (s : State) : inCarb b (opFailed s) = inCarb b s := by
  obtain ⟨_, _, _, _, h⟩ := opFailed_eq s
  rw [h]
  rfl

theorem opFailed_room {s : State} (h : Room s) : Room (opFailed s) :=
  (Work.raise (T := fun _ => True) (loss := ⟨True, True⟩) .regulator (some 8) s).room h

theorem settleFailed_alone (s : State) : Touches (gasParts ++ eventParts) s (finish (settleFailed s)) :=
  finish_touches (settleFailed_touches (Touches.refl _ s) (by decide) (by decide) (by decide) (by decide) (by decide) (by decide) (by decide)) (by decide) (by decide) (by decide)

section
variable {s : State} {op : Operation} (hop : s.man.op = some op)
include hop

theorem settleFailed_eq : settleFailed s = becomeIdle (tellEnded .regulator op (opFailed s)) := by
  unfold settleFailed
  rw [hop]
  rfl

theorem exec_settleTimeout (ha : Awake s) (hs : op.sub = .settling) (hd : 30 ≤ op.settle) :
    exec .operationSettleTimeout s = .next (finish (settleFailed s)) := by
  have hdue : settleDue s = true := by
    unfold settleDue
    rw [hop]
    simp only [hs, decide_true, Bool.true_and]
    exact decide_eq_true hd
  exact congrArg Host.Outcome.next (live_of ha hdue)

/-- R129. Whatever the kind, REGULATOR is raised for node 8. -/
theorem settleFailed_raised : Raised .regulator 8 (finish (settleFailed s)) := by
  have hbegun : Raised .regulator 8 (opFailed s) := raise_raised _ _ _
  have hserved := becomeIdle_alone (tellEnded .regulator op (opFailed s))
  have htold : Touches (gasParts ++ eventParts) (opFailed s) (tellEnded .regulator op (opFailed s)) :=
    tellEnded_touches (Touches.refl _ _) (by decide) (by decide) (by decide) (by decide) (by decide) (by decide) (by decide)
  rw [settleFailed_eq hop]
  exact raised_kept (raised_kept hbegun (htold .flags (by decide))) (hserved .flags (by decide))

end

/-! ## The charge that ends (R127, R130) -/

section
variable {b : Bay} {opened : Bool} {s v : State} (hm : v.man = { s.man with op := none }) (hr : v.mgp.part = .running) (ht : v.tap = s.tap)
include hm hr ht

/-- R126. The queue is served with the CHARGE, or the CHECK, ended. -/
theorem serves_untold : Serves (idleAfter [] s) s.man (finish (becomeIdle v)) := by
  refine serves_finish (becomeIdle_serves hr ?_ fun y => ?_)
  · rw [hm]
  · rw [idleAfter_nil, State.tapRec, State.tapRec, ht]

theorem serves_afterCharge : Serves (idleAfter [] s) s.man (finish (becomeIdle (chargeEnded b opened v))) := by
  refine serves_untold ((chargeEnded_man b opened v).trans hm) ?_ ?_
  · unfold chargeEnded
    split <;> exact hr
  · unfold chargeEnded
    split <;> exact ht

omit ht in
/-- R92, R127. Nothing queued marks the keg again. -/
theorem chargeEnded_settled (hk : v.keg b = s.keg b) (hc : inCarb b v = true) (hq : ∀ e ∈ s.man.queue, e.need ≠ .charge b) :
    let t := finish (becomeIdle (chargeEnded b opened v))
    (t.keg b).chargePending = false ∧ (t.keg b).settle = if opened then some 0 else (s.keg b).settle := by
  have hend : (chargeEnded b opened v).keg b = { s.keg b with chargePending := false, settle := if opened then some 0 else (s.keg b).settle } := by
    rw [chargeEnded, if_pos hc, keg_modKeg_same, hk]
  have hpart : (chargeEnded b opened v).mgp.part = .running := by
    unfold chargeEnded
    split <;> exact hr
  have hidle := becomeIdle_keg (s := chargeEnded b opened v) hpart (b := b) (by rw [chargeEnded_man, hm]; exact hq)
  have hfin := finish_alone (becomeIdle (chargeEnded b opened v))
  intro t
  have ht : t.keg b = _ := (keg_of_kegs (kegs_of_touches hfin (by decide)) b).trans (hidle.trans hend)
  rw [ht]
  exact ⟨rfl, rfl⟩

end

/-! ## The pours of a set that fails to settle (R129) -/

section
variable {s : State} {op : Operation} (hn : op.need.isPour = true)
include hn

theorem tellEnded_pours_of (reason : PourReason) (s : State) :
    ∃ l x, l.Perm (op.pours.map (·.tap)) ∧ tellEnded reason op s = forAll l (endPour reason) (s.setFree x) := by
  obtain ⟨l, x, hl, he⟩ := forAny_spec op.pours (fun p => endPour reason p.tap) s
  refine ⟨l.map (·.tap), x, hl.map _, ?_⟩
  have hm : forAll l (fun p => endPour reason p.tap) (s.setFree x) = forAll (l.map (·.tap)) (endPour reason) (s.setFree x) := by
    unfold forAll
    rw [List.foldl_map]
  obtain ⟨y, b, hk⟩ := eq_pour_of_isPour hn
  rw [tellEnded, hk]
  exact he.trans hm

/-- R129, R157. A pour of the set is gone, and one that waited is recorded as refused. -/
theorem settleFailed_pour (hop : s.man.op = some op) {p : SetPour} (hp : p ∈ op.pours) {q : Pour} (hq : (s.tapRec p.tap).pour = some q) :
    ((finish (settleFailed s)).tapRec p.tap).pour = none ∧
      (s.mgp.up.length < 10 → q.pouring = false → Recorded p.tap q true .regulator (finish (settleFailed s))) := by
  obtain ⟨l, x, hl, he⟩ := tellEnded_pours_of hn .regulator (opFailed s)
  have hmem : p.tap ∈ l := hl.mem_iff.2 (List.mem_map_of_mem hp)
  have hserved := becomeIdle_alone (tellEnded .regulator op (opFailed s))
  rw [settleFailed_eq hop]
  refine ⟨hserved .pourless (by decide) p.tap ?_, fun hup hw => recorded_kept ?_ (hserved .sentOn (by decide))⟩
  · rw [he]
    exact forAll_endPour_gone hmem _
  · have hroom : Room ((opFailed s).setFree x) := opFailed_room (room_of_length (by omega))
    have hq' : (((opFailed s).setFree x).tapRec p.tap).pour = some q := by
      rw [← hq]
      exact congrArg _ (opFailed_tapRec p.tap s)
    have hrec := forAll_endPour_recorded .regulator hmem hq' hroom
    rw [hw] at hrec
    rw [he]
    exact hrec

/-- R129, R159. While the manifold is BUSY the set's purge needs join the queue that is served. -/
theorem settleFailed_serves (hop : s.man.op = some op) (hr : s.mgp.part = .running) (hb : s.man.state = .busy)
    (hq : ∀ e ∈ s.man.queue, ∀ p ∈ op.pours, ∀ b, e.need ≠ .pour p.tap b) :
    ∃ raised : List GasEntry, Serves (idleAfter (op.pours.map (·.tap)) s) { s.man with queue := s.man.queue ++ raised } (finish (settleFailed s)) ∧
      ∀ e ∈ raised, ∃ y ∈ op.pours.map (·.tap), NeedsPurge y (s.modTap y fun r => { r with state := .idle }) ∧ e = purgeEntry y s := by
  obtain ⟨l, x, hl, he⟩ := tellEnded_pours_of hn .regulator (opFailed s)
  have hstart : PoursOver s [] ((opFailed s).setFree x) := by
    refine ⟨(opFailed_part s).trans hr, ⟨[], ?_, fun e he => (by cases he)⟩, fun y hy => (by cases hy), fun y => ?_, fun y _ => opFailed_tapRec y s⟩
    · rw [List.append_nil]
      exact opFailed_man s
    · rw [idleAfter_nil]
      exact congrArg (fun r : TapRecord => decide (r.state = .idle)) (opFailed_tapRec y s).symm
  have hover := hstart.forAll hb hop hn .regulator (m := l) (fun y hy e he b => by
    obtain ⟨p, hp, rfl⟩ := List.mem_map.1 (hl.mem_iff.1 hy)
    exact hq e he p hp b) hr
  rw [← he, List.append_nil] at hover
  have hover := hover.congr fun y => List.mem_reverse.trans hl.mem_iff
  obtain ⟨raised, hman, hraised⟩ := hover.man
  refine ⟨raised, ?_, hraised⟩
  rw [settleFailed_eq hop]
  exact serves_finish (becomeIdle_serves hover.part (by rw [hman]) hover.state)

end

/-! ## A pulse and a purge that end (R130, R134) -/

theorem workDue_of {op : Operation} {w limit : Nat} (hs : op.sub = .active) (hw : op.work = some w) (hl : limit ≤ w) : workDue limit op = true := by
  unfold workDue
  rw [hs, hw]
  exact decide_eq_true hl

section
variable {s : State} {op : Operation} {w : Nat} (ha : Awake s) (hr : s.mgp.part = .running) (hop : s.man.op = some op) (hs : op.sub = .active) (hw : op.work = some w)

section
variable {b : Bay} (hn : op.need = .charge b)
include ha hop hs hw hn

theorem exec_pulse (hl : s.man.pulseLength ≤ w) : exec .pulseEnd s = .next (finish (pulseEnded b s)) := by
  have hdue : pulseDue s = some b := by
    unfold pulseDue
    simp only [hop, hn, workDue_of hs hw hl, if_true]
  show execPulseEnd s = _
  unfold execPulseEnd
  rw [hdue]
  exact congrArg Host.Outcome.next (live_of ha rfl)

end

theorem pulseEnded_alone (b : Bay) (s : State) : Touches (gasParts ++ eventParts) s (finish (pulseEnded b s)) :=
  finish_touches (pulseEnded_touches (Touches.refl _ s) (by decide) (by decide) (by decide) (by decide)) (by decide) (by decide) (by decide)

/-- R130. The operation's valve is closed, and its record absent. -/
theorem opClosed_shows (s : State) : ShowsFrom (clearOp s) (clearOp (closeOp s)) := (closeOp_shows s).modMan _

theorem chargeEnded_blc (b : Bay) (opened : Bool) (s : State) : (chargeEnded b opened s).blc = s.blc := by
  unfold chargeEnded
  split <;> rfl

theorem chargeEnded_mgp (b : Bay) (opened : Bool) (s : State) : (chargeEnded b opened s).mgp = s.mgp := by
  unfold chargeEnded
  split <;> rfl

include hr in
theorem opClosed_part : (clearOp (closeOp s)).mgp.part = .running := by
  rw [(opClosed_shows s).mgp]
  exact hr

include hr in
theorem pulseEnded_serves {b : Bay} : Serves (idleAfter [] s) s.man (finish (pulseEnded b s)) := by
  refine serves_afterCharge (opClosed_shows s).man (opClosed_part hr) ?_
  obtain ⟨_, _, h⟩ := opClosed_shows s
  rw [h]
  rfl

include hr in
theorem pulseEnded_settled {b : Bay} (hc : inCarb b s = true) (hq : ∀ e ∈ s.man.queue, e.need ≠ .charge b) :
    ((finish (pulseEnded b s)).keg b).chargePending = false ∧ ((finish (pulseEnded b s)).keg b).settle = some 0 := by
  have hshows := opClosed_shows s
  have hk : (clearOp (closeOp s)).keg b = s.keg b := keg_of_kegs hshows.kegs b
  have hcarb : inCarb b (clearOp (closeOp s)) = inCarb b s := inCarb_congr (congrArg Keg.chain hk) hshows.sch
  exact chargeEnded_settled hshows.man (opClosed_part hr) hk (hcarb.trans hc) hq

include hr hop hs in
/-- R130. The gas-in valve of the keg is OFF. -/
theorem pulseEnded_gasIn {b : Bay} (hn : op.need = .charge b) : (finish (pulseEnded b s)).out (.gasIn b) = 0 := by
  have hpart : (chargeEnded b true (clearOp (closeOp s))).mgp.part = .running := by rw [chargeEnded_mgp, opClosed_part hr]
  rw [finish_out rfl, pulseEnded, becomeIdle_out hpart (by simp), out_of_blc (chargeEnded_blc _ _ _)]
  exact closeOp_charge hop hs hr hn

section
variable {x : Tap} {d : Nat} (hn : op.need = .purge x d)
include hop hs hn

include ha hw in
theorem exec_purgeComplete (hl : d ≤ w) : exec .purgeComplete s = .next (finish (purgeCompleted x s)) := by
  have hdue : purgeDue s = some x := by
    unfold purgeDue
    simp only [hop, hn, workDue_of hs hw hl, if_true]
  show execPurgeComplete s = _
  unfold execPurgeComplete
  rw [hdue]
  exact congrArg Host.Outcome.next (live_of ha rfl)

/-- R134. Both valves are OFF when the tap valve has returned. -/
theorem returned_out (hr : s.mgp.part = .running) : (returnOp (closeOp s)).out (.purge x) = 0 ∧ (returnOp (closeOp s)).out (.tapValve x) = 0 := by
  have hkeep : ∀ {o}, (closeOp s).out o = 0 → (returnOp (closeOp s)).out o = 0 := fun {o} ho => by
    refine (passing_out (l := [.tapValve 0, .tapValve 1]) (by decide) (closeOp s) (clearOp (closeOp s)) o).trans ?_
    split
    · rfl
    · exact ho
  obtain ⟨hpurge, hvalve⟩ := closeOp_purge hop hs hr hn
  exact ⟨hkeep hpurge, hkeep hvalve⟩

end

theorem purgeCompleted_alone (x : Tap) (s : State) : Touches (gasParts ++ eventParts) s (finish (purgeCompleted x s)) :=
  finish_touches (purgeCompleted_touches (Touches.refl _ s) (by decide) (by decide) (by decide) (by decide)) (by decide) (by decide) (by decide)

/-- R134. The purge's valves are closed, its record is absent, and the tap is CLEAN. -/
def purgeDone (x : Tap) (s : State) : State := purgeCleaned x (returnOp (closeOp s))

theorem purgeCompleted_eq (x : Tap) (s : State) : purgeCompleted x s = becomeIdle (purgeEnded x (purgeDone x s)) := rfl

theorem purgeDone_fields (x : Tap) (s : State) : (purgeDone x s).man = { s.man with op := none } ∧ (purgeDone x s).mgp = s.mgp ∧
    ∀ y, (purgeDone x s).tapRec y = if y = x then { s.tapRec x with purgeStatus := .clean, purgeMinutes := 0, purgeSeconds := 0 } else s.tapRec y := by
  obtain ⟨_, _, h⟩ := (opClosed_shows s).trans (returnOp_shows (closeOp s))
  unfold purgeDone purgeCleaned
  rw [h]
  exact ⟨rfl, rfl, fun y => tapRec_modTap _ _ _ _⟩

theorem idleAfterPurge_done (x : Tap) (s : State) : idleAfterPurge x (purgeDone x s) = idleAfterPurge x s := by
  obtain ⟨-, -, htap⟩ := purgeDone_fields x s
  funext y
  unfold idleAfterPurge
  rw [htap, htap, if_pos rfl]
  split <;> rfl

include hr in
/-- R134, R159. The end of a completed PURGE evaluates no need. -/
theorem purgeDone_over (x : Tap) (hq : ∀ e ∈ s.man.queue, ∀ d, e.need ≠ .purge x d) :
    PurgeOver x (purgeDone x s) (purgeEnded x (purgeDone x s)) ∧ ¬ AskedAgain x (purgeDone x s) := by
  obtain ⟨hman, hmgp, htap⟩ := purgeDone_fields x s
  have hclean : ((purgeDone x s).tapRec x).purgeStatus = .clean := by
    rw [htap, if_pos rfl]
  exact ⟨purgeEnded_over (by rw [hmgp]; exact hr) (by rw [hman]) (.inr hclean) (by rw [hman]; exact hq), fun ha => ha.2.1 hclean⟩

section
variable {x : Tap} (hq : ∀ e ∈ s.man.queue, ∀ d, e.need ≠ .purge x d)
include hr hq

theorem purgeCompleted_clean : ((finish (purgeCompleted x s)).tapRec x).purgeStatus = .clean ∧ ((finish (purgeCompleted x s)).tapRec x).purgeMinutes = 0 ∧
    ((finish (purgeCompleted x s)).tapRec x).purgeSeconds = 0 ∧ ((finish (purgeCompleted x s)).tapRec x).purgeRequest = .none := by
  obtain ⟨hover, hnot⟩ := purgeDone_over hr x hq
  obtain ⟨hman, -, htap⟩ := purgeDone_fields x s
  have hkept := hover.kept (by rw [hman]; exact hq)
  have hrequest := hover.cleared_request (by rw [hman]; exact hq) hnot
  rw [htap, if_pos rfl] at hkept
  obtain ⟨hstatus, hminutes, hseconds⟩ := hkept
  rw [purgeCompleted_eq]
  exact ⟨hstatus, hminutes, hseconds, hrequest.1⟩

theorem purgeCompleted_idle (hp : (s.tapRec x).pour = none) : ((finish (purgeCompleted x s)).tapRec x).state = .idle := by
  obtain ⟨hover, hnot⟩ := purgeDone_over hr x hq
  obtain ⟨hman, -, -⟩ := purgeDone_fields x s
  have hidle := hover.idle x
  rw [idleAfterPurge_done, idleAfterPurge, if_pos rfl, hp] at hidle
  obtain ⟨-, hstate⟩ := hover.cleared_request (by rw [hman]; exact hq) hnot
  rw [purgeCompleted_eq, hstate]
  exact of_decide_eq_true hidle.symm

theorem purgeCompleted_serves : Serves (idleAfterPurge x s) s.man (finish (purgeCompleted x s)) := by
  obtain ⟨hover, hnot⟩ := purgeDone_over hr x hq
  obtain ⟨hman, -, -⟩ := purgeDone_fields x s
  have hserves := hover.serves (m := s.man) (by rw [hman])
  rw [idleAfterPurge_done, queueAfterPurge, if_neg hnot, hman] at hserves
  rw [purgeCompleted_eq]
  exact hserves

/-- R134. The valves of a PURGE that has completed are OFF, the tap valve unless a pour waited. -/
theorem purgeCompleted_out {d : Nat} (hop : s.man.op = some op) (hs : op.sub = .active) (hn : op.need = .purge x d) :
    (finish (purgeCompleted x s)).out (.purge x) = 0 ∧ ((s.tapRec x).pour = none → (finish (purgeCompleted x s)).out (.tapValve x) = 0) := by
  obtain ⟨hover, -⟩ := purgeDone_over hr x hq
  obtain ⟨-, -, htap⟩ := purgeDone_fields x s
  obtain ⟨hpurge, hvalve⟩ := returned_out hop hs hn hr
  have hserved : ∀ o, o ≠ .regulator → (purgeCompleted x s).out o = (purgeEnded x (purgeDone x s)).out o := fun o hne => becomeIdle_out hover.part hne
  constructor
  · rw [finish_out rfl, hserved _ (by simp), hover.out _ (.inl (by simp))]
    exact hpurge
  · intro hp
    rw [finish_out rfl, hserved _ (by simp), hover.out _ (.inr (by rw [htap, if_pos rfl]; exact hp))]
    exact hvalve

end

end

/-! ## A purge that fails to settle (R129, R159) -/

section
variable (x : Tap) (s : State)

theorem opFailed_askedAgain : AskedAgain x (opFailed s) ↔ AskedAgain x s := by
  unfold AskedAgain
  rw [opFailed_tapRec, opFailed_man]

theorem opFailed_queueAfterPurge : queueAfterPurge x (opFailed s) = queueAfterPurge x s := by
  obtain ⟨_, _, _, _, h⟩ := opFailed_eq s
  rw [h]
  rfl

theorem opFailed_idleAfterPurge : idleAfterPurge x (opFailed s) = idleAfterPurge x s := by
  obtain ⟨_, _, _, _, h⟩ := opFailed_eq s
  rw [h]
  rfl

end

/-- R129, R159. While the manifold is BUSY the purge ends with its need standing as it did. -/
theorem opFailed_purgeOver {x : Tap} {s : State} (hr : s.mgp.part = .running) (hb : s.man.state = .busy) (hq : ∀ e ∈ s.man.queue, ∀ d, e.need ≠ .purge x d) :
    PurgeOver x (opFailed s) (purgeEnded x (opFailed s)) := by
  have hman := opFailed_man s
  exact purgeEnded_over ((opFailed_part s).trans hr) (by rw [hman]) (.inl (by rw [hman]; exact hb)) (by rw [hman]; exact hq)

/-- R129, R159. The failed purge leaves the tap's status and timer; what its need asks for is served with the queue. -/
theorem purgeFailed_ends {x : Tap} {s : State} (hr : s.mgp.part = .running) (hb : s.man.state = .busy) (hq : ∀ e ∈ s.man.queue, ∀ d, e.need ≠ .purge x d) :
    let t := finish (becomeIdle (purgeEnded x (opFailed s)))
    let next := nextServed (idleAfterPurge x s) (queueAfterPurge x s)
    ((t.tapRec x).purgeStatus = (s.tapRec x).purgeStatus ∧ (t.tapRec x).purgeMinutes = (s.tapRec x).purgeMinutes ∧
      (t.tapRec x).purgeSeconds = (s.tapRec x).purgeSeconds) ∧
    (¬ AskedAgain x s → (t.tapRec x).purgeRequest = .none) ∧
    (AskedAgain x s → (next ≠ some (purgeEntry x s) → (t.tapRec x).purgeRequest = .queued ∧ (t.tapRec x).state = .idle) ∧
      (next = some (purgeEntry x s) → (t.tapRec x).purgeRequest = .inService ∧ (t.tapRec x).state = .purging)) ∧
    Serves (idleAfterPurge x s) { s.man with queue := queueAfterPurge x s } t := by
  have hover := opFailed_purgeOver hr hb hq
  have hman := opFailed_man s
  have hq' : ∀ e ∈ (opFailed s).man.queue, ∀ d, e.need ≠ .purge x d := by
    rw [hman]
    exact hq
  have hentry : purgeEntry x (opFailed s) = purgeEntry x s := by
    unfold purgeEntry
    rw [opFailed_tapRec]
  have hkept := hover.kept hq'
  have hclear := hover.cleared_request hq'
  have hasked := hover.asked hq'
  have hserves := hover.serves (m := s.man) (by rw [hman])
  rw [opFailed_tapRec] at hkept
  rw [opFailed_askedAgain] at hclear
  rw [opFailed_askedAgain, opFailed_queueAfterPurge, opFailed_idleAfterPurge, hentry] at hasked
  rw [opFailed_queueAfterPurge, opFailed_idleAfterPurge] at hserves
  exact ⟨hkept, fun hn => (hclear hn).1, hasked, hserves⟩

/-! ## The obligation -/

/-- R128. The value that settles an operation, and the one that does not. -/
theorem settleTest_spec {v : Int} {s : State} {op : Operation} (hop : s.man.op = some op) (hs : op.sub = .settling) :
    ((s.man.settleTolerance < v - op.pressure ∨ s.man.settleTolerance < op.pressure - v) → settleTest v s = s) ∧
    (v - op.pressure ≤ s.man.settleTolerance → op.pressure - v ≤ s.man.settleTolerance → settleTest v s = activate op s) := by
  rw [settleTest_eq hop v hs]
  constructor
  · intro hout
    refine if_neg fun hin => ?_
    obtain ⟨h1, h2⟩ := withinTolerance_iff.1 hin
    omega
  · exact fun h1 h2 => if_pos (withinTolerance_iff.2 ⟨h1, h2⟩)

/-- Settles O48: the value that activates an operation, its settle failure by its kind, and the ends of a pulse and of a purge. -/
theorem operationsSettleAndEnd : Obligations.OperationsSettleAndEnd := by
  refine ⟨fun v s op hr hop hs => ?_, fun s op ha hr hop hs hd => ⟨_, exec_settleTimeout hop ha hs hd, ?_⟩,
    fun s op ha hr hop hs => ⟨fun b w hn hw hl => ⟨_, exec_pulse ha hop hs hw hn hl, ?_⟩, fun x d w hn hw hl hq => ⟨_, exec_purgeComplete ha hop hs hw hn hl, ?_⟩⟩⟩
  · obtain ⟨hout, hin⟩ := settleTest_spec (v := v) hop hs
    refine ⟨hout, fun h1 h2 => ?_⟩
    rw [hin h1 h2]
    exact ⟨activate_op hop, fun b => activate_charge hr, fun hn p hp => activate_pours hr hn hp, fun x d => activate_purge hop hr, activate_check hr⟩
  · refine ⟨settleFailed_raised hop, settleFailed_alone s, fun hn => ?_, fun b hn => ?_,
      fun hn => ⟨fun p hp q hq => settleFailed_pour hn hop hp hq, settleFailed_serves hn hop hr⟩, fun x d hn hb hq => ?_⟩
    · have he : settleFailed s = becomeIdle (opFailed s) := by rw [settleFailed_eq hop, tellEnded, hn]
      rw [he]
      obtain ⟨_, _, _, _, h⟩ := opFailed_eq s
      exact serves_untold (opFailed_man s) ((opFailed_part s).trans hr) (by rw [h])
    · have he : settleFailed s = becomeIdle (chargeEnded b false (opFailed s)) := by
        rw [settleFailed_eq hop, tellEnded, hn, hs]
        rfl
      rw [he]
      obtain ⟨_, _, _, _, h⟩ := opFailed_eq s
      have hpart := (opFailed_part s).trans hr
      exact ⟨serves_afterCharge (opFailed_man s) hpart (by rw [h]), fun hc hq =>
        chargeEnded_settled (opFailed_man s) hpart (opFailed_keg b s) ((opFailed_inCarb b s).trans hc) hq⟩
    · have he : settleFailed s = becomeIdle (purgeEnded x (opFailed s)) := by rw [settleFailed_eq hop, tellEnded, hn]
      obtain ⟨⟨hstatus, hminutes, hseconds⟩, hclear, hasked, hserves⟩ := purgeFailed_ends hr hb hq
      rw [he]
      exact ⟨hstatus, hminutes, hseconds, fun hy => hclear hy, fun hy => (hasked hy).1, fun hy => (hasked hy).2, hserves⟩
  · exact ⟨pulseEnded_gasIn hr hop hs hn, pulseEnded_alone b s, pulseEnded_serves hr, pulseEnded_settled hr⟩
  · obtain ⟨hstatus, hminutes, hseconds, hrequest⟩ := purgeCompleted_clean hr hq
    obtain ⟨hpurge, hvalve⟩ := purgeCompleted_out hr hq hop hs hn
    exact ⟨hstatus, hminutes, hseconds, hrequest, hpurge, purgeCompleted_alone x s, fun hp => ⟨purgeCompleted_idle hr hq hp, hvalve hp⟩, purgeCompleted_serves hr hq⟩

end Sys2Proof.Proofs
end
